-- ==== Sys2Proof/Word.lean ====
section
/-! DEFINITION. The word types of the Valheram VH3 (R7) and the names of its value formats. -/

namespace Sys2Proof

/-- A byte, 8 bits (R7). -/
abbrev Byte := BitVec 8

/-- A word, 32 bits (R7): the contents of a v or k register (R50). -/
abbrev Word := BitVec 32

/-- A doubleword, 64 bits (R7). -/
abbrev Dword := BitVec 64

/-- One bit per thread of a group, bit t for thread t (R14, R19). -/
abbrev Mask := BitVec 32

/-- A virtual byte address, VA bits 55:0 (R76). -/
abbrev Va := BitVec 56

/-- A 6-bit register operand field (R50). -/
abbrev RegField := BitVec 6

/-- A format tag code (R57). -/
abbrev FTag := BitVec 4

end Sys2Proof
end

