-- ==== Sys2Proof/Config.lean ====
section
/-! DEFINITION. What is fixed for one device: the figures of R1 that the model uses, the values of the reset state that
the spec leaves open (named in the assumption log), and the free values, which are opaque constants without a body. -/

namespace Sys2Proof.Config

/-! ### Figures (R1, R24, R88, R94, R97, R117, R126) -/

/-- Bytes of device memory: physical addresses run from 0 to this, exclusive (R80). -/
def dramBytes : Nat := 512000000000
/-- Owner group slots of a lane (R40). -/
def ownerSlots : Nat := 8
/-- HOLDER number of the first harvest slot (R94). -/
def harvestBase : Nat := 1024
/-- HOLDER number of the supervisor slot (R94). -/
def supSlot : Nat := 1280
/-- Bytes of a lane bank (R51). -/
def bankBytes : Nat := 32768
/-- Frames of a line store (R88). -/
def frames : Nat := 12288
/-- Frames of the shared pool (R88). -/
def poolLines : Nat := 2040
/-- Entries of a claim table (R94) and of an estate table (R126). -/
def tableEntries : Nat := 4096
/-- Pages of a cluster's scratchpad and bytes of a page (R97). -/
def spadPages : Nat := 1024
def pageBytes : Nat := 16384
/-- First address of the peer window and of the local window (R98). -/
def peerWindow : Nat := 0x00FE000000000000
def localWindow : Nat := 0x00FF000000000000
/-- Task slots of a cluster (R117). -/
def taskSlots : Nat := 2048
/-- Records of a host-write reserve (R106). -/
def reserveRecords : Nat := 419430
/-- Instructions of a run (R23). -/
def runLength : Nat := 24

/-! ### Values the spec leaves open at reset, each named in the assumption log -/

/-- Address of the first instruction of the supervisor image that the factors load (R406, R434). DESIGN CHOICE (log 4). -/
def supEntry : Va := 0x10000
/-- The trip temperature before the host writes one (R402). DESIGN CHOICE (log 25). -/
def tripReset : Nat := 110
/-- The byte that memory nothing has written reads as. DESIGN CHOICE (log 3). -/
def unwrittenByte : Byte := 0

/-! ### Free values (log 2): nothing constrains them -/

/-- An undefined word (R11): the argument is the draw. -/
opaque freeWord : Nat → Word
/-- What the identity register of a device reads (R387); the spec gives it no value. -/
opaque identity : BitVec 64
/-- An undefined byte (R11): the argument is the draw. -/
opaque freeByte : Nat → Byte
/-- An undefined scratchpad byte (R99): the draw made when its page was last placed or returned, and the offset. -/
opaque freeScratch : Nat → Nat → Byte
/-- The 128-bit seal key that the device draws from its random source at the n-th CREATE (R61). -/
opaque sealKey : Nat → BitVec 128

end Sys2Proof.Config
end

