-- ==== Sys2Proof/Machine/Store.lean ====
section
/-! DEFINITION. Sparse storage as plain data: maps from numbers kept in rising key order, and byte memory in one
canonical form. -/

namespace Sys2Proof.Machine

/-- A map from numbers, listed in rising key order. -/
abbrev SMap (α : Type) := List (Nat × α)

namespace SMap
variable {α : Type}

/-- The entry of key k, if listed. -/
def get? : SMap α → Nat → Option α
  | [], _ => none
  | (k', a) :: r, k => if k' = k then some a else get? r k

/-- The entry of key k, or d. -/
def getD (m : SMap α) (k : Nat) (d : α) : α := (m.get? k).getD d

/-- The map with a at key k. -/
def set : SMap α → Nat → α → SMap α
  | [], k, a => [(k, a)]
  | (k', b) :: r, k, a =>
    if k < k' then (k, a) :: (k', b) :: r
    else if k' = k then (k, a) :: r
    else (k', b) :: set r k a

/-- The map without key k. -/
def erase (m : SMap α) (k : Nat) : SMap α := m.filter (fun e => !(e.1 == k))

/-- The map with every listed entry changed by f. -/
def mapVals (f : Nat → α → α) (m : SMap α) : SMap α := m.map (fun e => (e.1, f e.1 e.2))

/-- The least number below bound that is not listed. -/
def freeKey (m : SMap α) (bound : Nat) : Option Nat :=
  (List.range bound).find? (fun k => (m.get? k).isNone)

end SMap

/-- Byte memory: the bytes that differ from what an unwritten byte reads as, in rising address order. -/
abbrev Memory := List Host.Cell

namespace Memory

/-- The byte at address a (log 3: a byte nothing has written reads 0). -/
def read (m : Memory) (a : Nat) : Byte := SMap.getD m a 0#8

/-- The memory with b at address a: writing 0 removes the entry, so equal memories are equal lists. -/
def write (m : Memory) (a : Nat) (b : Byte) : Memory :=
  if b = 0#8 then SMap.erase m a else SMap.set m a b

/-- The canonical form: addresses strictly rising and no entry 0. -/
def wf (m : Memory) : Bool :=
  decide (m.Pairwise (fun x y => x.1 < y.1)) && m.all (fun e => !(e.2 == 0#8))

/-- n bytes from address a, the lowest first. -/
def readBytes (m : Memory) (a n : Nat) : List Byte := (List.range n).map (fun i => m.read (a + i))

/-- The bytes bs from address a. -/
def writeBytes : Memory → Nat → List Byte → Memory
  | m, _, [] => m
  | m, a, b :: bs => writeBytes (m.write a b) (a + 1) bs

end Memory

/-- The number a little-endian byte list stands for (R6). -/
def leNat : List Byte → Nat
  | [] => 0
  | b :: bs => b.toNat + 256 * leNat bs

/-- n little-endian bytes of a number (R6). -/
def leBytes (n v : Nat) : List Byte := (List.range n).map (fun i => BitVec.ofNat 8 (v >>> (8 * i)))

/-- Bits lo to lo + n - 1 of a number. -/
def bitsOf (v lo n : Nat) : Nat := (v >>> lo) % 2 ^ n

/-- The signed value of the low n bits. -/
def sextNat (v n : Nat) : Int := if v % 2 ^ n < 2 ^ (n - 1) then ((v % 2 ^ n : Nat) : Int) else ((v % 2 ^ n : Nat) : Int) - 2 ^ n

end Sys2Proof.Machine
end

