-- ==== Sys2Proof/Syntax.lean ====
section
/-! DEFINITION. The instructions of the Valheram VH3: one constructor for each row of the opcode table, that is the
256 opcodes of R190, the sixteen compact forms of R188, the dictionary form of R189, and the events that carry no
encoding. The operands of a word are the fields of its format (R184, R186, R187). -/

namespace Sys2Proof

/-- Format A (R186), and format K, which has the same layout: guard g, uniform bit u, boundary bit e, and the
register fields b, a, d. -/
structure WordA where
  b : RegField
  a : RegField
  d : RegField
  g : BitVec 3
  u : Bool
  e : Bool
  deriving DecidableEq, Repr

/-- Format I (R186). -/
structure WordI where
  imm : BitVec 12
  d : RegField
  g : BitVec 3
  u : Bool
  e : Bool
  deriving DecidableEq, Repr

/-- Format J (R186). -/
structure WordJ where
  off : BitVec 18
  g : BitVec 3
  u : Bool
  e : Bool
  deriving DecidableEq, Repr

/-- Format M (R186): scaled count s, offset register o, line register l, register d. -/
structure WordM where
  s : BitVec 3
  o : RegField
  l : BitVec 3
  d : RegField
  g : BitVec 3
  u : Bool
  e : Bool
  deriving DecidableEq, Repr

/-- Format O (R186): offset register b, the two bits x that must be zero, span register sp, status predicate p, line
register l. -/
structure WordO where
  b : RegField
  x : BitVec 2
  sp : BitVec 4
  p : BitVec 3
  l : BitVec 3
  g : BitVec 3
  u : Bool
  e : Bool
  deriving DecidableEq, Repr

/-- Format C (R186): condition code cc and predicate p. -/
structure WordC where
  b : RegField
  a : RegField
  cc : BitVec 3
  p : BitVec 3
  g : BitVec 3
  u : Bool
  e : Bool
  deriving DecidableEq, Repr

/-- A compact form (R188): second source sb, destination and first source d, boundary bit e. -/
structure WordH where
  sb : BitVec 4
  d : BitVec 5
  e : Bool
  deriving DecidableEq, Repr

/-- A dictionary form (R189): guard override go, index idx, boundary bit e. -/
structure WordD where
  go : BitVec 3
  idx : BitVec 10
  e : Bool
  deriving DecidableEq, Repr

/-- The instructions and events of the opcode table. -/
inductive Instr where
  -- Row 0: control (R199 to R207).
  | nop (w : WordA)
  | bra (w : WordJ)
  | brany (w : WordJ)
  | brx (w : WordA)
  | call (w : WordJ)
  | ret (w : WordA)
  | pushm (w : WordC)
  | flipm (w : WordA)
  | popm (w : WordA)
  | breakm (w : WordC)
  | safept (w : WordJ)
  | exit (w : WordA)
  | yield (w : WordA)
  | trap (w : WordI)
  | syscall (w : WordI)
  | eret (w : WordA)
  -- Row 1: integer arithmetic (R208).
  | iadd (w : WordA)
  | isub (w : WordA)
  | imul (w : WordA)
  | imulhs (w : WordA)
  | imulhn (w : WordA)
  | imad (w : WordA)
  | iabs (w : WordA)
  | ineg (w : WordA)
  | iminS (w : WordA)
  | iminN (w : WordA)
  | imaxS (w : WordA)
  | imaxN (w : WordA)
  | iaddminS (w : WordA)
  | iaddsatS (w : WordA)
  | isubsatS (w : WordA)
  | iaddmaxS (w : WordA)
  -- Row 2: immediates, 64-bit, selection (R209 to R211).
  | iaddi (w : WordI)
  | imuli (w : WordI)
  | andi (w : WordI)
  | ori (w : WordI)
  | xori (w : WordI)
  | shli (w : WordI)
  | shrli (w : WordI)
  | shrai (w : WordI)
  | movi (w : WordI)
  | movhi (w : WordI)
  | ldk (w : WordI)
  | iadd64 (w : WordA)
  | isub64 (w : WordA)
  | imadw (w : WordA)
  | icmpiS (w : WordC)
  | sel (w : WordA)
  -- Row 3: logic and bits (R212, R213).
  | and_ (w : WordA)
  | or_ (w : WordA)
  | xor (w : WordA)
  | andn (w : WordA)
  | not_ (w : WordA)
  | shl (w : WordA)
  | shrl (w : WordA)
  | shra (w : WordA)
  | rotl (w : WordA)
  | clz (w : WordA)
  | ctz (w : WordA)
  | popc (w : WordA)
  | brev (w : WordA)
  | bfx (w : WordA)
  | bfi (w : WordA)
  | prmb (w : WordA)
  -- Row 4: compares, predicates, moves (R214 to R216).
  | icmpS (w : WordC)
  | icmpN (w : WordC)
  | fcmp (w : WordC)
  | pset (w : WordC)
  | pand (w : WordC)
  | por (w : WordC)
  | pxor (w : WordC)
  | pmov (w : WordC)
  | voteAny (w : WordC)
  | voteAll (w : WordC)
  | ballot (w : WordA)
  | mov (w : WordA)
  | movk (w : WordA)
  | rdsr (w : WordI)
  | wrsr (w : WordI)
  | wid (w : WordI)
  -- Row 5: lane movement (R217, R218).
  | shflIdx (w : WordA)
  | shflUp (w : WordA)
  | shflDn (w : WordA)
  | shflXor (w : WordA)
  | bcast (w : WordA)
  | rdth (w : WordA)
  | wrth (w : WordA)
  | redaddS (w : WordA)
  | redminS (w : WordA)
  | redmaxS (w : WordA)
  | redaddF32 (w : WordA)
  | scanaddS (w : WordA)
  | scanaddF32 (w : WordA)
  | match_ (w : WordA)
  | elect (w : WordC)
  | gsize (w : WordA)
  -- Row 6: FP32 (R219 to R221).
  | fadd (w : WordA)
  | fsub (w : WordA)
  | fmul (w : WordA)
  | ffma (w : WordA)
  | fmin (w : WordA)
  | fmax (w : WordA)
  | fneg (w : WordA)
  | fabs (w : WordA)
  | frcp (w : WordA)
  | frsq (w : WordA)
  | fsqrt (w : WordA)
  | fexp2 (w : WordA)
  | flog2 (w : WordA)
  | ftanh (w : WordA)
  | fsig (w : WordA)
  | faddmin (w : WordA)
  -- Row 7: packed and dot (R222 to R224).
  | haddBf (w : WordA)
  | hmulBf (w : WordA)
  | hfmaBf (w : WordA)
  | haddHf (w : WordA)
  | hmulHf (w : WordA)
  | hfmaHf (w : WordA)
  | hminBf (w : WordA)
  | hmaxBf (w : WordA)
  | hminHf (w : WordA)
  | hmaxHf (w : WordA)
  | hdotBf (w : WordA)
  | hdotHf (w : WordA)
  | mdot4 (w : WordA)
  | idot4S (w : WordA)
  | idot8S (w : WordA)
  | frnd (w : WordA)
  -- Row 8: conversions and tags (R225, R226).
  | cvtF32S32 (w : WordA)
  | cvtS32F32 (w : WordA)
  | cvtF32N32 (w : WordA)
  | cvtN32F32 (w : WordA)
  | cvtBfF32 (w : WordA)
  | cvtF32Bf (w : WordA)
  | cvtHfF32 (w : WordA)
  | cvtF32Hf (w : WordA)
  | cvtM8F32 (w : WordA)
  | cvtF32M8 (w : WordA)
  | cvtM4F32 (w : WordA)
  | cvtF32M4 (w : WordA)
  | cvtI8S32 (w : WordA)
  | cvtI4S32 (w : WordA)
  | setfmt (w : WordI)
  | getfmt (w : WordA)
  -- Row 9: lines (R232 to R238).
  | open_ (w : WordO)
  | openW (w : WordO)
  | recall (w : WordO)
  | recallD (w : WordO)
  | ldB8s (w : WordM)
  | ldB8n (w : WordM)
  | ldH16s (w : WordM)
  | ldH16n (w : WordM)
  | ldW32 (w : WordM)
  | ldW64 (w : WordM)
  | ldW128 (w : WordM)
  | stB8 (w : WordM)
  | stH16 (w : WordM)
  | stW32 (w : WordM)
  | stW64 (w : WordM)
  | stW128 (w : WordM)
  -- Row A: spans, residency, tags (R239 to R250).
  | spset (w : WordA)
  | spnarrow (w : WordA)
  | spadv (w : WordA)
  | spget (w : WordA)
  | spchk (w : WordA)
  | spsave (w : WordM)
  | spload (w : WordM)
  | flushl (w : WordO)
  | lstat (w : WordM)
  | tagset (w : WordA)
  | tagget (w : WordA)
  | pref (w : WordO)
  | grow (w : WordI)
  | shrink (w : WordI)
  | lend (w : WordA)
  | reclaim (w : WordA)
  -- Row B: atomics, puts, CWAIT (R251 to R256).
  | aadd (w : WordM)
  | aadd64 (w : WordM)
  | afadd (w : WordM)
  | aminS (w : WordM)
  | amaxS (w : WordM)
  | aminN (w : WordM)
  | amaxN (w : WordM)
  | aand (w : WordM)
  | aor (w : WordM)
  | axor (w : WordM)
  | axchg (w : WordM)
  | acas (w : WordM)
  | acas64 (w : WordM)
  | put (w : WordA)
  | putv (w : WordA)
  | cwait (w : WordA)
  -- Row C: copies, rings, barriers (R257 to R278).
  | copy (w : WordA)
  | copyTr8 (w : WordA)
  | copyTr16 (w : WordA)
  | copyMc (w : WordA)
  | drain (w : WordA)
  | copyl (w : WordA)
  | seal (w : WordA)
  | waitb (w : WordI)
  | wptr (w : WordI)
  | ringPush (w : WordI)
  | ringPop (w : WordI)
  | ringTry (w : WordI)
  | ringAllow (w : WordI)
  | barArrive (w : WordI)
  | barWait (w : WordI)
  | barExpect (w : WordI)
  -- Row D: matrix (R279 to R291).
  | mma (w : WordA)
  | mmaSc (w : WordA)
  | mhad (w : WordA)
  | mqnt (w : WordA)
  | mwait (w : WordI)
  | mrel (w : WordA)
  | accrd (w : WordA)
  | accwr (w : WordA)
  | accz (w : WordA)
  | gang (w : WordA)
  | mprog (w : WordA)
  | accst (w : WordA)
  | fenceOpnd (w : WordA)
  | mstat (w : WordA)
  | accld (w : WordA)
  | mcancel (w : WordA)
  -- Row E: objects, estates, tasks (R292 to R306).
  | acq (w : WordA)
  | rel (w : WordA)
  | bind (w : WordA)
  | unbind (w : WordA)
  | fence (w : WordI)
  | promise (w : WordA)
  | heir (w : WordA)
  | hold (w : WordA)
  | relinq (w : WordA)
  | estat (w : WordA)
  | waitw (w : WordA)
  | wake (w : WordA)
  | enq (w : WordA)
  | deq (w : WordA)
  | tdone (w : WordA)
  | depadd (w : WordA)
  -- Row F: supervisor (R307 to R316).
  | mboxrd (w : WordA)
  | mboxwr (w : WordA)
  | rdg (w : WordA)
  | wrg (w : WordA)
  | gstop (w : WordA)
  | gresume (w : WordA)
  | gkill (w : WordA)
  | xlinv (w : WordA)
  | fqpop (w : WordA)
  | fqreplay (w : WordA)
  | cycles (w : WordA)
  | brk (w : WordI)
  | perfrd (w : WordA)
  | sigrd (w : WordA)
  | harvest (w : WordA)
  | ctxsw (w : WordA)
  -- The compact forms (R188).
  | movCompact (w : WordH)
  | iaddCompact (w : WordH)
  | isubCompact (w : WordH)
  | imulCompact (w : WordH)
  | andCompact (w : WordH)
  | orCompact (w : WordH)
  | xorCompact (w : WordH)
  | shlCompact (w : WordH)
  | shrlCompact (w : WordH)
  | shraCompact (w : WordH)
  | iminSCompact (w : WordH)
  | imaxSCompact (w : WordH)
  | faddCompact (w : WordH)
  | fsubCompact (w : WordH)
  | fmulCompact (w : WordH)
  | fmaxCompact (w : WordH)
  -- The dictionary form (R189).
  | dictionaryForm (w : WordD)
  -- The events of the opcode table, which have no encoding.
  /-- R26, R267: pending result n is written and its scoreboard bits clear. -/
  | resultWrite (n : Nat)
  /-- R349: the lane's arbiter picks the winner at a run boundary. -/
  | runArbitration (core lane : Nat)
  /-- R233: request n, a line fetch or an open waiting for a claim or a replay, goes on. -/
  | fetchComplete (n : Nat)
  /-- R107: the line store fetches ahead into a SPEC frame. -/
  | speculativeFetch (core ctx : Nat) (va : Va) (tag : BitVec 4)
  /-- R87: stale notice n arrives at its core. -/
  | staleNotice (n : Nat)
  /-- R235, R435: write-back n arrives at its home. -/
  | writeBack (n : Nat)
  /-- R235: acknowledgement n of a write-back arrives at its core. -/
  | writeBackAck (n : Nat)
  /-- R251: atomic request n is performed at its place. -/
  | atomicRequest (n : Nat)
  /-- R254: the data of put n arrive at their place. -/
  | putData (n : Nat)
  /-- R149: the counter add n of a put is performed. -/
  | counterAdd (n : Nat)
  /-- R270: the step n of an ACQ, REL, PROMISE or RELINQ is performed at its home. -/
  | objectStep (n : Nat)
  /-- R115: ring operation n is performed or waits at the hub. -/
  | ringOpAtHub (n : Nat)
  /-- R276: barrier operation n is performed at the hub. -/
  | barrierOpAtHub (n : Nat)
  /-- R119: task operation n is performed at the hub. -/
  | taskOpAtHub (n : Nat)
  /-- R135: waiter registration n arrives at its slice or hub. -/
  | waiterArrival (n : Nat)
  /-- R156: a copy channel starts its next entry. -/
  | entryStart (core chan : Nat)
  /-- R260: a copy channel delivers up to its next 128-byte boundary. -/
  | copyDelivery (core chan : Nat)
  /-- R152: the delivered entry of a channel goes DONE. -/
  | copyDone (core chan : Nat)
  /-- R284: the matrix engine applies one K-block. -/
  | kBlock (core : Nat)
  /-- R285: the engine's finished operation leaves its queue. -/
  | operationDone (core : Nat)
  /-- R340: the scheduler places the next ready block. -/
  | placement
  /-- R358: a revoked group's registers are in the reserve bank. -/
  | parkComplete (core slot : Nat)
  /-- R360: a parked group's image is back. -/
  | unparkComplete (core slot : Nat)
  /-- R356: CTXSW SAVE or RESTORE of the core finishes. -/
  | contextSaveComplete (core : Nat)
  /-- R328: the implicit release of an ending group. -/
  | implicitRelease (core slot : Nat)
  /-- R131: the hub conveys or settles an ended group's holdings and frees its slot. -/
  | conveyance (core slot : Nat)
  /-- R110: a launch's completion word is stored. -/
  | launchComplete (launch : Nat)
  /-- R351: the core's 64-cycle interval of this number begins. -/
  | intervalStart (core interval : Nat)
  /-- R256: an unwatched CWAIT word is read again. -/
  | cwaitPoll (core slot : Nat)
  /-- R376: the partner has not closed the window in time. -/
  | duplexTimeout (core slot : Nat)
  /-- R400: unanswered fabric atomic n is sent again. -/
  | retransmit (n : Nat)
  /-- R404: the telemetry registers take the sensors' readings. -/
  | telemetryRefresh (dieTemp diePower stackTemp : List Nat)
  /-- R389 command 1. -/
  | create (ctx : Nat)
  /-- R389 command 2. -/
  | suspend (ctx : Nat)
  /-- R389 command 3. -/
  | resume (ctx : Nat)
  /-- R389 command 4. -/
  | teardown (ctx : Nat)
  /-- R339: a logical cluster moves to another physical cluster. -/
  | remap (ctx logical phys : Nat)
  /-- R402, R403. -/
  | setp (die level : Nat)
  /-- R402. -/
  | gate (cluster : Nat) (off : Bool)
  /-- R385, R402. -/
  | light (plane : Nat)
  /-- R385, R402. -/
  | dark (plane : Nat)
  /-- R385: a darkening plane has ejected its last packet. -/
  | planeDark (plane : Nat)
  /-- R402. -/
  | refresh (stack mode : Nat)
  /-- R402. -/
  | tripset (temp : Nat)
  /-- R404: the host's RESUME after a trip. -/
  | tripResume
  /-- R404: a sensor reads temp degrees. -/
  | thermalTrip (sensor temp : Nat)
  /-- R395. -/
  | detach
  /-- R395 steps 3 to 6. -/
  | commit
  /-- R377, R378. -/
  | linkFailure
  /-- R440 kind 5. -/
  | linkUp
  /-- R378. -/
  | inspectionReset
  /-- R367. -/
  | coreReset (core : Nat)
  /-- R405, R406: signatureOk is the outcome of the HSS check. -/
  | powerOn (signatureOk : Bool)
  /-- R405: the host writes a new image. -/
  | firmwareUpdate (version : Nat)
  /-- R407. -/
  | attestation (nonce : BitVec 256)
  /-- R379, R408. -/
  | inFieldTest (cluster kind : Nat)
  /-- R379: a group has used up its run count. -/
  | testAbort (cluster : Nat)
  /-- R379: bit m of pass says that member m passed. -/
  | testReport (cluster : Nat) (pass : BitVec 8)
  /-- R401: the page frame old moves to new. -/
  | migrate (old new : Nat)
  /-- R401 step 5. -/
  | migrateDone
  /-- R401: the limit of step 4 has passed. -/
  | migrateBusy
  /-- R401, R311. -/
  | hostXlinv (ctx : Nat) (start : Va) (pages : Nat)
  /-- R392. -/
  | hostWake (va : Va) (ctx : Nat)
  /-- R392. -/
  | hostRegistration (va : Va) (ctx line : Nat) (expected : Word)
  /-- R390. -/
  | bindingEnable (index : Nat) (qcb : Va) (ctx : Nat) (en keep : Bool)
  /-- R431. -/
  | inject (value : BitVec 64)
  /-- R394. -/
  | hostRead (window addr size : Nat)
  /-- R394. -/
  | hostWrite (window addr : Nat) (data : List Byte)
  /-- R397. -/
  | geloloPortFailure (port : Nat)
  /-- R397: a peer's read (no data) or write. -/
  | peerRequest (src : Nat) (addr : Nat) (tag : BitVec 4) (data : Option (List Byte)) (size : Nat)
  /-- R147. -/
  | peerAtomic (src : Nat) (rid : Word) (op : BitVec 4) (addr : Nat) (tag : BitVec 4) (size : Nat) (operand expected : Dword)
  /-- R147: the link acknowledges the replies up to rid. -/
  | acknowledgement (slice src : Nat) (rid : Word)
  /-- R400. -/
  | newEpoch (dev : Nat)
  /-- R399: a round of window n closes with this merge of the contributions that the switches hold, in postfix form: a number
    stands for a contribution, none for the operation on the two results before it. The empty merge: the round cannot close. -/
  | reductionResult (n : Nat) (merge : List (Option Nat))
  /-- R387: a register with no behaviour of its own. -/
  | mmioWrite (off size : Nat) (value : Dword)
  /-- R374. -/
  | hostFunctionClear
  /-- R122. -/
  | faultQueueHeadWrite (ctx : Nat) (head : Word)
  /-- R397. -/
  | geloloPortTrain (port : Nat)
  /-- R399: the host writes STATE 0. -/
  | reductionWindowStateWrite (entry : Nat)
  deriving DecidableEq, Repr

end Sys2Proof
end

