-- ==== Sys2Proof/Machine/State.lean ====
section
/-! DEFINITION. The state of the Valheram VH3, as plain data: groups and their registers (02_registers), the memories
(03), the queues (04), the tables (05), the counters (06), the engines, the scheduler and the host's view (13 to 15). -/

namespace Sys2Proof.Machine

/-! ### Names -/

/-- The states of a group (R30, R69). -/
inductive GState where
  | ready | issuing | stopped | preempted | parked | ending
  deriving DecidableEq, Repr

/-- The CAUSE field of the group status (R69). -/
inductive Cause where
  | none | fault | syscall | gstop | freeze
  deriving DecidableEq, Repr

/-- The roles of R38. -/
inductive Role where
  | general | copy | matrix | vector
  deriving DecidableEq, Repr

/-- The precise faults of R70. -/
inductive Code where
  | illegal | priv | regrange | runlen | role | format | span | linebound | lineclosed | align | access | tag
  | protect | gang | estatefull | heirless | leaselost | trap | brk
  deriving DecidableEq, Repr

/-- The status codes of R72. -/
inductive Status where
  | ok | bereaved | abandoned | orphaned | broken | noslot | nospace | claimed | partial_ | gangbroken | leaselost
  | full | undeliverable | mismatch | empty | saturated
  deriving DecidableEq, Repr

/-- The states of a line register (R62, R64). -/
inductive LineState where
  | closed | open_ | pending | error | lost
  deriving DecidableEq, Repr

/-- The states of a frame (R89). -/
inductive FrameState where
  | free | fetching | pinned | cached | spec
  deriving DecidableEq, Repr

/-- A place in memory: the place of execution of a byte (R317) with its address there. A scratchpad address is the
cluster-space address of a physical cluster (R96). -/
inductive Loc where
  | dram (a : Nat)
  | host (a : Nat)
  | peer (dev a : Nat)
  | rwin (a : Nat)
  | spad (cluster a : Nat)
  deriving DecidableEq, Repr

/-! ### Registers of a group (02_registers) -/

/-- A span register (R59); its reserved bits read zero and have no storage. -/
structure Span where
  valid : Bool := false
  limit : Va := 0
  perm : BitVec 7 := 0
  base : Va := 0
  tag : FTag := 0
  ptr : Va := 0
  deriving DecidableEq, Repr

/-- A line register (R62, R63): the group part, and the per-thread parts as a mask and two lists of 32. `frames`
names, for each way bound in global memory, the frame that holds it (R90), and `locs` the place of each way's line as the
open resolved it. -/
structure LineReg where
  tag : FTag := 0
  lines : List Va := []
  locs : List Loc := []
  spad : Bool := false
  w : Bool := false
  state : LineState := .closed
  frames : List (Option Nat) := []
  bound : Mask := 0
  way : List (BitVec 2) := []
  off : List (BitVec 7) := []
  deriving DecidableEq, Repr

/-- What a waiting group waits for (R28), and the translation wait of an access at its instruction (R78), where `implicit` marks the
access as the word of an implicit step (R436). `owed` is a precise fault found while the group was stopped or parked, which it takes as
soon as it is neither (R281, log 109). A CWAIT keeps its length: a poll whose translation faults takes the group back to
it. -/
inductive Wait where
  | cwait (addr : Va) (target : Word) (tag : FTag) (watched : Bool) (len : Nat)
  | waitw (word : Va) (ks : RegField)
  | waitb (n : Nat)
  | mwait (n : Nat)
  | ring (j : Nat)
  | barrier (j : Nat)
  | grow (n : Nat) (kd : RegField) (arrival : Nat)
  | xlat (token : Nat) (va : Va) (failed implicit : Bool)
  | latch
  | owed (code : Code)
  deriving DecidableEq, Repr

/-- How far the end of a group has come (R204, R328, R370): by a kill or not; the window of a duplex group closed for it, the
write-backs of the implicit release sent, the release performed, and the holdings conveyed or settled, apart from settlements that
still wait for their words (R436). -/
structure Ending where
  killed : Bool
  closed : Bool := false
  flushed : Bool := false
  released : Bool
  conveyed : Bool := false
  deriving DecidableEq, Repr

/-- The arbiter state of R348. -/
structure Arbiter where
  lastRun : Word := 0
  mset : Bool := false
  ymark : Bool := false
  deriving DecidableEq, Repr

/-- The batch state of R151, the unfinished copies of each batch, and how many copies the group has issued in all. -/
structure Batches where
  bseq : BitVec 8 := 0
  bdone : BitVec 8 := 0
  openn : Nat := 0
  issued : Nat := 0
  counts : SMap Nat := []
  deriving DecidableEq, Repr

/-- The identity a group has by its launch and its placement (R33, R38, R67, R112). -/
structure Ident where
  ctx : Nat
  sup : Bool := false
  harvest : Bool := false
  viral : Bool := false
  duplex : Bool := false
  copyIndex : Bool := false
  launch : Nat := 0
  block : Nat := 0
  gindex : Nat := 0
  role : Role := .general
  wid : Dword := 0
  widths : List Nat := []
  entry : Va := 0
  cpool : Va := 0
  recov : Va := 0
  kid : Nat := 0
  dsize : Nat := 0
  blev : Nat := 0
  clev : Nat := 0
  logical : Nat := 0
  deriving DecidableEq, Repr

/-- One register or flag write of a result (R26). -/
inductive RegWrite where
  | v (r t : Nat) (x : Word)
  | vtag (r : Nat) (f : FTag)
  | k (r : Nat) (x : Word)
  | pred (p t : Nat) (b : Bool)
  | lsts (s : Status)
  | tokClear (j : Nat)
  deriving DecidableEq, Repr

/-- The kinds of engine operation (R279). -/
inductive OpKind where
  | mma | mmaSc | mhad | mqnt
  deriving DecidableEq, Repr

/-- The states of an accepted engine operation (R285). -/
inductive OpState where
  | queued | running | parked | held
  deriving DecidableEq, Repr

/-- An operation in the engine queue (R279, R284): its own number, its members as slot and identity, the issuer's identity and its
uid, the slot it updates with the slot's generation, and the start addresses and allocation tags of its operands as resolved at
issue. `wild` lists the elements that a member has made undefined (R284), `window` the duplex window of its instruction, as the
number of windows that the issuer had closed before (R269), and `silent` says that this window came to nothing (R330). -/
structure EngineOp where
  id : Nat := 0
  kind : OpKind
  members : List (Nat × Nat)
  ident : Ident
  uid : Nat
  slot : Nat
  gen : BitVec 12
  block : List Word
  ptrs : List Va
  tags : List FTag
  prog : Nat := 0
  state : OpState := .queued
  clamped : Bool := false
  token : Option Nat := none
  wild : List Nat := []
  window : Nat := 0
  silent : Bool := false
  deriving DecidableEq, Repr

/-- The engine side of a group (R288): its outstanding operations, the status and the progress of its most recent one, the
mark of FENCE.OPND (R291), and its operations on slots that no MWAIT has covered yet (R284). `sure` lists the operations that happen
before what the group does next, each with the number of the first message that follows it (R320, R429). -/
structure EngineView where
  out : Nat := 0
  last : Status := .ok
  prog : Nat := 0
  opnd : Option Nat := none
  unsure : List EngineOp := []
  sure : List (Nat × Nat) := []
  deriving DecidableEq, Repr

/-- The duplex state of a group (R160, R376): signature, stores of the window, the number of windows closed, and of a window that
is closed and waits for its partner the signature, the cycle, and the number of the first message after it. `spill` and `spillNst`
are the signature and the stores that the instruction which closed it has made since. -/
structure Duplex where
  sig : Dword := 0
  nst : Nat := 0
  windows : Nat := 0
  closedSig : Option Dword := none
  closedAt : Nat := 0
  closedId : Nat := 0
  spill : Dword := 0
  spillNst : Nat := 0
  deriving DecidableEq, Repr

/-- A resident, pre-empted or parked group (02_registers). `skipImplicit` says that the word of an implicit step of its instruction
can never be translated, so that the step is left out (R436). The scoreboard (R26) has one bit an item: bit r for v and k
register field r (R50), 64 + p for predicate p, 72 + l for line register l, 80 + s for accumulator slot s. `bad` lists the words
of registers in which the check finds two errors (R85, R369): 32 * r + t for thread t of v register r, 32 * r for the k register of
field r and for predicate r - 64. `objects` lists what the copy of a duplex pair with index 1 holds by HOLD, which no estate entry
records (R376, log 18). -/
structure Group where
  uid : Nat
  id : Ident
  valloc : Nat
  v : SMap Word := []
  vtag : SMap FTag := []
  k : SMap Word := []
  preds : SMap Mask := []
  spans : SMap Span := []
  lines : SMap LineReg := []
  gang : BitVec 64 := 0
  amask : Mask := BitVec.allOnes 32
  stack : SMap Mask := []
  depth : Nat := 0
  exited : Mask := 0
  pc : Va
  runCount : Nat := 0
  sb : BitVec 96 := 0
  bad : List Nat := []
  acqHold : BitVec 96 := 0
  relHold : Nat := 0
  lsts : Status := .ok
  fcode : Option Code := none
  crit : Bool := false
  cause : Cause := .none
  state : GState := .ready
  wait : Option Wait := none
  bereave : BitVec 32 := 0
  callow : BitVec 16 := 0
  batch : Batches := {}
  tokens : BitVec 32 := 0
  eseq : Word := 0
  objects : List Dword := []
  dspec : Nat := 0
  didx : Nat := 0
  arb : Arbiter := {}
  dup : Duplex := {}
  eng : EngineView := {}
  stopMark : Bool := false
  freeze : Option Code := none
  freezeBits : BitVec 96 := 0
  preempt : Option Nat := none
  revoked : Bool := false
  skipImplicit : Bool := false
  parking : Bool := false
  unparking : Bool := false
  inReserve : Bool := false
  live : BitVec 16 := 0
  atSafe : Bool := false
  testRuns : Nat := 0
  home : Nat := 0
  ending : Option Ending := none
  deriving DecidableEq, Repr

/-! ### A core (03, 04, 05, 06, 11, 13) -/

/-- A frame of the line store (R89): its metadata, the place of its line with the address and the context that bound it
last, and its 128 bytes. -/
structure Frame where
  va : Va := 0
  ctx : Nat := 0
  tag : FTag := 0
  dirty : BitVec 128 := 0
  poison : BitVec 4 := 0
  pins : Nat := 0
  line : Loc := .dram 0
  state : FrameState := .free
  stale : Bool := false
  data : SMap Byte := []
  deriving DecidableEq, Repr

/-- An entry of the claim table (R94). `uid` is the identity of the group in HOLDER (log 10). -/
structure Claim where
  spad : Bool
  line : Loc
  holder : Nat
  uid : Nat
  deriving DecidableEq, Repr

/-- An entry of the estate table (R126). `uid` is the identity of the group in HMEM and HSLOT (log 10), and `aux` names the
ticket of a wharf share (log 39). -/
structure Estate where
  kind : Nat
  hmem : Nat
  hslot : Nat
  uid : Nat
  heir : Nat
  hidx : Nat
  brv : Bool
  order : Word
  key : Dword
  aux : Nat := 0
  deriving DecidableEq, Repr

/-- An accumulator slot (R102): metadata, elements by row * 128 + column, and the elements with an uncorrectable check
code (R271). `twin` names the duplex group with copy index 1 that holds the slot: no estate entry records it (R376, log 18). -/
structure AccSlot where
  twin : Option Nat := none
  gen : BitVec 12 := 0
  ftag : FTag := 0
  sat : Bool := false
  live : Bool := false
  elems : SMap Word := []
  bad : List Nat := []
  deriving DecidableEq, Repr

/-- A group held in a latch: its registers for the handle and the status, the length of its instruction, and its mark of
FENCE.OPND. -/
structure LatchHold where
  slot : Nat
  uid : Nat
  d : RegField
  b : RegField
  len : Nat
  opnd : Option Nat
  deriving DecidableEq, Repr

/-- A rendezvous latch (R281): the values compared, the operands of the first member, and the groups held in it. -/
structure Latch where
  kind : OpKind
  single : Bool
  blockId : Nat
  gang : BitVec 64
  block : List Word
  handle : Word
  ptrs : List Va
  tags : List FTag
  held : List LatchHold
  deriving DecidableEq, Repr

/-- A dictionary slot (R104): the launches whose groups use it, its words, and the numbers of those in which the check finds two
errors (R85, R369). -/
structure Dict where
  kid : Nat
  ctx : Nat
  launches : List Nat
  words : List Word
  bad : List Nat := []
  deriving DecidableEq, Repr

/-- A mailbox record (R120). -/
structure MboxRec where
  kw : List Word
  pc : Va
  addr : Va
  amask : Mask
  code : Nat
  seq : Word
  slot : Nat
  ctx : Nat
  vfirst : Nat
  vcount : Nat
  kind : Nat
  taken : Bool
  deriving DecidableEq, Repr

/-- A group on the stop list that has no record yet (R121): the cycle of its stop, and what its record will say. -/
structure StopWait where
  slot : Nat
  cycle : Nat
  record : MboxRec
  deriving DecidableEq, Repr

/-- The states of a copy entry (R124); a FREE entry is not in the queue, and a DONE one leaves it. -/
inductive CopyState where
  | queued | active | held
  deriving DecidableEq, Repr

/-- The kinds of copy entry (R124). -/
inductive CopyKind where
  | copy | tr8 | tr16 | mc | copyl | drain
  deriving DecidableEq, Repr

/-- A layout record (R139). -/
structure Layout where
  base : Va
  pad : Word
  stride : List Int
  ext : List Nat
  box : List Nat
  esize : Nat
  ndim : Nat
  tag : FTag
  deriving DecidableEq, Repr

/-- A copy channel entry (R124). `num` is the number of the COPY.MC that reserved its ticket, `span` is the span side's first byte, `other` the second address of COPYL, and `seq` the number of
the copy among its group's, by which the entries of a duplex pair are known to be one copy (R330). -/
structure CopyEntry where
  kind : CopyKind
  slot : Nat
  uid : Nat
  ctx : Nat
  sup : Bool
  block : Nat
  batch : BitVec 8
  bar : Option Nat
  layout : Layout
  origin : List Int
  dir : Bool
  span : Va
  spanTag : FTag
  other : Va
  otherTag : FTag
  len : Nat
  done : Nat
  state : CopyState
  ticket : Nat
  num : Nat := 0
  receiver : Nat
  wslot : Option Nat
  token : Option Nat
  stopping : Bool
  gated : Bool
  silent : Bool
  started : Bool
  seq : Nat := 0
  deriving DecidableEq, Repr

/-- A copy channel (R124, R156). -/
structure Channel where
  eseq : BitVec 8 := 0
  waddr : Va := 0
  entries : List CopyEntry := []
  deriving DecidableEq, Repr

/-- A lane (R15, R25): the group that issues on it, what its previous instruction wrote and the identity of the group whose it
was (log 10), the cycle from which it is free, whether an owner group was eligible on it in this interval (R360), whether its
instruction is held until something else has happened (log 1), and whether a run stall holds it (R29). -/
structure Lane where
  issuing : Option Nat := none
  prevWrites : BitVec 96 := 0
  prevUid : Option Nat := none
  busyUntil : Nat := 0
  ownerEligible : Bool := false
  held : Bool := false
  stalled : Bool := false
  deriving DecidableEq, Repr

/-- A CTXSW, HARVEST or RECLAIM under way, and where its status goes when it completes (R250, R314, R315). -/
structure CoreOp where
  op : Nat
  ctx : Nat
  slot : Nat
  uid : Nat
  kd : RegField
  pages : List Nat
  due : Nat
  deriving DecidableEq, Repr

/-- A core. `interval` counts the 64-cycle intervals it has begun (R351), `congestion` holds the congestion count of its router for
each plane, and `meshSum` each count's sum over the cycles of the interval so far (R158). `lastOpen` is the cycle in which an open was
last settled, with its group's slot (R427). -/
structure Core where
  cycle : Nat := 0
  groups : SMap Group
  lanes : SMap Lane
  frames : SMap Frame := []
  claims : SMap Claim := []
  estate : SMap Estate := []
  acc : SMap AccSlot := []
  engine : List EngineOp := []
  latches : List Latch := []
  dicts : SMap Dict := []
  mbox : SMap MboxRec := []
  stopList : List StopWait := []
  mseq : Word := 0
  chans : SMap Channel := []
  perf : SMap (BitVec 48) := []
  select : SMap (BitVec 16) := []
  sched : BitVec 32 := 0x00FF0000
  interval : Nat := 0
  meshp : BitVec 8 := 0
  congestion : SMap (BitVec 8) := []
  meshSum : SMap Nat := []
  lastOpen : Option (Nat × Nat) := none
  capped : Bool := false
  capOwner : Nat := 2040
  capHarvest : Nat := 0
  harvestCtx : Option Nat := none
  ops : List CoreOp := []
  reserved : Nat := 0
  saved : SMap Group := []
  savedAcc : SMap AccSlot := []
  outOfService : Bool := false
  tableError : Bool := false
  estateBad : List Nat := []
  testing : Bool := false
  ownerRan : Bool := false
  deriving DecidableEq, Repr

/-! ### A cluster (03, 04, 05, 06) -/

/-- The states of a scratchpad page (R97). -/
inductive PageState where
  | free | alloc | lent | saved
  deriving DecidableEq, Repr

/-- An entry of the page list (R97). `lentTo` is the harvest block that uses a lent page (R345). -/
structure Page where
  state : PageState := .free
  ctx : Nat := 0
  block : Nat := 0
  epoch : Nat := 0
  lentTo : Option Nat := none
  deriving DecidableEq, Repr

/-- An operation that waits at a ring (R115). `known` lists the engine operations that happen before it (R429). -/
structure RingWait where
  push : Bool
  core : Nat
  slot : Nat
  uid : Nat
  value : Word
  dfield : RegField
  ks : RegField
  parts : Mask
  known : List Nat := []
  deriving DecidableEq, Repr

/-- A stage ring, with the full numbers of pushes and pops (PUSHES and POPS are these modulo 128): its descriptor (R113), its state
(R114), its send allowance (R155) and the operations waiting at it. `known` lists, for each entry stored, the engine operations that
happen before its push (R429). -/
structure Ring where
  offset : Nat
  depth : Nat
  abandon : Bool := false
  pushes : Nat := 0
  pops : Nat := 0
  count : Nat := 0
  allow : Nat
  waits : List RingWait := []
  known : List (List Nat) := []
  deriving DecidableEq, Repr

/-- A group that waits at a barrier, or whose arrival is held there (R276); `known` lists the engine operations that happen before its
arrival (R429). -/
structure BarWait where
  core : Nat
  slot : Nat
  uid : Nat
  gindex : Nat
  ks : RegField
  phase : Bool
  heldArrival : Bool
  arriveOnly : Bool
  known : List Nat := []
  deriving DecidableEq, Repr

/-- A barrier of a block (R113, R153, R275). `known` lists the engine operations that happen before the arrivals of its phase, and `past`
those of the phase before (R429). -/
structure Barrier where
  expect : Nat
  pend : BitVec 40 := 0
  abn : Bool := false
  phase : Bool := false
  curexp : Nat
  arrived : Nat := 0
  members : BitVec 256 := 0
  arrivals : BitVec 256 := 0
  waits : List BarWait := []
  known : List Nat := []
  past : List Nat := []
  deriving DecidableEq, Repr

/-- A group of a resident block: where it is, and whether it has ended. -/
structure Member where
  core : Nat
  slot : Nat
  uid : Nat
  role : Role
  gone : Bool := false
  killed : Bool := false
  ended : Bool := false
  barEnded : Bool := false
  deriving DecidableEq, Repr

/-- A result that the hub holds until a kill has conveyed (R432). -/
structure HeldRelease where
  core : Nat
  slot : Nat
  uid : Nat
  writes : List RegWrite
  clears : BitVec 96
  deriving DecidableEq, Repr

/-- A group of a block that has entered ENDING, with its core and the cycle there (R131). -/
structure EndOrder where
  gindex : Nat
  uid : Nat
  core : Nat
  cycle : Nat
  deriving DecidableEq, Repr

/-- A resident block. -/
structure Block where
  ctx : Nat
  launch : Nat
  ordinal : Nat
  unit : Nat
  inUnit : Nat
  pages : List Nat
  spadBytes : Nat
  rings : SMap Ring
  bars : SMap Barrier
  members : SMap Member
  ending : List EndOrder := []
  heldReleases : List HeldRelease := []
  partner : Option Nat := none
  copyIndex : Bool := false
  harvest : Bool := false
  defaultHeirs : SMap (Nat × Nat) := []
  deriving DecidableEq, Repr

/-- The states of a wharf slot (R103). -/
inductive WharfState where
  | free | filling | full
  deriving DecidableEq, Repr

/-- A wharf slot (R103); its SHARES are kept with its ticket. -/
structure Wharf where
  state : WharfState := .free
  ctx : Nat := 0
  bytes : Nat := 0
  ticket : Nat := 0
  data : SMap Byte := []
  bad : List Nat := []
  deriving DecidableEq, Repr

/-- A reserved wharf ticket (R259, R262): its unit and number as one identity, the number of the COPY.MC that reserved it, the bytes of its box, the slot once the
entry has one, SHARES (R103), and the group that holds each receiver's share. -/
structure Ticket where
  id : Nat
  num : Nat := 0
  ctx : Nat
  len : Nat
  slot : Option Nat
  shares : BitVec 16
  owners : SMap Nat
  deriving DecidableEq, Repr

/-- The states of a task slot (R117). -/
inductive TaskState where
  | free | waiting | runnable | taken
  deriving DecidableEq, Repr

/-- A task slot (R117); gen is the generation of R118. -/
structure Task where
  payload : List Byte := []
  succ : Word := 0
  dep : Word := 0
  gen : BitVec 16 := 0
  handle : Word := 0
  ctx : Nat := 0
  bereaved : Bool := false
  stolen : Bool := false
  state : TaskState := .free
  age : Word := 0
  deriving DecidableEq, Repr

/-- A CWAIT watch of a hub (R256). -/
structure Watch where
  core : Nat
  slot : Nat
  uid : Nat
  addr : Nat
  deriving DecidableEq, Repr

/-- An entry of a layout cache (R140), most recently used first. -/
structure LayoutEntry where
  ctx : Nat
  index : Nat
  record : Layout
  deriving DecidableEq, Repr

/-- A cluster: its scratchpad (R96, R97), its hub's blocks, its wharf, its task queue and its layout cache. -/
structure Cluster where
  spad : SMap Byte := []
  spadBad : List Nat := []
  pages : SMap Page := []
  blocks : SMap Block := []
  wharf : SMap Wharf := []
  tickets : List Ticket := []
  layouts : List LayoutEntry := []
  tasks : SMap Task := []
  enqCount : Word := 0
  watches : List Watch := []
  deriving DecidableEq, Repr

/-! ### Messages in flight -/

/-- The operations an atomic performs (R251, R399). -/
inductive AtomOp where
  | add | fadd | minS | maxS | minN | maxN | and_ | or_ | xor_ | xchg | cas
  deriving DecidableEq, Repr

/-- The object steps of R270, and the releases, fences and bindings that reach a home (R294 to R297): a release writes back
first and takes its step second. -/
inductive ObjStep where
  | acq (mode scope : Nat) (kd : RegField)
  | rel (scope : Nat) (kd : RegField) (second : Bool)
  | promise (kd : RegField)
  | relinq (value : Word) (kd : RegField)
  | implicitRel (second : Bool)
  | fence (scope : Nat) (kd : RegField)
  | bind (base limit : Va) (add : Bool) (kd : RegField)
  deriving DecidableEq, Repr

/-- The ring operations of R272. -/
inductive RingOp where
  | push | pop | try_ | allow
  deriving DecidableEq, Repr

/-- The task operations of R304 to R306. -/
inductive TaskOp where
  | enq (dep succ : Word) (payload : List Byte) (cluster : Nat) (kd : RegField)
  | deq (l way e : Nat) (kd : RegField)
  | tdone (handle : Word)
  | depadd (handle delta : Word)
  deriving DecidableEq, Repr

/-- An open that waits: at a claim (R95), or for the replay of a translation (R64), with the estate entries kept for the claims it
has still to take (R128, log 43). -/
structure OpenWait where
  l : Nat
  p : Nat
  write : Bool
  tag : FTag
  parts : Mask
  addrs : List Va
  kept : List Va
  taken : List Loc
  atClaim : Bool
  token : Option Nat
  reserved : Nat := 0
  deriving DecidableEq, Repr

/-- What the acknowledgement of a write-back completes: nothing, a write of the matrix engine that its store gate has held (R269), a
line register (closed by it or not, R235, R236), a release in its first phase (R295), or the implicit release of an exit (R328). -/
inductive WbReply where
  | none
  | engine
  | line (l : Nat) (close : Bool)
  | release
  | exit
  deriving DecidableEq, Repr

/-- What a message carries. The end of a group takes with it what its freed copies still owed the barriers they credit (R154);
`poison` tells a group that an operation of its own has met an uncorrectable datum (R369). -/
inductive MsgBody where
  | result (writes : List RegWrite) (clears : BitVec 96) (wake : Bool)
  | fetch (l way frame : Nat) (line : Loc) (tag : FTag)
  | openWait (o : OpenWait)
  | stale (line : Loc)
  | writeBack (line : Loc) (va : Va) (mask : BitVec 128) (poison : BitVec 4) (data : SMap Byte) (tag : FTag) (reply : WbReply)
  | wbAck (l : Nat) (close : Bool)
  | groupEnd (gindex : Nat) (killed : Bool) (credits : List (Nat × Nat))
  | atomic (op : AtomOp) (loc : Loc) (va : Va) (n : Nat) (operand expected : Dword) (tag : FTag) (d : RegField)
      (thread : Nat)
  | fabric (dev : Nat) (rid : Word) (reply : Bool)
  | put (loc : Loc) (va : Va) (mask : BitVec 128) (data : SMap Byte) (tag : FTag) (ctr : Option (Loc × Va × FTag)) (delta : BitVec 16)
  | counter (loc : Loc) (va : Va) (tag : FTag) (delta : BitVec 16)
  | tagset (loc : Loc) (tag : FTag)
  | tagget (loc : Loc) (d : RegField) (thread : Nat)
  | object (step : ObjStep) (loc : Loc) (va : Va) (tag : FTag) (waiting : Bool)
  | ring (op : RingOp) (j : Nat) (value : Word) (d ks : RegField) (parts : Mask)
  | barrier (arrive : Bool) (wait : Bool) (j : Nat) (n : Word) (ks : RegField)
  | task (op : TaskOp) (ks : RegField) (parts : Mask)
  | waiter (va : Va) (loc : Loc) (tag : FTag) (expected : Word) (ks : RegField) (cwait : Bool)
  | wake (va : Va) (ks : RegField)
  | poison (va : Va)
  deriving DecidableEq, Repr

/-- A message in flight: its number, the source group (its core, HOLDER slot and identity), its destination's place for
the order of R384, the cycle from which it may arrive, whether a store gate holds it, and the twin group of a duplex
launch that takes the same answer once the gate has released it, with the number of the twin's own message (R231, log 18). `src` is the place it travels from where that is not
its group's own core: the home, the hub or the accumulator memory that answers (R381). -/
structure Msg where
  id : Nat
  core : Nat
  slot : Nat
  uid : Nat
  place : Nat
  due : Nat
  held : Bool
  body : MsgBody
  twin : Option (Nat × Nat × Nat) := none
  twinId : Nat := 0
  src : Option Nat := none
  deriving DecidableEq, Repr

/-! ### Tables and queues of the device -/

/-- A waiter record of the wait-and-wake table (R133). -/
structure Waiter where
  host : Option Nat
  core : Nat
  slot : Nat
  uid : Nat
  deriving DecidableEq, Repr

/-- An entry of the wait-and-wake table (R133). -/
structure WaitEntry where
  ctx : Nat
  va : Va
  loc : Loc
  armv : Word
  waiters : List Waiter
  deriving DecidableEq, Repr

/-- An entry of a reply cache (R146). -/
structure Reply where
  src : Nat
  sts : Status
  rid : Word
  reply : Dword
  acked : Bool
  deriving DecidableEq, Repr

/-- A leaf as a walk found it (R77). -/
structure Leaf where
  frame : Nat
  big : Bool
  mig : Bool
  aplace : Nat
  x : Bool
  a : Bool
  w : Bool
  rd : Bool
  target : Nat
  peer : Nat
  deriving DecidableEq, Repr

/-- A cached translation (R77). -/
structure Walked where
  ctx : Nat
  page : Nat
  leaf : Leaf
  deriving DecidableEq, Repr

/-- A fault-queue entry (R122); tokens name the accesses that wait on it (R123). -/
structure FqEntry where
  vaddr : Nat
  aux : Nat
  count : Word
  slot : Option Nat
  pcore : Nat
  kind : Nat
  acc : Nat
  seq : Word
  tokens : List Nat
  deriving DecidableEq, Repr

/-- An entry of a binding table (R136). -/
structure Binding where
  valid : Bool := true
  obj : Va
  limit : Va
  base : Va
  deriving DecidableEq, Repr

/-- A record of a host-write reserve (R106). -/
structure Reserve where
  line : Nat
  mask : BitVec 128
  data : SMap Byte
  seq : Dword
  deriving DecidableEq, Repr

/-- The states of a context (R388). -/
inductive CtxState where
  | free | live | suspended | tearing
  deriving DecidableEq, Repr

/-- A context table entry (R388) with the queues and tables of its save area (R389); `remap` names a logical cluster and its
new physical cluster while a remap waits for safe points (R339). -/
structure Ctx where
  state : CtxState := .free
  cmd : Nat := 0
  refused : Bool := false
  harvest : Bool := false
  viral : Bool := false
  cmap : SMap (BitVec 8) := []
  wlbase : Nat := 0
  wlcount : Nat := 0
  fqhead : Word := 0
  fqtail : Word := 0
  fqlost : Word := 0
  fqseq : Word := 0
  laybase : Va := 0
  laycount : Nat := 0
  samin : Nat := 68
  sabase : Nat := 0
  sasize : Nat := 0
  ptroot : Nat := 0
  callow : BitVec 16 := 0
  fqsize : Nat := 0
  fqcons : Bool := false
  sealDraw : Nat := 0
  remap : Option (Nat × Nat) := none
  fq : List FqEntry := []
  popped : List FqEntry := []
  unposted : List FqEntry := []
  bindings : SMap Binding := []
  reserve : List Reserve := []
  reserveSeq : Dword := 0
  reserveStalled : Bool := false
  deriving DecidableEq, Repr

/-- The launch record of R112. -/
structure Record where
  spans : List (BitVec 192)
  kargs : List Word
  depmap : List Byte
  rings : List Word
  bars : List (BitVec 16)
  ext : List Nat
  widths : List Nat
  clev : Nat
  blev : Nat
  kid : Nat
  entry : Nat
  dict : Nat
  cpool : Nat
  recov : Nat
  spad : Nat
  dsize : Nat
  valloc : Nat
  nvec : Nat
  nmat : Nat
  ncopy : Nat
  flags : Nat
  words : List Word
  reservedSet : Bool
  deriving DecidableEq, Repr

/-- A launch the scheduler has accepted (R110): its units that are placed, its blocks that are complete (R144), and how often each unit
was skipped (R340). `producer` is the launch that DEPSEQ names, as validation found it (R111, R145). `done` says that the launch is
complete and its stores are under way, `stored` that its entry reads DONE or DRAINED. `tracked` says that it is its queue's tracked
launch (R145). -/
structure Launch where
  queue : Nat
  entryVa : Va
  ctx : Nat
  record : Record
  compaddr : Va
  compseq : Dword
  depseq : Dword
  track : Bool
  cscope : Nat
  producer : Option Nat := none
  placed : List Nat := []
  ended : List Nat := []
  skipped : SMap Nat := []
  done : Bool := false
  stored : Bool := false
  abandoned : Bool := false
  tracked : Bool := false
  deriving DecidableEq, Repr

/-- A launch queue binding (R390) with the device's queue generation and the control block's as it last read it (R108, R109).
`token` names the translation fault that a read of the queue waits for, `taking` the entry that is TAKEN and not validated yet
(R110, R123), and `enabling` says that the control block lies in a page that migrates, so that the enable still waits for it
(R79). -/
structure Queue where
  qcb : Va := 0
  ctx : Nat := 0
  en : Bool := false
  keep : Bool := false
  gen : Word := 0
  blockGen : Word := 0
  enabling : Bool := false
  token : Option Nat := none
  taking : Option (Va × List Byte) := none
  deriving DecidableEq, Repr

/-- A record of the device event log (R440). -/
structure Event where
  kind : Nat
  source : Nat
  seq : Word
  cycle : Nat
  data : Nat
  deriving DecidableEq, Repr

/-- The device event log (R440). -/
structure EventLog where
  head : Dword := 0
  tail : Dword := 0
  lost : Dword := 0
  records : List Event := []
  signals : Nat := 0
  deriving DecidableEq, Repr

/-- A fabric atomic that has no answer yet (R399, R400): its target device (1024 and more for the switches of a reduction
window, by its home), its identifier, the request with the number of its message, and the reply once it is performed. -/
structure FabricAtomic where
  dev : Nat
  rid : Word
  target : Loc
  va : Va
  n : Nat
  op : AtomOp
  operand : Dword
  expected : Dword
  tag : FTag
  core : Nat
  slot : Nat
  uid : Nat
  twin : Option (Nat × Nat × Nat)
  d : RegField
  thread : Nat
  performed : Option Dword
  id : Nat := 0
  deriving DecidableEq, Repr

/-- A contribution held in the switches (R399). -/
structure Contribution where
  src : Nat
  loc : Nat
  op : AtomOp
  n : Nat
  operand : Dword
  fabric : Option (Nat × Word)
  deriving DecidableEq, Repr

/-- An entry of the reduction window table (R398). -/
structure RedWindow where
  base : Nat := 0
  size : Nat := 0
  home : Nat := 0
  parts : BitVec 1024 := 0
  opportunistic : Bool := false
  state : Nat := 0
  held : List Contribution := []
  deriving DecidableEq, Repr

/-- One thing that the device does on its own in a context's memory, through the context's page table (R436): a store of bytes, the
settlement of a dead group's heirless lock or promise (R127), the implicit acquire of a DEQ with the answer that follows it (R305), the
wake of a word's waiters, the count of a wake line, the end of a launch whose entry reads DONE or DRAINED, or another look at a launch
queue (R110). -/
inductive OwnStep where
  | store (va : Va) (bs : List Byte)
  | orphan (core uid : Nat) (va : Va)
  | broken (core uid : Nat) (va : Va)
  | finish (launch : Nat)
  | acquire (core slot uid : Nat) (va : Va) (writes : List RegWrite) (clears : BitVec 96)
  | wake (va : Va)
  | line (a : Nat)
  | look (q : Nat)
  deriving DecidableEq, Repr

/-- Steps that the device has still to take, in order (R78, R79, R106, R436): the first waits for the replay of its translation, or,
with no token, for a page that migrates or for room in the host-write reserve. `queue` names the launch queue whose HEAD they
move. -/
structure OwnJob where
  ctx : Nat
  queue : Option Nat
  token : Option Nat
  steps : List OwnStep
  deriving DecidableEq, Repr

/-- A line that a home slice caches, with the tag under which it last decoded clean or was last written (R86), and the context whose
access that was. -/
structure CacheLine where
  line : Nat
  tag : FTag
  ctx : Nat := 0xFFFF
  deriving DecidableEq, Repr

/-- What the device has to send to a peer in answer to a fabric atomic (R147): the reply, or a refusal, which asks for a retry. -/
structure PeerAnswer where
  src : Nat
  rid : Word
  reply : Option (Status × Dword)
  deriving DecidableEq, Repr

/-- A migration under way (R401). -/
structure Migration where
  old : Nat
  new : Nat
  deriving DecidableEq, Repr

/-- An in-field test under way (R379). -/
structure FieldTest where
  cluster : Nat
  kind : Nat
  aborted : Option Nat := none
  deriving DecidableEq, Repr

/-- The engine operations that happen before the releases (R319) or the puts (R320) of one group that have been performed at a word:
the group with its core, its context and its block, and the scope of the releases. -/
structure Mark where
  word : Loc
  core : Nat
  uid : Nat
  ctx : Nat
  block : Nat
  scope : Nat
  ids : List Nat
  deriving DecidableEq, Repr

/-! ### The whole device -/

/-- The answer to a read of a peer (R397): the bytes, or none where the device's home refuses them, its status, and where they were
read. -/
structure PeerRead where
  src : Nat
  addr : Nat
  sts : Status
  data : List Byte
  deriving DecidableEq, Repr

/-- What instruction words, engines and hubs act on. `peerTags` and `peerEcc` are the line tags and the errors in the code words of the
peers' memories (R83, R397). `halves` holds the congestion counts of the home slices' routers, by slice and
plane (R158), `chance` says that a placement opportunity has come and has not come to nothing yet (R340), and `marks` lists, for words
that are objects or put counters, what happens before the releases and the puts performed there (R320, R429). -/
structure Mach where
  cores : SMap Core := []
  clusters : SMap Cluster := []
  dram : Memory := []
  hostMem : Memory := []
  peers : SMap Memory := []
  fabric : Memory := []
  tags : SMap FTag := []
  ecc : SMap (List (Nat × Byte)) := []
  waitTab : SMap WaitEntry := []
  replies : SMap (List Reply) := []
  slices : SMap (List CacheLine) := []
  walker : List Walked := []
  jobs : List OwnJob := []
  outbox : List PeerAnswer := []
  ctxs : SMap Ctx := []
  queues : SMap Queue := []
  launches : SMap Launch := []
  rotation : Nat := 0
  msgs : List Msg := []
  fabricAtomics : List FabricAtomic := []
  fabricRid : SMap Word := []
  windows : SMap RedWindow := []
  log : EventLog := {}
  migration : Option Migration := none
  viral : Bool := false
  linkDown : Bool := false
  nextUid : Nat := 1
  draws : Nat := 0
  creates : Nat := 0
  hostFrozen : Bool := false
  mmio : SMap Byte := []
  hostReply : Option (List Byte) := none
  halves : SMap (BitVec 8) := []
  chance : Bool := false
  peerTags : SMap (SMap FTag) := []
  peerEcc : SMap (SMap (List (Nat × Byte))) := []
  peerReads : List PeerRead := []
  marks : List Mark := []
  deriving DecidableEq, Repr

/-- The states of a mesh plane (R385). -/
inductive Plane where
  | dark | lit | darkening | relight
  deriving DecidableEq, Repr

/-- The power commands of R402. -/
inductive PowerCmd where
  | setp (die level : Nat)
  | gate (cluster : Nat) (off : Bool)
  | light (plane : Nat)
  | dark (plane : Nat)
  | refresh (stack mode : Nat)
  | tripset (temp : Nat)
  deriving DecidableEq, Repr

/-- What only the host, the factors and the sensors change: power states, the attach state and the device's identity
(15_fabric_host). No instruction word and no event inside the device changes any of it (R5). -/
structure Device where
  levels : List Nat := [2, 2, 2, 2]
  gated : List Nat := []
  planes : List Plane := [.lit, .dark, .dark, .dark]
  refresh : List Nat := [0, 0, 0, 0, 0, 0, 0, 0]
  trip : Nat := Config.tripReset
  tripped : Bool := false
  queued : List PowerCmd := []
  cmdRefused : Bool := false
  dieTemp : List Nat := [0, 0, 0, 0]
  diePower : List Nat := [0, 0, 0, 0]
  stackTemp : List Nat := [0, 0, 0, 0, 0, 0, 0, 0]
  thresholds : List (BitVec 8) := [0, 0, 0, 0]
  number : Nat := 0
  ports : List Bool := List.replicate 18 false
  numbered : Bool := false
  attach : Nat := 1
  linkUp : Bool := true
  inject : Dword := 0
  exposure : SMap (Nat × Nat × Nat × Bool) := []
  wakeVa : Va := 0
  regStatus : SMap Nat := []
  fwVersion : Nat := 0
  fuseVersion : Nat := 0
  newImage : Option Nat := none
  leaf : Nat := 0
  reports : Nat := 0
  nonce : BitVec 256 := 0
  exhausted : Bool := false
  test : Option FieldTest := none
  testReport : List (Nat × Nat) := []
  migrateStatus : Nat := 0
  running : Bool := true
  deriving DecidableEq, Repr

/-- The stores of a core whose words a bit error can reach (R85), each with the words in error. -/
inductive UpsetAt where
  | sector (a : Nat) (symbols : List (Nat × Byte))
  | slice (a : Nat)
  | scratch (cluster word : Nat)
  | wharf (cluster slot word : Nat)
  | frame (core frame sector : Nat)
  | register (core uid item thread : Nat)
  | element (core slot elem : Nat)
  | dict (core slot word : Nat)
  | table (core code : Nat) (entries : List Nat)
  deriving DecidableEq, Repr

/-- A bit error (R83, R85, R366): where it strikes, and whether it is more than the check corrects. -/
structure Upset where
  site : UpsetAt
  double : Bool
  deriving DecidableEq, Repr

/-- A turn: one instruction of the group that issues on a lane, one event row of the opcode table, a bit error in one of the device's
stores (log 79), or a change in the number of flits that the router of a site holds on a plane (log 27). -/
inductive Turn where
  | issue (core lane : Nat)
  | event (i : Instr)
  | upset (u : Upset)
  | traffic (x y plane flits : Nat)
  deriving DecidableEq, Repr

/-- The machine's state: the turns that remain to be taken, the lane whose turn it is when none remains (log 1), the
device's own state, and the state that the host controls. -/
structure State where
  turns : List Turn
  curCore : Nat
  curLane : Nat
  mach : Mach
  dev : Device
  deriving DecidableEq, Repr

/-! ### Reset -/

/-- The supervisor group after core reset (R41, R434). It issues on lane 0. -/
def Group.supervisor : Group :=
  { uid := 0, id := { ctx := 0xFFFF, sup := true, entry := Config.supEntry }, valloc := 47, pc := Config.supEntry,
    state := .issuing }

/-- A core after device reset: its supervisor group is resident and holds lane 0, and every table is empty. -/
def Core.reset : Core :=
  { groups := [(Config.supSlot, Group.supervisor)], lanes := [(0, { issuing := some Config.supSlot })] }

/-- The device right after reset (R406): every core's supervisor group is at its image's first instruction, memory and
every queue are empty, plane 0 is lit and every die is at level 2. -/
def State.reset : State :=
  { turns := [], curCore := 0, curLane := 0, mach := {}, dev := {} }

/-! ### How a step can end -/

/-- The reasons a step could stop the machine. -/
inductive Fault where
  /-- Raised by nothing: the spec describes the outcome of every word and event. Safe. -/
  | stuck
  deriving DecidableEq, Repr

/-- The reasons a step could have no meaning. -/
inductive Refusal where
  /-- An instruction that has no meaning yet, by its mnemonic. Safe. -/
  | notModelled (mnemonic : String)
  deriving DecidableEq, Repr

end Sys2Proof.Machine
end

