-- ==== Sys2Proof/Machine/Flags.lean ====
section
/-! DEFINITION. Condition codes (R187), status codes and fault codes as numbers (R70, R72), and the integer results that
the compares, the saturating forms and the minimum and maximum forms share. The VH3 keeps no carry, overflow or floating
exception flags (07_numbers); LSTS of the group status is the one place an instruction leaves a code (R69, R73). -/

namespace Sys2Proof.Machine

/-- The code of a status (R72). -/
def Status.code : Status → Nat
  | .ok => 0 | .bereaved => 1 | .abandoned => 2 | .orphaned => 3 | .broken => 4 | .noslot => 5 | .nospace => 6
  | .claimed => 7 | .partial_ => 8 | .gangbroken => 9 | .leaselost => 10 | .full => 11 | .undeliverable => 12
  | .mismatch => 13 | .empty => 14 | .saturated => 15

/-- A status as a register value: zero-extended to 32 bits (R73). -/
def Status.word (s : Status) : Word := BitVec.ofNat 32 s.code

/-- The number of a fault (R70). -/
def Code.num : Code → Nat
  | .illegal => 1 | .priv => 2 | .regrange => 3 | .runlen => 4 | .role => 5 | .format => 6 | .span => 7
  | .linebound => 8 | .lineclosed => 9 | .align => 10 | .access => 11 | .tag => 12 | .protect => 13 | .gang => 14
  | .estatefull => 15 | .heirless => 16 | .leaselost => 17 | .trap => 18 | .brk => 19

/-- FCODE of the group status: 0 when there was no stop (R69). -/
def fcodeNum (c : Option Code) : Nat := match c with | none => 0 | some c => c.num

def Cause.num : Cause → Nat
  | .none => 0 | .fault => 1 | .syscall => 2 | .gstop => 3 | .freeze => 4

def GState.num : GState → Nat
  | .ready => 0 | .issuing => 1 | .stopped => 2 | .preempted => 3 | .parked => 4 | .ending => 5

def Role.num : Role → Nat
  | .general => 0 | .copy => 1 | .matrix => 2 | .vector => 3

def LineState.num : LineState → Nat
  | .closed => 0 | .open_ => 1 | .pending => 2 | .error => 3 | .lost => 4

/-! ### Condition codes (R187) -/

/-- EQ, NE, LT, LE, GT, GE on an ordering given by equality and less-than. -/
def ccHolds (cc : Nat) (eq lt : Bool) : Bool :=
  match cc with
  | 0 => eq
  | 1 => !eq
  | 2 => lt
  | 3 => lt || eq
  | 4 => !(lt || eq)
  | _ => !lt

/-- a cc b, signed (R214). -/
def ccSigned (cc : Nat) (a b : Word) : Bool := ccHolds cc (a == b) (a.slt b)

/-- a cc b, unsigned (R214). -/
def ccUnsigned (cc : Nat) (a b : Word) : Bool := ccHolds cc (a == b) (a.ult b)

/-! ### Saturation, minimum and maximum -/

/-- Clamp to the range of a signed 32-bit word (R194's sat_s). -/
def satS (x : Int) : Word := BitVec.ofInt 32 (max (-2147483648) (min 2147483647 x))

/-- The sum lies outside the signed 32-bit range. -/
def clampsS (x : Int) : Bool := x < -2147483648 || 2147483647 < x

def minS (a b : Word) : Word := if b.slt a then b else a
def maxS (a b : Word) : Word := if a.slt b then b else a
def minN (a b : Word) : Word := if b.ult a then b else a
def maxN (a b : Word) : Word := if a.ult b then b else a

end Sys2Proof.Machine
end

