-- ==== Sys2Proof/Machine/Forms.lean ====
section
/-! DEFINITION. The operand forms: what each opcode does with each field of its word (the entry tables of 09, 10 and 11),
from which follow the words that are not instructions (R192), the range and tag checks (R52, R180), the touch set
(R27) and the dependence of R15. -/

namespace Sys2Proof.Machine

/-- The fields of a word by name; a field that the word's format lacks is 0. -/
structure Fields where
  op : Nat
  g : BitVec 3
  u : Bool
  e : Bool
  fb : RegField := 0
  fa : RegField := 0
  fd : RegField := 0
  fo : RegField := 0
  imm : BitVec 12 := 0
  off : BitVec 18 := 0
  s : BitVec 3 := 0
  l : BitVec 3 := 0
  p : BitVec 3 := 0
  cc : BitVec 3 := 0
  x : BitVec 2 := 0
  sp : BitVec 4 := 0
  deriving DecidableEq, Repr

def fieldsA (op : Nat) (w : WordA) : Fields := { op, g := w.g, u := w.u, e := w.e, fb := w.b, fa := w.a, fd := w.d }
def fieldsI (op : Nat) (w : WordI) : Fields := { op, g := w.g, u := w.u, e := w.e, imm := w.imm, fd := w.d }
def fieldsJ (op : Nat) (w : WordJ) : Fields := { op, g := w.g, u := w.u, e := w.e, off := w.off }
def fieldsM (op : Nat) (w : WordM) : Fields :=
  { op, g := w.g, u := w.u, e := w.e, s := w.s, fo := w.o, l := w.l, fd := w.d }
def fieldsO (op : Nat) (w : WordO) : Fields :=
  { op, g := w.g, u := w.u, e := w.e, fb := w.b, x := w.x, sp := w.sp, p := w.p, l := w.l }
def fieldsC (op : Nat) (w : WordC) : Fields :=
  { op, g := w.g, u := w.u, e := w.e, fb := w.b, fa := w.a, cc := w.cc, p := w.p }

/-- A compact form as the word of format A that it stands for (R188): D as destination, A equal to D and B equal to SB,
unguarded and not uniform. -/
def fieldsH (op : Nat) (w : WordH) : Fields :=
  { op, g := 0, u := false, e := w.e, fb := w.sb.setWidth 6, fa := w.d.setWidth 6, fd := w.d.setWidth 6 }

/-- Compact MOV copies SB into D (R188). -/
def fieldsHMov (w : WordH) : Fields :=
  { op := 0x4B, g := 0, u := false, e := w.e, fa := w.sb.setWidth 6, fd := w.d.setWidth 6 }

/-- The register fields of R187. -/
inductive FieldName where
  | A | B | D | O
  deriving DecidableEq, Repr

/-- The registers a field may name: any of the namespace, a k register, a k register or z, or a v register. -/
inductive Kind where
  | any | k | kz | v
  deriving DecidableEq, Repr

/-- The tags that R180 accepts on a v source; `any` accepts all. -/
inductive Accept where
  | any
  | of (tags : List FTag)
  deriving DecidableEq, Repr

/-- How an opcode uses a field. `n` is the number of registers a wide operand covers (R53). -/
inductive Use where
  /-- A number below the bound, not a register. -/
  | raw (f : FieldName) (bound : Nat)
  | src (f : FieldName) (n : Nat) (acc : Accept) (c : Kind)
  | dst (f : FieldName) (n : Nat) (c : Kind)
  | both (f : FieldName) (n : Nat) (acc : Accept) (c : Kind)
  /-- A descriptor block of n registers named by A (R187). -/
  | blk (n : Nat)
  /-- A predicate code: number in bits 2:0, negation in bit 3. -/
  | pcode (f : FieldName)
  /-- IMM12 is used; its range is `immOk`. -/
  | imm
  /-- A status operand in IMM12 bits 9:4 (R266). -/
  | ks
  | off
  | s
  | line (write : Bool)
  | pdst
  | pdstOpt
  | psrc
  /-- CC is used and below the bound. -/
  | cc (bound : Nat)
  | sp
  /-- The word writes k15 without naming it (R200). -/
  | k15
  deriving DecidableEq, Repr

/-! Sets of accepted tags (R57, R180). -/

def accS : Accept := .of [0, 1]
def accN : Accept := .of [0, 2]
def accSN : Accept := .of [0, 1, 2]
def accF : Accept := .of [0, 3]
def accBF : Accept := .of [0, 4]
def accHF : Accept := .of [0, 5]
def accM8 : Accept := .of [0, 6]
def accM4 : Accept := .of [0, 7]
def accI8 : Accept := .of [0, 8]
def accI4 : Accept := .of [0, 9]

/-- The common shapes of the entries. -/
def uses3 (acc : Accept) : List Use := [.dst .D 1 .any, .src .A 1 acc .any, .src .B 1 acc .any]
def uses3d (acc : Accept) : List Use := [.both .D 1 acc .any, .src .A 1 acc .any, .src .B 1 acc .any]
def uses2 (acc : Accept) : List Use := [.dst .D 1 .any, .src .A 1 acc .any]
def usesCmp (acc : Accept) (ccs : Nat) : List Use := [.pdst, .src .A 1 acc .any, .src .B 1 acc .any, .cc ccs]
def usesP2 : List Use := [.pdst, .pcode .A, .pcode .B]
def usesP1 : List Use := [.pdst, .pcode .A]
def usesLd (n : Nat) : List Use := [.dst .D n .any, .src .O 1 .any .any, .line false, .s]
def usesSt (n : Nat) : List Use := [.src .D n .any .any, .src .O 1 .any .any, .line false, .s]
def usesAt (n : Nat) (acc : Accept) : List Use := [.both .D n acc .any, .src .O 1 .any .any, .line false, .s]
def usesStatus (n : Nat) : List Use := [.dst .D 1 .kz, .blk n]

/-- Row 0 (R199 to R207). -/
def usesRow0 (pos : Nat) : List Use :=
  match pos with
  | 1 => [.off]
  | 2 => [.off]
  | 3 => [.src .A 1 .any .kz]
  | 4 => [.off, .k15]
  | 5 => [.src .A 1 .any .kz]
  | 6 => [.psrc, .cc 2]
  | 9 => [.psrc, .cc 2]
  | 10 => [.off]
  | 13 => [.imm]
  | 14 => [.imm, .raw .D 64]
  | 15 => [.dst .D 1 .kz, .src .A 1 .any .kz, .src .B 1 .any .kz]
  | _ => []

/-- Row 1 (R208, R180). -/
def usesRow1 (pos : Nat) : List Use :=
  match pos with
  | 3 => uses3 accS
  | 4 => uses3 accN
  | 5 => uses3d accSN
  | 6 => uses2 accSN
  | 7 => uses2 accSN
  | 8 => uses3 accS
  | 9 => uses3 accN
  | 10 => uses3 accS
  | 11 => uses3 accN
  | 12 => uses3d accS
  | 13 => uses3 accS
  | 14 => uses3 accS
  | 15 => uses3d accS
  | _ => uses3 accSN

/-- Row 2 (R209 to R211). -/
def usesRow2 (pos : Nat) : List Use :=
  match pos with
  | 8 => [.dst .D 1 .any, .imm]
  | 10 => [.dst .D 1 .any, .imm]
  | 11 => [.dst .D 2 .any, .src .A 2 accSN .any, .src .B 2 accSN .any]
  | 12 => [.dst .D 2 .any, .src .A 2 accSN .any, .src .B 2 accSN .any]
  | 13 => [.both .D 2 accSN .any, .src .A 1 accSN .any, .src .B 1 accSN .any]
  | 14 => [.pdst, .src .A 1 accS .any, .raw .B 64, .cc 6]
  | 15 => uses3 .any
  | _ => [.both .D 1 accSN .any, .imm]

/-- Row 3 (R212, R213). -/
def usesRow3 (pos : Nat) : List Use :=
  match pos with
  | 4 => uses2 .any
  | 9 => uses2 .any
  | 10 => uses2 .any
  | 11 => uses2 .any
  | 12 => uses2 .any
  | 14 => uses3d .any
  | 15 => uses3d .any
  | _ => uses3 .any

/-- Row 4 (R214, R215). R180 lists no tag for the v source of MOVK and the D of WRSR: any is
accepted (DESIGN CHOICE, log 111). -/
def usesRow4 (pos : Nat) : List Use :=
  match pos with
  | 0 => usesCmp accS 6
  | 1 => usesCmp accN 6
  | 2 => usesCmp accF 8
  | 3 => [.pdst, .cc 2]
  | 4 => usesP2
  | 5 => usesP2
  | 6 => usesP2
  | 7 => usesP1
  | 8 => usesP1
  | 9 => usesP1
  | 10 => [.dst .D 1 .any, .pcode .A]
  | 11 => uses2 .any
  | 12 => [.dst .D 1 .k, .src .A 1 .any .any]
  | 13 => [.dst .D 1 .any, .imm]
  | 14 => [.src .D 1 .any .any, .imm]
  | _ => [.dst .D 1 .any, .imm]

/-- Row 5 (R217, R218). R180 lists no tag for the sources of MATCH: any is
accepted (DESIGN CHOICE, log 111). -/
def usesRow5 (pos : Nat) : List Use :=
  match pos with
  | 4 => [.dst .D 1 .any, .src .A 1 .any .any, .src .B 1 .any .kz]
  | 5 => [.dst .D 1 .k, .src .A 1 .any .any, .src .B 1 .any .kz]
  | 6 => [.dst .D 1 .any, .src .A 1 .any .kz, .src .B 1 .any .kz]
  | 7 => uses2 accS
  | 8 => uses2 accS
  | 9 => uses2 accS
  | 10 => uses2 accF
  | 11 => uses2 accS
  | 12 => uses2 accF
  | 13 => uses2 .any
  | 14 => usesP1
  | 15 => [.dst .D 1 .any]
  | _ => uses3 .any

/-- Row 6 (R219). -/
def usesRow6 (pos : Nat) : List Use :=
  match pos with
  | 3 => uses3d accF
  | 15 => uses3d accF
  | n => if n < 6 then uses3 accF else uses2 accF

/-- Row 7 (R222 to R224). -/
def usesRow7 (pos : Nat) : List Use :=
  match pos with
  | 0 => uses3 accBF
  | 1 => uses3 accBF
  | 2 => uses3d accBF
  | 3 => uses3 accHF
  | 4 => uses3 accHF
  | 5 => uses3d accHF
  | 6 => uses3 accBF
  | 7 => uses3 accBF
  | 8 => uses3 accHF
  | 9 => uses3 accHF
  | 10 => [.both .D 1 accF .any, .src .A 1 accBF .any, .src .B 1 accBF .any]
  | 11 => [.both .D 1 accF .any, .src .A 1 accHF .any, .src .B 1 accHF .any]
  | 12 => [.both .D 1 accF .any, .src .A 1 accM8 .any, .src .B 1 accM8 .any]
  | 13 => [.both .D 1 accS .any, .src .A 1 accI8 .any, .src .B 1 accI8 .any]
  | 14 => [.both .D 1 accS .any, .src .A 1 accI4 .any, .src .B 1 accI4 .any]
  | _ => [.dst .D 1 .any, .src .A 1 accF .any, .raw .B 4]

/-- Row 8 (R225, R226). -/
def usesRow8 (pos : Nat) : List Use :=
  match pos with
  | 0 => uses2 accS
  | 1 => uses2 accF
  | 2 => uses2 accN
  | 3 => uses2 accF
  | 4 => uses3 accF
  | 5 => [.dst .D 1 .any, .src .A 1 accBF .any, .raw .B 2]
  | 6 => uses3 accF
  | 7 => [.dst .D 1 .any, .src .A 1 accHF .any, .raw .B 2]
  | 8 => [.both .D 1 accM8 .any, .src .A 1 accF .any, .raw .B 4]
  | 9 => [.dst .D 1 .any, .src .A 1 accM8 .any, .raw .B 4]
  | 10 => [.both .D 1 accM4 .any, .src .A 1 accF .any, .raw .B 8]
  | 11 => [.dst .D 1 .any, .src .A 1 accM4 .any, .raw .B 8]
  | 12 => [.both .D 1 accI8 .any, .src .A 1 accS .any, .raw .B 4]
  | 13 => [.both .D 1 accI4 .any, .src .A 1 accS .any, .raw .B 8]
  | 14 => [.both .D 1 .any .v, .imm]
  | _ => uses2 .any

/-- Row 9 (R232 to R238). -/
def usesRow9 (pos : Nat) : List Use :=
  match pos with
  | 0 => [.src .B 1 .any .any, .sp, .pdstOpt, .line true]
  | 1 => [.src .B 1 .any .any, .sp, .pdstOpt, .line true]
  | 2 => [.line true]
  | 3 => [.line true]
  | 9 => usesLd 2
  | 10 => usesLd 4
  | 14 => usesSt 2
  | 15 => usesSt 4
  | n => if n < 9 then usesLd 1 else usesSt 1

/-- Row A (R239 to R250). R180 lists no tag for TAGSET's tag operand: any is
accepted (DESIGN CHOICE, log 111). -/
def usesRowA (pos : Nat) : List Use :=
  match pos with
  | 0 => [.blk 8]
  | 1 => [.blk 4]
  | 2 => [.blk 1, .src .B 1 .any .kz]
  | 3 => [.dst .D 1 .any, .blk 1]
  | 4 => [.dst .D 1 .any, .blk 1, .src .B 1 .any .any]
  | 5 => [.src .D 1 .any .k, .src .O 1 .any .any, .line false, .s]
  | 6 => [.src .D 1 .any .k, .src .O 1 .any .any, .line false, .s]
  | 7 => [.line true]
  | 8 => [.dst .D 1 .any, .line false]
  | 9 => [.src .D 1 .any .any, .blk 1, .src .B 1 .any .any]
  | 10 => [.dst .D 1 .any, .blk 1, .src .B 1 .any .any]
  | 11 => [.src .B 1 .any .any, .sp]
  | 12 => [.dst .D 1 .kz, .imm]
  | 13 => [.dst .D 1 .kz, .imm]
  | _ => usesStatus 2

/-- Row B (R251 to R256). -/
def usesRowB (pos : Nat) : List Use :=
  match pos with
  | 1 => usesAt 2 .any
  | 2 => usesAt 1 accF
  | 3 => usesAt 1 accS
  | 4 => usesAt 1 accS
  | 5 => usesAt 1 accN
  | 6 => usesAt 1 accN
  | 11 => usesAt 2 .any
  | 12 => usesAt 4 .any
  | 13 => [.blk 4]
  | 14 => [.src .D 1 .any .any, .blk 4]
  | 15 => [.blk 4]
  | _ => usesAt 1 .any

/-- Row C (R257 to R276). -/
def usesRowC (pos : Nat) : List Use :=
  match pos with
  | 4 => usesStatus 2
  | 5 => usesStatus 4
  | 6 => []
  | 7 => [.imm]
  | 8 => [.dst .D 2 .any, .imm]
  | 9 => [.src .D 1 .any .any, .imm, .ks]
  | 10 => [.dst .D 1 .any, .imm, .ks]
  | 11 => [.dst .D 1 .any, .imm, .ks]
  | 12 => [.src .D 1 .any .any, .imm, .ks]
  | 13 => [.imm, .ks]
  | 14 => [.imm, .ks]
  | 15 => [.src .D 1 .any .any, .imm, .ks]
  | _ => usesStatus 8

/-- Row D (R280 to R291). -/
def usesRowD (pos : Nat) : List Use :=
  match pos with
  | 0 => [.both .D 1 .any .k, .blk 8, .dst .B 1 .kz]
  | 1 => [.both .D 1 .any .k, .blk 8, .dst .B 1 .kz]
  | 2 => [.blk 4, .dst .B 1 .kz]
  | 3 => [.blk 8, .dst .B 1 .kz]
  | 4 => [.imm]
  | 5 => [.dst .D 1 .kz, .src .A 1 .any .any]
  | 6 => [.dst .D 1 .any, .blk 2, .src .B 1 .any .any]
  | 7 => [.src .D 1 .any .any, .blk 2, .src .B 1 .any .any]
  | 8 => [.dst .D 1 .any, .src .A 1 .any .kz, .dst .B 1 .kz]
  | 9 => usesStatus 2
  | 10 => [.dst .D 1 .any]
  | 11 => [.src .D 4 .any .any, .blk 2, .src .B 1 .any .any]
  | 12 => []
  | 13 => [.dst .D 1 .any]
  | 14 => [.dst .D 4 .any, .blk 2, .src .B 1 .any .any]
  | _ => [.dst .D 1 .kz]

/-- Row E (R292 to R306). -/
def usesRowE (pos : Nat) : List Use :=
  match pos with
  | 0 => [.dst .D 1 .k, .blk 2]
  | 2 => usesStatus 4
  | 3 => usesStatus 4
  | 4 => [.dst .D 1 .k, .imm]
  | 6 => usesStatus 4
  | 8 => [.dst .D 1 .kz, .blk 2, .src .B 1 .any .kz]
  | 9 => [.dst .D 4 .any, .src .A 1 .any .any]
  | 10 => [.dst .D 1 .kz, .blk 2, .src .B 1 .any .kz]
  | 12 => [.dst .D 1 .k, .blk 4, .dst .B 1 .kz]
  | 13 => [.dst .D 1 .k, .blk 2, .dst .B 1 .kz]
  | 14 => [.dst .D 1 .kz, .src .A 1 .any .any]
  | 15 => [.dst .D 1 .kz, .src .A 1 .any .any, .src .B 1 .any .any]
  | _ => usesStatus 2

/-- Row F (R307 to R316). -/
def usesRowF (pos : Nat) : List Use :=
  match pos with
  | 0 => [.dst .D 1 .v]
  | 1 => [.dst .D 1 .kz, .src .A 1 .any .any, .src .B 1 .any .any]
  | 2 => [.dst .D 1 .k, .blk 2, .dst .B 1 .kz]
  | 3 => [.src .D 1 .any .k, .blk 2, .dst .B 1 .kz]
  | 4 => [.dst .D 1 .kz, .src .A 1 .any .any]
  | 5 => [.dst .D 1 .kz, .src .A 1 .any .any, .src .B 1 .any .any]
  | 6 => [.dst .D 1 .kz, .src .A 1 .any .any]
  | 7 => usesStatus 4
  | 8 => [.dst .D 1 .v, .src .A 1 .any .any]
  | 9 => [.dst .D 1 .kz, .src .A 1 .any .any, .src .B 1 .any .any]
  | 10 => [.dst .D 2 .any]
  | 11 => [.imm]
  | 12 => [.dst .D 2 .k, .src .A 1 .any .any]
  | 13 => [.dst .D 2 .k, .src .A 1 .any .any, .src .B 1 .any .any]
  | _ => usesStatus 2

/-- The operand uses of an opcode. -/
def usesOf (op : Nat) : List Use :=
  let pos := op % 16
  match op / 16 with
  | 0 => usesRow0 pos
  | 1 => usesRow1 pos
  | 2 => usesRow2 pos
  | 3 => usesRow3 pos
  | 4 => usesRow4 pos
  | 5 => usesRow5 pos
  | 6 => usesRow6 pos
  | 7 => usesRow7 pos
  | 8 => usesRow8 pos
  | 9 => usesRow9 pos
  | 10 => usesRowA pos
  | 11 => usesRowB pos
  | 12 => usesRowC pos
  | 13 => usesRowD pos
  | 14 => usesRowE pos
  | _ => usesRowF pos

/-- U = 1 is permitted (R191). -/
def uniformOk (op : Nat) : Bool :=
  match op / 16 with
  | 1 => true
  | 2 => op != 0x2E
  | 3 => true
  | 4 => op == 0x4B || op == 0x4D || op == 0x4E || op == 0x4F
  | _ => false

/-- The control transfers and waiting instructions that must carry B = 1 (R24). -/
def needsBoundary (op : Nat) : Bool :=
  [0x01, 0x02, 0x03, 0x04, 0x05, 0x0A, 0x0B, 0x0C, 0x0D, 0x0E, 0x0F, 0xAC, 0xBF, 0xC7, 0xC9, 0xCA, 0xCE, 0xD4,
    0xEA].contains op

/-- The opcodes whose guard must be 0b000 (R185). -/
def needsNoGuard (op : Nat) : Bool := [0x03, 0x04, 0x05, 0x0A, 0x0C, 0x0F].contains op

/-- The system registers that are assigned a number (R67). -/
def rdsrAssigned (n : Nat) : Bool :=
  n < 8 || (0x10 ≤ n && n < 0x1A) || (0x20 ≤ n && n < 0x25) || (0x30 ≤ n && n < 0x33) || n == 0x40 || n == 0x41

/-- The range of IMM12, OFF18 and S that an entry gives. -/
def immOk (w : Fields) : Bool :=
  let i := w.imm.toNat
  match w.op with
  | 0x0A => w.off.toNat < 65536
  | 0x0E => i / 256 ≤ 8 && (if i / 256 = 0 then w.fd == 0 else w.fd.toNat < 47)
  | 0x25 => i < 32
  | 0x26 => i < 32
  | 0x27 => i < 32
  | 0x4D => rdsrAssigned i
  | 0x4E => i == 0x23
  | 0x4F => i < 6
  | 0x8E => i < 10
  | 0xA5 => w.s.toNat < 4
  | 0xA6 => w.s.toNat < 4
  | 0xAC => i == 16 || i == 24 || i == 32 || i == 47
  | 0xAD => i == 16 || i == 24 || i == 32
  | 0xC7 => i ≤ 8
  | 0xC8 => i < 16
  | 0xD4 => i ≤ 7
  | 0xE4 => i < 6
  | n => if 0xC9 ≤ n && n ≤ 0xCF then i < 1024 else true

/-- A register field of a word. -/
def Fields.field (w : Fields) : FieldName → RegField
  | .A => w.fa
  | .B => w.fb
  | .D => w.fd
  | .O => w.fo

/-- The status operand of a ring or barrier word (R272). -/
def Fields.ksField (w : Fields) : RegField := w.imm.extractLsb' 4 6

/-- The field names a v register, z, or a k register (R50). -/
def isV (f : RegField) : Bool := f.toNat < 47
def isZ (f : RegField) : Bool := f == 47#6
def isK (f : RegField) : Bool := 48 ≤ f.toNat

def Kind.ok (c : Kind) (f : RegField) : Bool :=
  match c with
  | .any => true
  | .k => isK f
  | .kz => isK f || isZ f
  | .v => isV f

/-- A wide operand is aligned and stays clear of z (R53). -/
def wideOk (n : Nat) (f : RegField) : Bool :=
  n == 1 || isZ f || (f.toNat % n == 0 && (isK f || f.toNat + n ≤ 47))

/-- A descriptor block starts at an aligned k register and ends by k15 (R187, R192). -/
def blockOk (n : Nat) (f : RegField) : Bool := isK f && (f.toNat - 48) % n == 0 && f.toNat - 48 + n ≤ 16

/-- The fields an opcode uses. -/
def usesField (us : List Use) (f : FieldName) : Bool :=
  us.any fun
    | .raw f' _ => f' == f
    | .src f' _ _ _ => f' == f
    | .dst f' _ _ => f' == f
    | .both f' _ _ _ => f' == f
    | .pcode f' => f' == f
    | .blk _ => f == .A
    | _ => false

/-- Every field that the opcode's entry does not use is zero (R187, R192). -/
def unusedZero (w : Fields) (us : List Use) : Bool :=
  (usesField us .A || w.fa == 0) && (usesField us .B || w.fb == 0) && (usesField us .D || w.fd == 0) &&
  (usesField us .O || w.fo == 0) && (us.contains .imm || w.imm == 0) && (us.contains .off || w.off == 0) &&
  (us.contains .s || w.s == 0) && (us.contains .sp || w.sp == 0) && w.x == 0 &&
  (us.any (fun | .line _ => true | _ => false) || w.l == 0) &&
  (us.any (fun | .pdst => true | .pdstOpt => true | .psrc => true | _ => false) || w.p == 0) &&
  (us.any (fun | .cc _ => true | _ => false) || w.cc == 0)

/-- The numbers an entry bounds: element indexes, modes and predicate codes. -/
def rawOk (w : Fields) (us : List Use) : Bool :=
  us.all fun
    | .raw f bound => (w.field f).toNat < bound
    | .pcode f => (w.field f).toNat < 16
    | .cc bound => w.cc.toNat < bound || 6 ≤ w.cc.toNat && bound == 6
    | _ => true

/-- The kinds of register the entry requires. -/
def kindsOk (w : Fields) (us : List Use) : Bool :=
  us.all fun
    | .src f _ _ c => c.ok (w.field f)
    | .dst f _ c => c.ok (w.field f)
    | .both f _ _ c => c.ok (w.field f)
    | .ks => Kind.ok .kz w.ksField
    | _ => true

/-- Under U = 1 every used register field names a k register or z (R191). -/
def uniformFieldsOk (w : Fields) (us : List Use) : Bool :=
  us.all fun
    | .src f _ _ _ => !isV (w.field f)
    | .dst f _ _ => !isV (w.field f)
    | .both f _ _ _ => !isV (w.field f)
    | _ => true

/-- The predicate a word writes is not p0, and ORD and UNO stand in FCMP only (R192). -/
def predOk (w : Fields) (us : List Use) : Bool :=
  us.all fun
    | .pdst => w.p != 0
    | .cc bound => !(bound == 6 && 6 ≤ w.cc.toNat)
    | _ => true

/-- Wide operands and descriptor blocks (R53, R187). -/
def widthsOk (w : Fields) (us : List Use) : Bool :=
  us.all fun
    | .src f n _ _ => wideOk n (w.field f)
    | .dst f n _ => wideOk n (w.field f)
    | .both f n _ _ => wideOk n (w.field f)
    | .blk n => blockOk n w.fa
    | _ => true

/-- Why a word is not an instruction: the ILLEGAL rows of R192, in their order. -/
inductive IllFormed where
  | reservedGuard
  | fieldNotZero
  | outOfRange
  | uniform
  | boundary
  | guarded
  | predicate
  | operand
  deriving DecidableEq, Repr

/-- The first ILLEGAL row of R192 that a word meets. -/
def illFormed (w : Fields) : Option IllFormed :=
  let us := usesOf w.op
  if w.g == 4 then some .reservedGuard
  else if !unusedZero w us then some .fieldNotZero
  else if !(immOk w && rawOk w us && kindsOk w us) then some .outOfRange
  else if w.u && !(uniformOk w.op && uniformFieldsOk w us) then some .uniform
  else if needsBoundary w.op && !w.e then some .boundary
  else if needsNoGuard w.op && w.g != 0 then some .guarded
  else if !predOk w us then some .predicate
  else if !widthsOk w us then some .operand
  else none

/-! ### Registers covered, touch sets -/

/-- Items of the scoreboard (R26), by number: register fields, predicates, line registers, accumulator slots. -/
def itemPred (p : Nat) : Nat := 64 + p
def itemLine (l : Nat) : Nat := 72 + l
def itemSlot (s : Nat) : Nat := 80 + s

/-- The set of one item. -/
def itemBit (i : Nat) : BitVec 96 := 1#96 <<< i

/-- The items of n registers from field f; z is none of them (R55). -/
def regItems (f : RegField) (n : Nat) : BitVec 96 :=
  if isZ f then 0 else (List.range n).foldl (fun acc i => acc ||| itemBit (f.toNat + i)) 0

/-- What a word reads: sources, blocks, predicates and its guard's predicate (R15, R27). -/
def readItems (w : Fields) : BitVec 96 :=
  (usesOf w.op).foldl (fun acc u => acc ||| match u with
    | .src f n _ _ => regItems (w.field f) n
    | .both f n _ _ => regItems (w.field f) n
    | .blk n => regItems w.fa n
    | .pcode f => itemBit (itemPred ((w.field f).toNat % 8))
    | .psrc => itemBit (itemPred w.p.toNat)
    | .line _ => itemBit (itemLine w.l.toNat)
    | _ => 0)
    (if w.g.toNat % 4 = 0 then 0 else itemBit (itemPred (w.g.toNat % 4)))

/-- What a word writes. -/
def writeItems (w : Fields) : BitVec 96 :=
  (usesOf w.op).foldl (fun acc u => acc ||| match u with
    | .dst f n _ => regItems (w.field f) n
    | .both f n _ _ => regItems (w.field f) n
    | .ks => regItems w.ksField 1
    | .pdst => itemBit (itemPred w.p.toNat)
    | .pdstOpt => if w.p = 0 then 0 else itemBit (itemPred w.p.toNat)
    | .line true => itemBit (itemLine w.l.toNat)
    | .k15 => itemBit 63
    | _ => 0) 0

/-- The v registers a SYSCALL hands over (R206), as a first register and a count. -/
def syscallRange (w : Fields) : Nat × Nat := (w.fd.toNat, w.imm.toNat / 256)

/-- Every v register a word names lies below the allocation (R52, R206). -/
def rangeOk (w : Fields) (valloc : Nat) : Bool :=
  (usesOf w.op).all (fun
    | .src f n _ _ => !isV (w.field f) || (w.field f).toNat + n ≤ valloc
    | .dst f n _ => !isV (w.field f) || (w.field f).toNat + n ≤ valloc
    | .both f n _ _ => !isV (w.field f) || (w.field f).toNat + n ≤ valloc
    | _ => true) &&
  (w.op != 0x0E || (syscallRange w).2 == 0 || (syscallRange w).1 + (syscallRange w).2 ≤ valloc)

/-- A v source of n registers carries one accepted tag throughout (R58, R180). -/
def tagOk (tag : Nat → FTag) (f : RegField) (n : Nat) (acc : Accept) : Bool :=
  !isV f ||
  (let same := (List.range n).all fun i => tag (f.toNat + i) == tag f.toNat
   match acc with
   | .any => same
   | .of ts => ts.contains (tag f.toNat) && same)

/-- The FORMAT check of R180 and R181. -/
def formatOk (w : Fields) (tag : Nat → FTag) : Bool :=
  (usesOf w.op).all fun
    | .src f n acc _ => tagOk tag (w.field f) n acc
    | .both f n acc _ => tagOk tag (w.field f) n acc
    | _ => true

/-- The roles that may issue an opcode (R39, R190): none is everyone's. -/
inductive RoleClass where
  | all | copy | matrix | vector
  deriving DecidableEq, Repr

def roleClass (op : Nat) : RoleClass :=
  match op / 16 with
  | 6 => .vector
  | 7 => .vector
  | 8 => .vector
  | 12 => if op % 16 < 8 then .copy else .all
  | 13 => if op == 0xD6 || op == 0xD7 || op == 0xDB || op == 0xDE then .vector else .matrix
  | _ => .all

/-- Row F belongs to the supervisor group, except CYCLES and BRK (R192); SPSET too (R239). -/
def supOnly (op : Nat) : Bool := (op / 16 == 15 && op != 0xFA && op != 0xFB) || op == 0xA0

/-- The rows whose words wait for an ACQ, FENCE or REL of the group (R268, R323). -/
def memoryRow (op : Nat) : Bool := 0x90 ≤ op && op < 0xF0

/-- Instructions that act once for the group and issue with an empty mask (R195). -/
def groupLevel (op : Nat) : Bool :=
  [0x01, 0x02, 0x03, 0x04, 0x05, 0x06, 0x07, 0x08, 0x09, 0x0A, 0x0C, 0x0F].contains op

end Sys2Proof.Machine
end

