-- ==== Sys2Proof/Machine/Operands.lean ====
section
/-! DEFINITION. Reading and writing a group's registers: the operand namespace (R50), z (R55), predicates and p0 (R56),
format tags (R57, R58), wide operands (R53), guards and participants (R185, R194), and register writes as data. -/

namespace Sys2Proof.Machine

/-! ### Masks and threads -/

/-- The threads of a mask, ascending. -/
def threadsOf (m : Mask) : List Nat := (List.range 32).filter (fun t => m.getLsbD t)

/-- The mask of a list of threads. -/
def maskOf (ts : List Nat) : Mask := ts.foldl (fun m t => m ||| (1#32 <<< t)) 0

/-! ### Reading -/

/-- The value of v register r in thread t. -/
def Group.readV (g : Group) (r t : Nat) : Word := g.v.getD (32 * r + t) 0

/-- The value of k register j. -/
def Group.readK (g : Group) (j : Nat) : Word := g.k.getD j 0

/-- The value of field f's register in thread t (R50): the k value for a k register and 0 for z (R54, R55). -/
def Group.reg (g : Group) (f : RegField) (t : Nat) : Word :=
  if isV f then g.readV f.toNat t else if isZ f then 0 else g.readK (f.toNat - 48)

/-- Register i of the wide operand that starts at field f. -/
def Group.regAt (g : Group) (f : RegField) (i t : Nat) : Word :=
  if isZ f then 0 else g.reg (f + BitVec.ofNat 6 i) t

/-- The 64-bit value of a pair (R53): its high register holds the high word. -/
def Group.reg64 (g : Group) (f : RegField) (t : Nat) : Dword := g.regAt f 1 t ++ g.regAt f 0 t

/-- Predicate p of thread t; p0 reads true (R56). -/
def Group.pred (g : Group) (p t : Nat) : Bool := p == 0 || (g.preds.getD p 0).getLsbD t

/-- The format tag of v register r (R57). -/
def Group.tagV (g : Group) (r : Nat) : FTag := g.vtag.getD r 0

/-- The tag of field f: k registers and z read RAW (R57). -/
def Group.tagOf (g : Group) (f : RegField) : FTag := if isV f then g.tagV f.toNat else 0

/-- Span register s (R59). -/
def Group.span (g : Group) (s : Nat) : Span := g.spans.getD s {}

/-- Line register l (R62). -/
def Group.line (g : Group) (l : Nat) : LineReg := g.lines.getD l {}

/-- The guard's value in thread t (R185). -/
def Group.guard (g : Group) (gf : BitVec 3) (t : Nat) : Bool :=
  let p := gf.toNat % 4
  if p = 0 then true else if gf.toNat < 4 then g.pred p t else !g.pred p t

/-- The active threads, ascending (R19). -/
def Group.active (g : Group) : List Nat := threadsOf g.amask

/-- The participants of an instruction with guard field gf (R194). -/
def Group.participants (g : Group) (gf : BitVec 3) : List Nat := g.active.filter (g.guard gf)

/-- A predicate code of format C: number in bits 2:0, negation in bit 3 (R214). -/
def Group.pcode (g : Group) (f : RegField) (t : Nat) : Bool := (g.pred (f.toNat % 8) t) != f.getLsbD 3

/-! ### Writing -/

def Group.setV (g : Group) (r t : Nat) (x : Word) : Group := { g with v := g.v.set (32 * r + t) x }
def Group.setK (g : Group) (j : Nat) (x : Word) : Group := { g with k := g.k.set j x }
def Group.setTag (g : Group) (r : Nat) (f : FTag) : Group := { g with vtag := g.vtag.set r f }
def Group.setSpan (g : Group) (s : Nat) (x : Span) : Group := { g with spans := g.spans.set s x }
def Group.setLine (g : Group) (l : Nat) (x : LineReg) : Group := { g with lines := g.lines.set l x }

/-- Predicate p of thread t becomes b; a write to p0 is discarded (R56). -/
def Group.setPred (g : Group) (p t : Nat) (b : Bool) : Group :=
  if p = 0 then g
  else
    let m := g.preds.getD p 0
    { g with preds := g.preds.set p (if b then m ||| (1#32 <<< t) else m &&& ~~~(1#32 <<< t)) }

/-- One register write. -/
def RegWrite.apply (g : Group) : RegWrite → Group
  | .v r t x => g.setV r t x
  | .vtag r f => g.setTag r f
  | .k r x => g.setK r x
  | .pred p t b => g.setPred p t b
  | .lsts s => { g with lsts := s }
  | .tokClear j => { g with tokens := g.tokens &&& ~~~(1#32 <<< j) }

/-- Register writes in their order. -/
def applyWrites (g : Group) (ws : List RegWrite) : Group := ws.foldl RegWrite.apply g

/-- The write of x to field f's register in thread t; a write to z is none (R55). -/
def writeField (f : RegField) (t : Nat) (x : Word) : List RegWrite :=
  if isV f then [.v f.toNat t x] else if isZ f then [] else [.k (f.toNat - 48) x]

/-- The write of the words xs to the registers from field f on in thread t (R53). -/
def writeWide (f : RegField) (t : Nat) : Nat → List Word → List RegWrite
  | _, [] => []
  | i, x :: xs =>
    (if isZ f then [] else writeField (f + BitVec.ofNat 6 i) t x) ++ writeWide f t (i + 1) xs

/-- The tag write of n registers from field f: k registers and z carry no tag (R57, R58). -/
def writeTag (f : RegField) (n : Nat) (tag : FTag) : List RegWrite :=
  if isV f then (List.range n).map (fun i => .vtag (f.toNat + i) tag) else []

/-- The write of one value to field f in every listed thread: a k register is written once (R266, R227). -/
def writeAll (f : RegField) (ts : List Nat) (x : Word) : List RegWrite :=
  if isV f then ts.map (fun t => .v f.toNat t x) else if ts = [] then [] else writeField f 0 x

/-- The 32-bit values of a 64-bit result, low word first (R53). -/
def words64 (x : Dword) : List Word := [x.extractLsb' 0 32, x.extractLsb' 32 32]

/-! ### Passes over threads -/

/-- One pass per listed thread, ascending, each seeing the writes of the passes before it (R10, R54): the group after
them and all writes in order. -/
def passes (f : Group → Nat → List RegWrite) : Group → List Nat → Group × List RegWrite
  | g, [] => (g, [])
  | g, t :: ts =>
    let ws := f g t
    let r := passes f (applyWrites g ws) ts
    (r.1, ws ++ r.2)

/-- The tag an arithmetic result of rows 1 and 2 takes (R180, R198): N32 when the word has a v source and every v
source is N32, S32 otherwise. -/
def mixedTag (g : Group) (srcs : List RegField) : FTag :=
  let vs := srcs.filter isV
  if vs ≠ [] ∧ vs.all (fun f => g.tagOf f == 2) then 2 else 1

end Sys2Proof.Machine
end

