-- ==== Sys2Proof/Machine/Ops.lean ====
section
/-! DEFINITION. Named operations over the machine: reaching a core, a cluster and a group, the mailbox and the event log,
taking a fault and returning from one, the stop at a run boundary, and the issue of one instruction word with the checks
of R192 in their order. -/

namespace Sys2Proof.Machine

/-! ### Where things are -/

/-- The lane of a group slot, numbered as HOLDER in R94. -/
def laneOf (slot : Nat) : Nat :=
  if slot < 1024 then slot / 8 else if slot < 1280 then (slot - 1024) / 2 else 0

/-- The slot number within the lane: 0 to 7 owner, 8 and 9 harvest, 15 supervisor (R67). -/
def slotOf (slot : Nat) : Nat :=
  if slot < 1024 then slot % 8 else if slot < 1280 then 8 + (slot - 1024) % 2 else 15

/-- HOLDER of a lane and slot number (R94). -/
def holderOf (lane slot : Nat) : Nat :=
  if slot < 8 then lane * 8 + slot else if slot < 10 then 1024 + lane * 2 + (slot - 8) else 1280

/-- The physical cluster and the member index of a physical core (R380). -/
def clusterOf (core : Nat) : Nat := core / 8
def memberOf (core : Nat) : Nat := core % 8

def Mach.core (m : Mach) (c : Nat) : Core := m.cores.getD c Core.reset
def Mach.setCore (m : Mach) (c : Nat) (x : Core) : Mach := { m with cores := m.cores.set c x }
def Mach.modCore (m : Mach) (c : Nat) (f : Core → Core) : Mach := m.setCore c (f (m.core c))

def Mach.cluster (m : Mach) (c : Nat) : Cluster := m.clusters.getD c {}
def Mach.setCluster (m : Mach) (c : Nat) (x : Cluster) : Mach := { m with clusters := m.clusters.set c x }
def Mach.modCluster (m : Mach) (c : Nat) (f : Cluster → Cluster) : Mach := m.setCluster c (f (m.cluster c))

def Core.lane (c : Core) (l : Nat) : Lane := c.lanes.getD l {}
def Core.setLane (c : Core) (l : Nat) (x : Lane) : Core := { c with lanes := c.lanes.set l x }
def Core.modLane (c : Core) (l : Nat) (f : Lane → Lane) : Core := c.setLane l (f (c.lane l))

/-- The resident group of a slot. -/
def Mach.group? (m : Mach) (core slot : Nat) : Option Group := (m.core core).groups.get? slot

def Mach.setGroup (m : Mach) (core slot : Nat) (g : Group) : Mach :=
  m.modCore core (fun c => { c with groups := c.groups.set slot g })

/-- Change the resident group of a slot, if there is one. -/
def Mach.modGroup (m : Mach) (core slot : Nat) (f : Group → Group) : Mach :=
  match m.group? core slot with
  | some g => m.setGroup core slot (f g)
  | none => m

/-- The slot in which a group is resident: the one it was last known in, or the one it has resumed in since (R355). -/
def Mach.seat (m : Mach) (core slot uid : Nat) : Option Nat :=
  match m.group? core slot with
  | some g => if g.uid = uid then some slot else ((m.core core).groups.find? (fun e => e.2.uid == uid)).map (·.1)
  | none => ((m.core core).groups.find? (fun e => e.2.uid == uid)).map (·.1)

/-- A group by its identity: resident, or saved on its core (R75). -/
def Mach.findGroup (m : Mach) (core slot uid : Nat) : Option Group :=
  match m.seat core slot uid with
  | some s => m.group? core s
  | none => (m.core core).saved.get? uid

/-- Change a group by its identity, resident or saved. -/
def Mach.modUid (m : Mach) (core slot uid : Nat) (f : Group → Group) : Mach :=
  match m.seat core slot uid with
  | some s => m.modGroup core s f
  | none => match (m.core core).saved.get? uid with
    | some g => m.modCore core (fun c => { c with saved := c.saved.set uid (f g) })
    | none => m

/-- The group that a slot number names for the supervisor group: the resident one, or the one that was pre-empted there
(R74). -/
def Mach.slotGroup? (m : Mach) (core slot : Nat) : Option Group :=
  match m.group? core slot with
  | some g => some g
  | none => ((m.core core).saved.find? (fun e => e.2.home == slot)).map (·.2)

/-- The block of a group, in its core's cluster. -/
def Mach.block? (m : Mach) (core : Nat) (g : Group) : Option Block :=
  if g.id.sup then none else (m.cluster (clusterOf core)).blocks.get? g.id.block

def Mach.modBlock (m : Mach) (cluster block : Nat) (f : Block → Block) : Mach :=
  m.modCluster cluster (fun k => match k.blocks.get? block with
    | some b => { k with blocks := k.blocks.set block (f b) }
    | none => k)

def Mach.ctx (m : Mach) (n : Nat) : Ctx := m.ctxs.getD n {}
def Mach.modCtx (m : Mach) (n : Nat) (f : Ctx → Ctx) : Mach := { m with ctxs := m.ctxs.set n (f (m.ctx n)) }

/-- A fresh identity. -/
def Mach.fresh (m : Mach) : Nat × Mach := (m.nextUid, { m with nextUid := m.nextUid + 1 })

/-- The next free value (log 2). -/
def Mach.draw (m : Mach) : Nat × Mach := (m.draws, { m with draws := m.draws + 1 })

/-- The next n free values. -/
def Mach.drawMany (m : Mach) (n : Nat) : Nat × Mach := (m.draws, { m with draws := m.draws + n })

/-! ### Engine operations that happen before an access (R320, R429) -/

/-- The operations that happen before what a group does next, and so before its message `id`. -/
def Group.knows (g : Group) (id : Nat) : List Nat := (g.eng.sure.filter (fun e => e.2 ≤ id)).map (·.1)

/-- The operations that happen before message `id` of a group. -/
def Mach.knows (m : Mach) (core slot uid id : Nat) : List Nat :=
  match m.findGroup core slot uid with
  | some g => g.knows id
  | none => []

/-- These operations happen before what the group does from message number `now` on. -/
def Group.learn (g : Group) (now : Nat) (ids : List Nat) : Group :=
  { g with eng := { g.eng with
      unsure := g.eng.unsure.filter (fun o => !ids.contains o.id)
      sure := g.eng.sure ++ ((ids.filter (fun i => !g.eng.sure.any (fun e => e.1 == i))).eraseDups.map (fun i => (i, now))) } }

/-- A chain of R320 reaches a group: what it knows grows. -/
def Mach.learn (m : Mach) (core slot uid : Nat) (ids : List Nat) : Mach :=
  if ids = [] then m else m.modUid core slot uid (fun g => g.learn m.nextUid ids)

/-- A scope of one group includes another (R292). -/
def scopeIncludes (scope : Nat) (core uid ctx block core' uid' ctx' block' : Nat) : Bool :=
  match scope with
  | 0 => core == core' && uid == uid'
  | 1 => clusterOf core == clusterOf core' && block == block'
  | 2 => clusterOf core == clusterOf core' && ctx == ctx'
  | _ => true

/-- A release at a scope, or a put's add, is performed at a word behind these operations. -/
def Mach.mark (m : Mach) (word : Loc) (core : Nat) (g : Group) (scope : Nat) (ids : List Nat) : Mach :=
  if ids = [] then m
  else
    let k : Mark := { word, core, uid := g.uid, ctx := g.id.ctx, block := g.id.block, scope, ids }
    { m with marks := k :: m.marks.filter (fun x => !(x.word == word && x.core == core && x.uid == g.uid && x.scope == scope)) }

/-- What happens before an acquire at a scope, or before a counter's word is found to be reached: what the releases and puts that it
meets have behind them (R319, R320). -/
def Mach.marksFor (m : Mach) (word : Loc) (core : Nat) (g : Group) (scope : Nat) : List Nat :=
  (m.marks.filter (fun x => x.word == word &&
    scopeIncludes x.scope x.core x.uid x.ctx x.block core g.uid g.id.ctx g.id.block &&
    scopeIncludes scope core g.uid g.id.ctx g.id.block x.core x.uid x.ctx x.block)).flatMap (·.ids)

/-- A group meets what has been performed at a word. -/
def Mach.meet (m : Mach) (word : Loc) (core slot uid scope : Nat) : Mach :=
  match m.findGroup core slot uid with
  | some g => m.learn core slot uid (m.marksFor word core g scope)
  | none => m

/-! ### Performance counters (R159) and the device event log (R440) -/

/-- Counter i of a core rises by n, modulo 2^48. -/
def Core.bump (c : Core) (i n : Nat) : Core :=
  { c with perf := c.perf.set i (c.perf.getD i 0 + BitVec.ofNat 48 n) }

/-- The classes of group that an event select admits (R159). -/
def selectAdmits (sel : BitVec 16) (code : Nat) (id : Ident) : Bool :=
  sel.toNat % 256 == code && (sel.toNat / 256) % 32 == 0 &&
  (if id.sup then sel.getLsbD 15 else if id.harvest then sel.getLsbD 14 else sel.getLsbD 13)

/-- Lanes of a core that a run stall holds (R29). -/
def Core.stalledLanes (c : Core) : Nat := (c.lanes.filter (fun e => e.2.stalled)).length

/-- Cycles from the core's time to t in which no instruction occupies a lane, over the 128 lanes (R159). -/
def Core.idleCycles (c : Core) (t : Nat) : Nat :=
  (List.range 128).foldl (fun n i =>
    let l := c.lanes.getD i {}
    if l.issuing.isSome then n else n + (t - max c.cycle l.busyUntil)) 0

/-- An event select that counts lane-idle cycles, which are no group's: some class is admitted (R159). -/
def idleSelect (sel : BitVec 16) : Bool :=
  sel.toNat % 256 == 4 && (sel.toNat / 256) % 32 == 0 && sel.toNat / 8192 != 0

/-- Lane-idle cycles up to cycle t are counted (R159). -/
def Core.countIdle (c : Core) (t : Nat) : Core :=
  c.select.foldl (fun c' e => if idleSelect e.2 then c'.bump e.1 (c.idleCycles t) else c') c

/-- The sums of the router's congestion counts over the cycles of the interval up to cycle t (R158). -/
def Core.meshSums (c : Core) (t : Nat) : SMap Nat :=
  let b := 64 * (c.interval + 1)
  let n := min t b - min c.cycle b
  c.congestion.foldl (fun s e => s.set e.1 (s.getD e.1 0 + e.2.toNat * n)) c.meshSum

/-- Time passes on a core, up to cycle t: each cycle of each stalled lane counts in counter 0 (R29), lane-idle cycles count where they
are selected (R159), and the congestion counts are summed (R158). -/
def Core.advance (c : Core) (t : Nat) : Core :=
  if t ≤ c.cycle then c
  else
    let c' := c.countIdle t
    let c' := if c.stalledLanes = 0 then c' else c'.bump 0 ((t - c.cycle) * c.stalledLanes)
    { c' with cycle := t, meshSum := c.meshSums t }

/-- Every counter of the core whose select names this event of this group's class rises by n. -/
def Core.count (c : Core) (code n : Nat) (id : Ident) : Core :=
  c.select.foldl (fun c e => if selectAdmits e.2 code id then c.bump e.1 n else c) c

/-- Post a record to the device event log (R440): dropped and counted when the ring is full, and a signal when TAIL
leaves HEAD. -/
def Mach.postEvent (m : Mach) (kind source cycle data : Nat) : Mach :=
  let l := m.log
  if l.tail - l.head = 2046#64 then
    { m with log := { l with lost := if l.lost = BitVec.allOnes 64 then l.lost else l.lost + 1 } }
  else
    { m with log := { l with
        records := l.records ++ [{ kind, source, seq := l.tail.setWidth 32, cycle, data }]
        tail := l.tail + 1
        signals := if l.tail = l.head then l.signals + 1 else l.signals } }

/-! ### The mailbox and the stop list (R120, R121) -/

/-- The record a stop leaves (R120). -/
def stopRecord (g : Group) (slot kind code : Nat) (pc addr : Va) (vfirst vcount : Nat) : MboxRec :=
  { kw := [g.readK 0, g.readK 1, g.readK 2, g.readK 3], pc, addr, amask := g.amask, code, seq := 0, slot,
    ctx := g.id.ctx, vfirst, vcount, kind, taken := false }

/-- A stop is recorded before another: it is older, or as old and of a lower slot (R121). -/
def StopWait.before (a b : StopWait) : Bool := a.cycle < b.cycle || (a.cycle == b.cycle && a.slot < b.slot)

/-- Record the group that has waited longest, ties to the lower slot, while an entry is FREE (R121). -/
def Core.fillMailbox (c : Core) : Core :=
  match c.stopList with
  | [] => c
  | w :: ws =>
    match SMap.freeKey c.mbox 16 with
    | none => c
    | some e =>
      let x := ws.foldl (fun x y => if y.before x then y else x) w
      { c with
        mbox := c.mbox.set e { x.record with seq := c.mseq }
        mseq := c.mseq + 1
        stopList := (w :: ws).erase x }

/-- Put a stop on the stop list and write its record if an entry is FREE. -/
def Core.postStop (c : Core) (r : MboxRec) : Core :=
  Core.fillMailbox { c with stopList := c.stopList ++ [{ slot := r.slot, cycle := c.cycle, record := r }] }

/-- Free a group's mailbox entry and stop-list bit, then record the next (R121). -/
def Core.freeMailbox (c : Core) (slot : Nat) : Core :=
  Core.fillMailbox { c with
      mbox := c.mbox.filter (fun e => !(e.2.slot == slot))
      stopList := c.stopList.filter (fun w => !(w.slot == slot)) }

/-! ### Taking a fault and returning from one -/

/-- The group is critical with allowance left (R45, R349). -/
def Group.critical (g : Group) : Bool := g.crit && g.callow != 0

/-- The lane of a stopped group chooses anew (R31). -/
def Core.releaseLane (c : Core) (slot : Nat) : Core :=
  c.modLane (laneOf slot) (fun l =>
    if l.issuing = some slot then { l with issuing := none, held := false, stalled := false } else l)

/-- Stop a group: STOPPED with a cause and a code; a stop ends its run (R31, R361). R69 calls FCODE the code of the last stop and
names fault entry alone as its writer; here a stop without a fault code leaves FCODE 0 (DEDUCED, log 84). -/
def Group.stop (g : Group) (cause : Cause) (code : Option Code) : Group :=
  { g with state := .stopped, cause, fcode := code, runCount := 0 }

/-- TAKING A PRECISE FAULT (R31, R361, R365). The group goes to STOPPED with CAUSE 1 and its FCODE, its program counter
at the faulting word, and one mailbox record of KIND 1 is written; a fault of the supervisor group writes no record and
posts a core event instead. Everything else of the group stays. -/
def Mach.takeFault (m : Mach) (core slot : Nat) (code : Code) (addr : Va) : Mach :=
  match m.group? core slot with
  | none => m
  | some g =>
    let c := ((m.core core).releaseLane slot)
    let m := m.setCore core c
    let g' := g.stop .fault (some code)
    let m := m.setGroup core slot g'
    if g.id.sup then
      m.postEvent 1 core c.cycle (g.pc.toNat + addr.toNat * 2 ^ 64 + code.num * 2 ^ 120)
    else
      m.modCore core (fun c => c.postStop (stopRecord g slot 1 code.num g.pc addr 0 0))

/-- The supervisor group that consumes an uncorrectable datum stops as for a fault, with FCODE 0 in its event (R365). -/
def Mach.stopSupervisor (m : Mach) (core : Nat) (addr : Va) : Mach :=
  match m.group? core Config.supSlot with
  | none => m
  | some g =>
    let c := (m.core core).releaseLane Config.supSlot
    let m := (m.setCore core c).setGroup core Config.supSlot (g.stop .fault none)
    m.postEvent 1 core c.cycle (g.pc.toNat + addr.toNat * 2 ^ 64)

/-- A group that leaves STOPPED is READY, its run begins anew (R362) and its cause is cleared; the scoreboard bits that
a violation left set clear (R375). A harvest group whose registers are in the reserve bank, or on their way there,
goes to PARKED (R357), and a violation found meanwhile stops it again before any run (R230): see `Mach.atBoundary`. -/
def Group.resume (g : Group) : Group :=
  { g with
      state := if g.inReserve || g.parking then .parked else .ready
      cause := .none
      runCount := 0
      sb := g.sb &&& ~~~g.freezeBits
      freezeBits := 0 }

/-- LEASELOST in a harvest group with a recovery entry resumes there, with k15 naming the faulting word (R364). -/
def Group.recover (g : Group) : Group :=
  if g.cause == .fault && g.id.harvest && g.id.recov != 0 && g.fcode == some .leaselost then
    { g.setK 15 (BitVec.ofNat 32 (g.pc - g.id.entry).toNat) with pc := g.id.recov }
  else g

/-! ### Run boundaries: GSTOP marks and violation freezes (R230, R310) -/

/-- The replay of this group's translation has failed for good (R78, R312): the address, and whether it is the word of an implicit
step (R436). -/
def Group.xlatFailed (g : Group) : Option (Va × Bool) :=
  match g.wait with | some (.xlat _ va true implicit) => some (va, implicit) | _ => none

/-- A precise fault that the group has still to take (R281). -/
def Group.owed (g : Group) : Option Code := match g.wait with | some (.owed code) => some code | _ => none

/-- A group stops for a GSTOP (R310): its wait stays registered. -/
def Mach.stopGroup (m : Mach) (core slot : Nat) (g : Group) : Mach :=
  ((m.setGroup core slot { g.stop .gstop none with stopMark := false }).modCore core (fun c =>
    (c.releaseLane slot).postStop (stopRecord g slot 2 0 g.pc 0 0 0)))

/-- What a READY group does before it may issue again: an access that can never be translated raises its fault (R312), or leaves an
implicit step out (R436), also of a group that waits for it on its lane; a fault owed by a latch is taken (R281); at a run boundary a violation found stops it with
CAUSE 4 and a record (R230, R374), and a GSTOP mark with CAUSE 3 and a KIND 2 record (R310). -/
def Mach.atBoundary (m : Mach) (core slot : Nat) : Mach :=
  match m.group? core slot with
  | none => m
  | some g =>
    if (g.state != .ready && !(g.state == .issuing && g.xlatFailed.isSome)) || g.atSafe then m
    else match g.xlatFailed with
      | some (_, true) => m.setGroup core slot { g with wait := none, skipImplicit := true }
      | some (va, false) => (m.setGroup core slot { g with wait := none }).takeFault core slot .access va
      | none => match g.owed with
        | some code => (m.setGroup core slot { g with wait := none }).takeFault core slot code 0
        | none =>
        if g.runCount != 0 then m
        else match g.freeze with
          | some code =>
            let g' := { g.stop .freeze (some code) with freeze := none }
            let m := m.setGroup core slot g'
            if g.id.sup then m.postEvent 1 core (m.core core).cycle (g.pc.toNat + code.num * 2 ^ 120)
            else m.modCore core (fun c => c.postStop (stopRecord g slot 1 code.num g.pc 0 0 0))
          | none => if g.stopMark then m.stopGroup core slot g else m

/-! ### Issue -/

/-- Why a body did not complete: a precise fault with its address, the consumption of an uncorrectable datum (R369) by an access of
a kind (R122), a
precise violation freeze (R244), a translation fault that waits and is replayed (R78) with the access it belongs to, a write to
host memory that finds the host-write reserve full (R106), or a condition outside the group for which the instruction is held and
tried again. -/
inductive Trap where
  | fault (c : Code) (addr : Va)
  | kill (addr : Va) (acc : Nat := 0)
  | freeze (c : Code) (addr : Va)
  | xlat (va : Va) (acc level : Nat) (implicit : Bool := false)
  | noRoom
  | retry
  deriving DecidableEq, Repr

/-- One access of n bytes at a through a span, with one permission (R60): the precise fault and its ADDR (R363). -/
def Span.check (s : Span) (a n perm : Nat) : Option Trap :=
  if !s.valid || a < s.base.toNat then some (.fault .span (BitVec.ofNat 56 a))
  else if s.limit.toNat < a + n then some (.fault .span (BitVec.ofNat 56 (max a s.limit.toNat)))
  else if !s.perm.getLsbD perm then some (.fault .protect (BitVec.ofNat 56 a))
  else none

/-- The instruction being issued: its group, its fields, its address and its length. -/
structure Who where
  core : Nat
  slot : Nat
  f : Fields
  addr : Va
  len : Nat
  deriving DecidableEq, Repr

/-- What an instruction does once it has issued: the machine after it, or why it did not complete. -/
abbrev Body := Device → Who → Mach → Except Trap Mach

/-- The role of a group admits the class of an opcode (R39); a general group issues the copy and the vector classes. -/
def roleAdmits (r : Role) (c : RoleClass) : Bool :=
  match c with
  | .all => true
  | .copy => r == .copy || r == .general
  | .matrix => r == .matrix
  | .vector => r == .vector || r == .general

/-- The faults of the word that need no register's value or tag, in the order of R192: RUNLEN and the ILLEGAL rows whatever the
mask holds, then PRIV, ROLE and REGRANGE unless no thread is active (R193). ERET raises PRIV with an empty mask too (R195,
log 21). -/
def wordFault (g : Group) (f : Fields) : Option Code :=
  if Config.runLength ≤ g.runCount && !f.e then some .runlen
  else if (illFormed f).isSome then some .illegal
  else if (f.op == 0x0F || (supOnly f.op && g.amask != 0)) && !g.id.sup then some .priv
  else if g.amask == 0 then none
  else if !roleAdmits g.id.role (roleClass f.op) then some .role
  else if !rangeOk f g.valloc then some .regrange
  else none

/-- FORMAT of the word (R180, R181, R192): its sources' tags as they are once no result is pending for them (R29). -/
def formatFault (g : Group) (f : Fields) : Bool := g.amask != 0 && !formatOk f g.tagV

/-- The words that read their sources in all 32 threads, active or not: row 5, VOTE.ANY, VOTE.ALL, BALLOT and MOVK (R196). -/
def crossLane (op : Nat) : Bool := op / 16 == 5 || [0x48, 0x49, 0x4A, 0x4C].contains op

/-- The threads that a word writes: its participants, which for SEL are all the active threads (R194). -/
def Group.writers (g : Group) (f : Fields) : List Nat := if f.op == 0x2F then g.active else g.participants f.g

/-- The threads in which a word reads its v registers (R194, R196). -/
def Group.readers (g : Group) (f : Fields) : List Nat := if crossLane f.op then List.range 32 else g.writers f

/-- A register, predicate or guard that the word reads holds a word with two errors (R85, R369). -/
def readsBad (g : Group) (f : Fields) : Bool :=
  g.bad.any (fun n =>
    let item := n / 32
    (readItems f).getLsbD item && (!groupLevel f.op || g.amask != 0) &&
      (48 ≤ item || g.amask == 0 || (g.readers f).contains (n % 32)))

/-- The accumulator slot that ACCRD, ACCWR, ACCST and ACCLD name in their block (R282): its scoreboard item. -/
def accItems (g : Group) (f : Fields) : BitVec 96 :=
  if f.op == 0xD6 || f.op == 0xD7 || f.op == 0xDB || f.op == 0xDE then
    itemBit (itemSlot ((g.reg f.fa 0).toNat % 16))
  else 0

/-- The registers at and above n that SHRINK waits for (R249). -/
def shrinkItems (f : Fields) : BitVec 96 :=
  if f.op == 0xAD then
    (List.range 47).foldl (fun acc r => if f.imm.toNat ≤ r then acc ||| itemBit r else acc) 0
  else 0

/-- The line register that PUT, ENQ and DEQ name in their block (R254, R304, R305): its scoreboard item. -/
def lineItems (g : Group) (f : Fields) : BitVec 96 :=
  let at' (i lo : Nat) : BitVec 96 := itemBit (itemLine (((g.regAt f.fa i 0).toNat >>> lo) % 8))
  if f.op == 0xBD then at' 3 8 else if f.op == 0xEC then at' 2 0 else if f.op == 0xED then at' 0 0 else 0

/-- The touch set of one word (R27). -/
def touchItems (g : Group) (f : Fields) : BitVec 96 :=
  readItems f ||| writeItems f ||| accItems g f ||| lineItems g f ||| shrinkItems f

/-- The word must wait for a pending result (R29), or for an ACQ, FENCE or REL of the group (R268, R323). -/
def stalls (g : Group) (f : Fields) : Bool :=
  (touchItems g f &&& g.sb) != 0 || (memoryRow f.op && (g.acqHold != 0 || g.relHold != 0))

/-- The word reads something that the previous instruction of the same group wrote on this lane (R15). -/
def depends (g : Group) (l : Lane) (f : Fields) : Bool :=
  l.prevUid == some g.uid && ((readItems f ||| lineItems g f) &&& l.prevWrites) != 0

/-- Cycles the word occupies its lane (R15 to R18, R195): one where no thread is active and the word is not a group-level one. -/
def occupancy (g : Group) (l : Lane) (f : Fields) : Nat :=
  let a := if f.u || groupLevel f.op then 1 else max 1 g.active.length
  if depends g l f && (g.amask != 0 || groupLevel f.op) then max 4 a else a

/-- The lane is held by a run stall from the cycle in which the word would have issued: each stalled cycle counts in counter 0
(R29, R159). -/
def Mach.runStall (m : Mach) (core slot : Nat) : Mach :=
  m.modCore core (fun c =>
    let c := c.advance (c.lane (laneOf slot)).busyUntil
    (c.modLane (laneOf slot) (fun l => { l with held := true, stalled := true })).advance (c.cycle + 1))

/-- The words at which a group reaches a safe point or a wait (R24, R28, R379). -/
def mayWait (op : Nat) : Bool := [0x0A, 0xAC, 0xBF, 0xC7, 0xC9, 0xCA, 0xCE, 0xD4, 0xEA].contains op

/-- The register words that participants of a word write hold good code words again (R85). -/
def Group.cleared (g : Group) (f : Fields) : List Nat :=
  g.bad.filter (fun n => !((writeItems f).getLsbD (n / 32) && (48 ≤ n / 32 || (g.writers f).contains (n % 32))))

/-- The word leaves the lane: time passes, the next program counter is set (R182), the run counts on or ends (R23). For the
dependence condition of R15 a word counts as having written every destination it names, also where no thread took part in it
(DESIGN CHOICE, log 85: R15 does not say). -/
def Mach.retire (m : Mach) (w : Who) (g : Group) : Mach :=
  let c := m.core w.core
  let ln := laneOf w.slot
  let l := c.lane ln
  let occ := occupancy g l w.f
  let start := max c.cycle l.busyUntil
  let l' : Lane := { l with
    busyUntil := start + occ
    prevWrites := writeItems w.f
    prevUid := some g.uid
    issuing := if w.f.e then none else l.issuing
    held := false
    stalled := false }
  let c := ((c.advance start).setLane ln l').count 2 1 g.id
  let c := if w.f.u || groupLevel w.f.op then c else c.count 3 occ g.id
  let g' : Group := { g with
    pc := w.addr + BitVec.ofNat 56 w.len
    runCount := if w.f.e then 0 else g.runCount + 1
    wait := none
    bad := g.cleared w.f
    testRuns := if mayWait w.f.op then 0 else g.testRuns
    state := if w.f.e then .ready else g.state }
  (m.setCore w.core c).setGroup w.core w.slot g'

/-- The word issues: its body runs on the retired machine, unless no thread is active and the word is not a group-level
one (R17, R18). -/
def runBody (b : Body) (d : Device) (w : Who) (g : Group) (m : Mach) : Except Trap Mach :=
  let m' := m.retire w g
  if g.amask == 0 && !groupLevel w.f.op then .ok m' else b d w m'

end Sys2Proof.Machine
end

