-- ==== Sys2Proof/Machine/Memory.lean ====
section
/-! DEFINITION. Memory as an access meets it: the map of device memory (R80), tagged ECC (R81 to R84), translation (R76 to
R78, R98), the fault queue (R122, R123), reads and writes performed at a place (R317) with their stale notices (R87) and
wakes (R134, R135, R256). -/

namespace Sys2Proof.Machine

/-! ### The map of R80 and the places of R384 -/

/-- The home slice of a physical address. -/
def sliceOf (p : Nat) : Nat :=
  let u := p >>> 10
  (u % 256) ^^^ ((u >>> 8) % 256) ^^^ ((u >>> 16) % 256)

/-- The sector number of a physical address within its pseudo-channel. -/
def sectorOf (p : Nat) : Nat :=
  let row := p >>> 18
  ((row / 5) * 1024 + p % 1024) >>> 5

/-- The pseudo-channel of a physical address within its die, and its stack. -/
def pseudoChannel (p : Nat) : Nat := 5 * (sliceOf p % 64) + (p >>> 18) % 5
def stackOf (p : Nat) : Nat := 2 * (sliceOf p >>> 6) + pseudoChannel p / 160

/-- The member whose bank holds a cluster-space byte, and its offset there (R96). -/
def bankMember (a : Nat) : Nat := (a >>> 7) % 8
def bankOffset (a : Nat) : Nat := ((a >>> 10) <<< 7) ||| (a % 128)

/-- The place that performs a request: a slice, a bank, the host, a peer or the switches. -/
def Loc.place : Loc → Nat
  | .dram a => sliceOf a
  | .spad c a => 1000 + 8 * c + bankMember a
  | .host _ => 2000
  | .peer d _ => 3000 + d
  | .rwin _ => 5000

/-- The hub of a cluster, as a place. -/
def hubPlace (cluster : Nat) : Nat := 6000 + cluster

/-- The line of a location: its low seven address bits cleared. -/
def Loc.line : Loc → Loc
  | .dram a => .dram (a / 128 * 128)
  | .host a => .host (a / 128 * 128)
  | .peer d a => .peer d (a / 128 * 128)
  | .rwin a => .rwin (a / 128 * 128)
  | .spad c a => .spad c (a / 128 * 128)

/-- The byte offset of a location within its line. -/
def Loc.off : Loc → Nat
  | .dram a => a % 128
  | .host a => a % 128
  | .peer _ a => a % 128
  | .rwin a => a % 128
  | .spad _ a => a % 128

/-- The location n bytes further on. -/
def Loc.plus (l : Loc) (n : Nat) : Loc :=
  match l with
  | .dram a => .dram (a + n)
  | .host a => .host (a + n)
  | .peer d a => .peer d (a + n)
  | .rwin a => .rwin (a + n)
  | .spad c a => .spad c (a + n)

def Loc.isSpad : Loc → Bool
  | .spad _ _ => true
  | _ => false

/-! ### Tagged ECC (R81 to R84) -/

/-- Multiplication by α in GF(2^8) with polynomial 0x11D. -/
def gfDouble (x : Byte) : Byte := (x <<< 1) ^^^ (if x.getLsbD 7 then 0x1D#8 else 0)

/-- x times α^k. -/
def gfPow : Nat → Byte → Byte
  | 0, x => x
  | k + 1, x => gfPow k (gfDouble x)

/-- Syndrome S_j of an error given by its nonzero symbols. -/
def syndrome (err : List (Nat × Byte)) (j : Nat) : Byte :=
  err.foldl (fun s e => s ^^^ gfPow ((e.1 * j) % 255) e.2) 0

/-- The poison pattern (R84). -/
def poisonErr : List (Nat × Byte) := [(33, 0xFF), (34, 0xFF), (35, 0xFF)]

/-- The classes of R83. -/
inductive SecClass where
  | clean | poisoned | corrected | tagMismatch | uncorrectable
  deriving DecidableEq, Repr

/-- The position of a single-symbol error with these syndromes, if they are of that form. -/
def singlePos (s0 s1 s2 s3 : Byte) : Option Nat :=
  if s0 = 0 then none
  else (List.range 40).find? (fun i => gfPow i s0 == s1 && gfPow i s1 == s2 && gfPow i s2 == s3)

/-- How a read classes a sector whose code word carries this error (R83). -/
def classify (err : List (Nat × Byte)) : SecClass :=
  let s0 := syndrome err 0
  let s1 := syndrome err 1
  let s2 := syndrome err 2
  let s3 := syndrome err 3
  if s0 = 0 && s1 = 0 && s2 = 0 && s3 = 0 then .clean
  else if s0 = syndrome poisonErr 0 && s1 = syndrome poisonErr 1 && s2 = syndrome poisonErr 2 &&
    s3 = syndrome poisonErr 3 then .poisoned
  else match singlePos s0 s1 s2 s3 with
    | some i => if i < 36 then .corrected else if i = 36 then .tagMismatch else .uncorrectable
    | none => .uncorrectable

def SecClass.bad : SecClass → Bool
  | .poisoned => true
  | .uncorrectable => true
  | _ => false

/-- A byte of device memory lies in the save area of a context that is not FREE (R101, R389). -/
def Mach.inSaveArea (m : Mach) (a : Nat) : Bool :=
  m.ctxs.any (fun e => e.2.state != .free && e.2.sabase ≤ a && a < e.2.sabase + e.2.sasize * 1048576)

/-- The tag of a line of device memory (R82): the device's own tag 0xF in a save area (R101). -/
def Mach.lineTag (m : Mach) (a : Nat) : FTag := if m.inSaveArea a then 15 else m.tags.getD (a / 128) 0

/-- The class of the sector at a under a reader's tag; with no tag the line's own is used (R436). -/
def Mach.secClass (m : Mach) (a : Nat) (tag : Option FTag) : SecClass :=
  let err := m.ecc.getD (a / 32) []
  let diff : FTag := match tag with | none => 0 | some t => t ^^^ m.lineTag a
  if err.isEmpty && diff == 0 then .clean
  else classify (if diff == 0 then err else (36, diff.setWidth 8) :: err)

/-! ### The fault queue (R122, R123) -/

/-- Unpopped entries of a context's fault queue. -/
def Ctx.fqUsed (c : Ctx) : Nat := (c.fqtail - c.fqhead).toNat

def satInc (x : Word) : Word := if x = BitVec.allOnes 32 then x else x + 1

/-- Whether a new occurrence merges into an entry (R122). -/
def FqEntry.merges (e n : FqEntry) : Bool :=
  e.kind == n.kind && ((n.kind == 1 && e.vaddr / 65536 == n.vaddr / 65536) || (n.kind == 4 && e.aux / 32 == n.aux / 32))

/-- Merge into the first entry that takes the occurrence. -/
def mergeFq (n : FqEntry) : List FqEntry → Option (List FqEntry)
  | [] => none
  | e :: es =>
    if e.merges n then some ({ e with count := satInc e.count, tokens := e.tokens ++ n.tokens } :: es)
    else (mergeFq n es).map (e :: ·)

/-- Post one occurrence (R123): merged, appended while the ring has room, left unposted when it is a translation fault,
dropped and counted otherwise. -/
def Ctx.post (c : Ctx) (n : FqEntry) : Ctx :=
  match mergeFq n c.fq with
  | some fq => { c with fq }
  | none =>
    if c.fqUsed < 2 ^ c.fqsize then
      { c with fq := c.fq ++ [{ n with seq := c.fqseq }], fqtail := c.fqtail + 1, fqseq := c.fqseq + 1 }
    else if n.kind = 1 then { c with unposted := c.unposted ++ [n] }
    else { c with fqlost := satInc c.fqlost }

/-- Post the unposted translation faults, in order, while there is room (R123). -/
def Ctx.postWaiting (c : Ctx) : Ctx :=
  let u := c.unposted
  u.foldl (fun c n => c.post n) { c with unposted := [] }

/-- Post to the fault queue of a context; the supervisor group belongs to none (R434). -/
def Mach.postFq (m : Mach) (ctx kind acc vaddr aux : Nat) (core : Nat) (slot : Option Nat) (tokens : List Nat) : Mach :=
  if ctx = 0xFFFF then m
  else m.modCtx ctx (fun c => c.post
    { vaddr, aux, count := 1, slot, pcore := core, kind, acc, seq := 0, tokens })

/-! ### Translation (R76 to R78) -/

/-- A doubleword of device memory. -/
def Mach.dram64 (m : Mach) (a : Nat) : Nat := leNat (m.dram.readBytes a 8)

/-- The result of a walk. -/
inductive Walk where
  | leaf (l : Leaf)
  | fault (level : Nat)
  deriving DecidableEq, Repr

/-- A page-table entry as a leaf (R77). -/
def leafOf (e : Nat) (big : Bool) : Leaf :=
  { frame := bitsOf e 16 36, big, mig := e.testBit 11, aplace := bitsOf e 9 2, x := e.testBit 7, a := e.testBit 6,
    w := e.testBit 5, rd := e.testBit 4, target := bitsOf e 2 2, peer := bitsOf e 52 10 }

/-- A leaf entry breaks a row of R78. -/
def leafBad (e : Nat) (level : Nat) : Bool :=
  bitsOf e 62 2 != 0 || bitsOf e 12 4 != 0 || bitsOf e 8 1 != 0 ||
  (bitsOf e 2 2 != 2 && bitsOf e 52 10 != 0) || (level == 3 && bitsOf e 16 10 != 0) || bitsOf e 9 2 == 3

/-- The walk from the table at physical address t at this level (R77, R78). -/
def walkFrom (m : Mach) (va : Nat) : Nat → Nat → Nat → Walk
  | 0, level, _ => .fault level
  | n + 1, level, t =>
    let e := m.dram64 (t + 8 * bitsOf va (16 + 10 * n) 10)
    if !e.testBit 0 then .fault level
    else if e.testBit 1 then
      if level < 3 || leafBad e level then .fault level
      else
        let l := leafOf e (level == 3)
        let pa := l.frame * 65536 + (if level == 3 then va % 67108864 else va % 65536)
        if l.target == 0 && Config.dramBytes ≤ pa then .fault level else .leaf l
    else if level == 4 || bitsOf e 62 2 != 0 || bitsOf e 52 10 != 0 || bitsOf e 4 9 != 0 then .fault level
    else walkFrom m va n (level + 1) (bitsOf e 13 39 * 8192)

/-- The leaf of a page, from the walker's cache or by a walk (R77, log 15). -/
def Mach.walk (m : Mach) (ctx : Nat) (va : Va) : Mach × Walk :=
  let page := va.toNat / 65536
  match m.walker.find? (fun e => e.ctx == ctx && e.page == page) with
  | some e => (m, .leaf e.leaf)
  | none =>
    match walkFrom m va.toNat 4 1 (m.ctx ctx).ptroot with
    | .leaf l => ({ m with walker := { ctx, page, leaf := l } :: m.walker }, .leaf l)
    | w => (m, w)

/-- The location a leaf gives an address. -/
def Leaf.loc (l : Leaf) (va : Va) : Loc :=
  let a := l.frame * 65536 + (if l.big then va.toNat % 67108864 else va.toNat % 65536)
  match l.target with
  | 0 => .dram a
  | 1 => .host a
  | 2 => .peer l.peer a
  | _ => .rwin a

/-- The leaf the supervisor group sees: physical addresses of device memory with every permission (log 5). -/
def supLeaf (va : Va) : Leaf :=
  { frame := va.toNat / 65536, big := false, mig := false, aplace := 0, x := true, a := true, w := true, rd := true,
    target := 0, peer := 0 }

/-- An address lies in the range of the two scratchpad windows (R98). -/
def inWindows (va : Va) : Bool := Config.peerWindow ≤ va.toNat

/-- Byte o of a block's allocation as a cluster-space address, with the page's entry (R97). -/
def blockByte (k : Cluster) (b : Block) (o : Nat) : Option (Nat × Page) :=
  match b.pages[o / Config.pageBytes]? with
  | none => none
  | some p => some (p * Config.pageBytes + o % Config.pageBytes, k.pages.getD p {})

/-- A block reaches a page of its allocation: an owner block while it has not lent the page (R98), a harvest block while
the page is lent to it (R345, R250). -/
def Page.reach (p : Page) (b : Block) (bid : Nat) : Bool :=
  if b.harvest then p.state == .lent && p.lentTo == some bid else p.state != .lent

/-- The scratchpad location of a window address for a group of a block (R98): none raises ACCESS. `lent` is a copy's
delivery, which goes into a lent page too (R250). -/
def Mach.windowLoc (m : Mach) (core : Nat) (g : Group) (va : Va) (lent : Bool := false) : Option Loc :=
  let cl := clusterOf core
  let k := m.cluster cl
  match m.block? core g with
  | none => none
  | some b =>
    let a := va.toNat
    if Config.localWindow ≤ a then
      match blockByte k b (a - Config.localWindow) with
      | some (x, p) => if lent || p.reach b g.id.block then some (.spad cl x) else none
      | none => none
    else if g.id.clev = 0 then none
    else
      let gi := (a - Config.peerWindow) / 16777216
      let o := a % 16777216
      match k.blocks.find? (fun e => e.2.launch == b.launch && e.2.unit == b.unit && e.2.inUnit == gi &&
          e.2.copyIndex == b.copyIndex) with
      | none => none
      | some (bid', b') =>
        match blockByte k b' o with
        | some (x, p) => if lent || p.reach b' bid' then some (.spad cl x) else none
        | none => none

/-- What translating an address gives: a location with its leaf, a translation fault, no permission or no such place
(ACCESS), or a page that is migrating (R79). -/
inductive Xlate where
  | ok (loc : Loc) (leaf : Leaf)
  | fault (level : Nat)
  | access
  | migrating
  deriving DecidableEq, Repr

/-- A reduction-window page lies in an entry whose STATE is 1 (R398): n bytes of the fabric address space from a on. -/
def Mach.windowOn (m : Mach) (a n : Nat) : Bool :=
  m.windows.any (fun e => e.2.state == 1 && e.2.base ≤ a && a + n ≤ e.2.base + e.2.size)

/-- The page that a leaf maps: its first address and its size (R77). -/
def Leaf.page (l : Leaf) : Nat × Nat := (l.frame * 65536, if l.big then 67108864 else 65536)

/-- Translate an address of a group (R76 to R78, R98, R398, R434). -/
def Mach.translate (m : Mach) (core : Nat) (g : Group) (va : Va) (lent : Bool := false) : Mach × Xlate :=
  if inWindows va then
    match m.windowLoc core g va lent with
    | some l => (m, .ok l (supLeaf va))
    | none => (m, .access)
  else if g.id.sup then
    (m, if va.toNat < Config.dramBytes then .ok (.dram va.toNat) (supLeaf va) else .access)
  else
    match m.walk g.id.ctx va with
    | (m, .fault level) => (m, .fault level)
    | (m, .leaf l) =>
      if l.mig then (m, .migrating)
      else if l.target == 3 && !m.windowOn l.page.1 l.page.2 then (m, .access)
      else (m, .ok (l.loc va) l)

/-! ### Bytes at their places -/

/-- A scratchpad byte; one that nothing has written since its page was placed is undefined (R99, log 7). -/
def Cluster.spadByte (k : Cluster) (a : Nat) : Byte :=
  match k.spad.get? a with
  | some b => b
  | none => Config.freeScratch (k.pages.getD (a / Config.pageBytes) {}).epoch a

/-- The byte at a location. -/
def Mach.byteAt (m : Mach) : Loc → Byte
  | .dram a => m.dram.read a
  | .host a => m.hostMem.read a
  | .peer d a => (m.peers.getD d []).read a
  | .rwin a => m.fabric.read a
  | .spad c a => (m.cluster c).spadByte a

/-- n bytes from a location on. -/
def Mach.bytesAt (m : Mach) (l : Loc) (n : Nat) : List Byte := (List.range n).map (fun i => m.byteAt (l.plus i))

/-- The byte stored at a location. -/
def Mach.putByte (m : Mach) (l : Loc) (b : Byte) : Mach :=
  match l with
  | .dram a => { m with dram := m.dram.write a b }
  | .host a => { m with hostMem := m.hostMem.write a b }
  | .peer d a => { m with peers := m.peers.set d ((m.peers.getD d []).write a b) }
  | .rwin a => { m with fabric := m.fabric.write a b }
  | .spad c a => m.modCluster c (fun k => { k with spad := k.spad.set a b })

def Mach.putBytes (m : Mach) (l : Loc) : List Byte → Mach
  | [] => m
  | b :: bs => (m.putByte l b).putBytes (l.plus 1) bs

/-- The tag of a line of a peer's memory (R83, R397). -/
def Mach.peerTag (m : Mach) (d a : Nat) : FTag := (m.peerTags.getD d []).getD (a / 128) 0

/-- The class of a sector of a peer's memory under a reader's tag: the peer checks as the device does (R83, R397). -/
def Mach.peerClass (m : Mach) (d a : Nat) (tag : Option FTag) : SecClass :=
  let err := (m.peerEcc.getD d []).getD (a / 32) []
  let diff : FTag := match tag with | none => 0 | some t => t ^^^ m.peerTag d a
  if err.isEmpty && diff == 0 then .clean
  else classify (if diff == 0 then err else (36, diff.setWidth 8) :: err)

/-- The class of the sector or word that holds a location, under a reader's tag. Host pages carry no tags and no model of
ECC (R83); a scratchpad word is good or uncorrectable (R85); a peer checks its own memory (R397). -/
def Mach.classAt (m : Mach) (l : Loc) (tag : Option FTag) : SecClass :=
  match l with
  | .dram a => m.secClass a tag
  | .spad c a => if (m.cluster c).spadBad.contains (a / 4) then .uncorrectable else .clean
  | .peer d a => m.peerClass d a tag
  | _ => .clean

/-- Some byte of a range lies in a sector or word of a class. -/
def Mach.anyClass (m : Mach) (l : Loc) (n : Nat) (tag : Option FTag) (p : SecClass → Bool) : Bool :=
  (List.range n).any (fun i => p (m.classAt (l.plus i) tag))

/-! ### Masks of a line, and host memory -/

/-- The offsets of a mask. -/
def maskOffsets (mask : BitVec 128) : List Nat := (List.range 128).filter (fun i => mask.getLsbD i)

/-- The mask of n bytes from offset o. -/
def rangeMask (o n : Nat) : BitVec 128 := BitVec.ofNat 128 ((2 ^ n - 1) <<< o)

/-! ### Waking (R134, R135, R256) -/

/-- A waiting group's WAITW returns OK: its status is written, LSTS set, and it is eligible again (R28, R302). -/
def Group.finishWait (g : Group) (ks : RegField) (st : Status) : Group :=
  { applyWrites g (writeField ks 0 st.word ++ [.lsts st]) with wait := none }

/-- The 32-bit word at a location. -/
def Mach.word32 (m : Mach) (l : Loc) : Word := BitVec.ofNat 32 (leNat (m.bytesAt l 4))

/-- CWAIT's test: reached, modulo 2^32 (R256). -/
def reached (word target : Word) : Bool := !(word - target).msb

/-- A host byte as the device knows it: while the link is down, the context's reserve holds what it has written (R377). -/
def Mach.hostByte (m : Mach) (ctx a : Nat) : Byte :=
  let hit (r : Reserve) : Bool := r.line == a / 128 * 128 && r.mask.getLsbD (a % 128)
  match (m.ctx ctx).reserve.reverse.find? hit with
  | some r => r.data.getD (a % 128) 0
  | none => m.hostMem.read a

/-- A context's host-write reserve is full (R106). -/
def Mach.reserveFull (m : Mach) (ctx : Nat) : Bool := Config.reserveRecords ≤ (m.ctx ctx).reserve.length

/-- A write of a context to this place has no room: the link is down and the reserve is full (R106, R377). -/
def Mach.noRoom (m : Mach) (ctx : Nat) (l : Loc) : Bool :=
  m.linkDown && m.reserveFull ctx && (match l with | .host _ => true | _ => false)

/-- The first write since the last drain that finds the reserve full posts a kind-8 entry (R106, R122, R377). -/
def Mach.reserveStall (m : Mach) (ctx core : Nat) (slot : Option Nat) : Mach :=
  if (m.ctx ctx).reserveStalled then m
  else (m.modCtx ctx (fun c => { c with reserveStalled := true })).postFq ctx 8 1 0 0 core slot []

/-- A masked write of one line of host memory by a context: while the link is down it goes to the host-write reserve
(R106, R377). -/
def Mach.hostStore (m : Mach) (ctx line : Nat) (mask : BitVec 128) (data : SMap Byte) : Mach :=
  if m.linkDown then
    m.modCtx ctx (fun c => { c with
      reserve := c.reserve ++ [{ line, mask, data, seq := c.reserveSeq }], reserveSeq := c.reserveSeq + 1 })
  else
    (maskOffsets mask).foldl (fun m o => { m with hostMem := m.hostMem.write (line + o) (data.getD o 0) }) m

/-- Wake one waiter of an entry: a host waiter's wake line counts (R135, R392), once the reserve has room (R106), a WAITW ends, a CWAIT
reads its word, which is at `loc`, again and goes on polling when it is not done. A wake line at or past WLCOUNT lies outside the array: nothing is stored
for it (DEDUCED, log 72). -/
def Mach.wakeWaiter (m : Mach) (ctx : Nat) (loc : Loc) (word : Word) (w : Waiter) : Mach :=
  match w.host with
  | some line =>
    if (m.ctx ctx).wlcount ≤ line then m else
    let a := (m.ctx ctx).wlbase + 64 * line
    let n := leNat ((List.range 8).map (fun i => m.hostByte ctx (a + i))) + 1
    let o := a % 128
    if m.linkDown && m.reserveFull ctx then
      { m with jobs := m.jobs ++ [{ ctx, queue := none, token := none, steps := [.line a] }] }
    else m.hostStore ctx (a - o) (rangeMask o 8) ((leBytes 8 n).mapIdx (fun i b => (o + i, b)))
  | none =>
    let met := match m.findGroup w.core w.slot w.uid with
      | some g => (match g.wait with
        | some (.cwait _ t _ _ _) => reached word t
        | _ => false)
      | none => false
    (if met then m.meet loc w.core w.slot w.uid 5 else m).modUid w.core w.slot w.uid (fun g => match g.wait with
      | some (.waitw _ ks) => g.finishWait ks .ok
      | some (.cwait a t tag _ n) =>
        if reached word t then { g with wait := none } else { g with wait := some (.cwait a t tag false n) }
      | _ => g)

/-- Wake every waiter of the entry with this key, and free it. -/
def Mach.wakeEntry (m : Mach) (key : Nat) : Mach :=
  match m.waitTab.get? key with
  | none => m
  | some e =>
    let m' := e.waiters.foldl (fun m w => m.wakeWaiter e.ctx e.loc (m.word32 e.loc) w) m
    { m' with waitTab := m'.waitTab.erase key }

/-- After writes at these locations' line: every entry whose word differs from ARMV wakes (R134), and every hub watch
whose word is reached ends its wait (R256). -/
def Mach.wakeLine (m : Mach) (line : Loc) : Mach :=
  let keys := (m.waitTab.filter (fun e => e.2.loc.line == line && m.word32 e.2.loc != e.2.armv)).map (·.1)
  let m := keys.foldl Mach.wakeEntry m
  match line with
  | .spad c _ =>
    let ws := (m.cluster c).watches.filter (fun w => (Loc.spad c w.addr).line == line)
    ws.foldl (fun m w =>
      match m.findGroup w.core w.slot w.uid with
      | some g => match g.wait with
        | some (.cwait _ t _ _ _) =>
          if reached (m.word32 (.spad c w.addr)) t then
            ((m.meet (.spad c w.addr) w.core w.slot w.uid 5).modUid w.core w.slot w.uid (fun g => { g with wait := none })).modCluster c
              (fun k => { k with watches := k.watches.filter (fun x => !(x == w)) })
          else m
        | _ => m
      | none => m) m
  | _ => m

/-! ### Messages -/

/-- Message n is taken out of the list. -/
def Mach.takeMsg (m : Mach) (n : Nat) : Mach := { m with msgs := m.msgs.eraseIdx n }

/-- Message n goes on in its place, as x. -/
def Mach.keepMsg (m : Mach) (n : Nat) (x : Msg) : Mach := { m with msgs := m.msgs.set n x }

/-- Send a message, from the group's own core or from the place `src`. -/
def Mach.send (m : Mach) (core slot uid place due : Nat) (held : Bool) (body : MsgBody) (src : Option Nat := none) : Mach :=
  { m with msgs := m.msgs ++ [{ id := m.nextUid, core, slot, uid, place, due, held, body, src }], nextUid := m.nextUid + 1 }

/-- The result of an operation of a group, from its own core or from the place that performed it. -/
def Mach.sendResult (m : Mach) (core slot uid : Nat) (delay : Nat) (writes : List RegWrite) (clears : BitVec 96)
    (wake : Bool) (src : Option Nat := none) : Mach :=
  m.send core slot uid (9000 + core) ((m.core core).cycle + delay) false (.result writes clears wake) src

/-- The accumulator memory of a core, as a place: what it answers, the results of ACCRD and ACCLD, an arrival of the group at its hub
waits for (R429). -/
def accPlace (core : Nat) : Nat := 10000 + core

/-- A placement opportunity (R340). -/
def Mach.opportunity (m : Mach) : Mach := { m with chance := true }

/-- The cores that hold a frame of a line. -/
def Mach.holders (m : Mach) (line : Loc) : List Nat :=
  (m.cores.filter (fun e => e.2.frames.any (fun f => f.2.line == line && f.2.state != .free))).map (·.1)

/-- Send stale notices of a line to every core that holds it, except one (R87, R325). -/
def Mach.notices (m : Mach) (line : Loc) (except : Option Nat) : Mach :=
  ((m.holders line).filter (fun c => some c != except)).foldl
    (fun m c => m.send c 0 0 (9000 + c) 0 false (.stale line) (some line.place)) m

/-! ### Reads performed at a home (R83, R86) -/

/-- The group an event of a core belongs to, if it is one's. -/
def Core.countFor (c : Core) (slot : Option Nat) (code n : Nat) : Core :=
  match slot.bind c.groups.get? with
  | some g => c.count code n g.id
  | none => c.count code n { ctx := 0 }

/-- A corrected sector is logged (R83, R122, R159). An access of the host or of a peer belongs to no context, so that no fault queue takes
its entry, and to no core (DESIGN CHOICE, log 79). -/
def Mach.logCorrected (m : Mach) (a ctx core : Nat) (slot : Option Nat) (acc vaddr : Nat) : Mach :=
  if ctx = 0xFFFF then m
  else (m.postFq ctx 4 acc vaddr (a / 32 * 32) core slot []).modCore core (fun c => c.countFor slot 18 1)

/-- A sector of device memory is read, and logged when it is corrected. -/
def Mach.noteSector (m : Mach) (a : Nat) (tag : Option FTag) (ctx core : Nat) (slot : Option Nat) (acc vaddr : Nat) : Mach :=
  match m.secClass a tag with
  | .corrected => m.logCorrected a ctx core slot acc vaddr
  | _ => m

/-- The set of a slice's cache that a line falls in (DESIGN CHOICE, log 86: R86 gives the sizes and no index). -/
def cacheSet (line : Nat) : Nat := (line / 128 % 8 + 8 * (line >>> 18)) % 256

/-- A home slice caches a line under a tag: most recent first, 16 to a set (R86; the replacement is log 86's). -/
def Mach.cacheLine (m : Mach) (a : Nat) (tag : FTag) (ctx : Nat) : Mach :=
  let key := 256 * sliceOf a + cacheSet a
  let line := a / 128 * 128
  let old := (m.slices.getD key []).filter (fun e => e.line != line)
  { m with slices := m.slices.set key (({ line, tag, ctx } :: old).take 16) }

/-- A line in its home slice's cache. -/
def Mach.cached (m : Mach) (a : Nat) : Option CacheLine :=
  (m.slices.getD (256 * sliceOf a + cacheSet a) []).find? (fun e => e.line == a / 128 * 128)

/-- The tag that a home slice keeps with a cached line (R86). -/
def Mach.cachedTag (m : Mach) (a : Nat) : Option FTag := (m.cached a).map (·.tag)

/-- Bytes of one line are read at their home: corrected sectors are logged, and the slice keeps the line under the tag that has
decoded it clean (R83, R86). -/
def Mach.noteLine (m : Mach) (l : Loc) (n : Nat) (tag : Option FTag) (ctx core : Nat) (slot : Option Nat) (acc vaddr : Nat) : Mach :=
  match l with
  | .dram a =>
    let m := (List.range ((a % 32 + n + 31) / 32)).foldl (fun m i =>
      m.noteSector (a / 32 * 32 + 32 * i) tag ctx core slot acc (if i = 0 then vaddr else vaddr - a % 32 + 32 * i)) m
    if (List.range ((a % 32 + n + 31) / 32)).all (fun i => m.secClass (a / 32 * 32 + 32 * i) tag == .clean) then
      m.cacheLine a (tag.getD (m.lineTag a)) ctx
    else m
  | _ => m

/-- Consecutive bytes are read at their homes. -/
def Mach.noteRead (m : Mach) (l : Loc) (n : Nat) (tag : Option FTag) (ctx core : Nat) (slot : Option Nat) (acc vaddr : Nat) : Mach :=
  let o := l.off
  (List.range ((o + n + 127) / 128)).foldl (fun m i =>
    let s := if i = 0 then 0 else 128 * i - o
    m.noteLine (l.plus s) (min (n - s) (128 * (i + 1) - o - s)) tag ctx core slot acc (vaddr + s)) m

/-! ### Writes performed at a place -/

/-- The outcome of a write at a home: the machine, and whether some sector's tag disagreed (R83, R435). -/
structure Written where
  mach : Mach
  mismatch : Bool

/-- Write one sector of a line of device memory by mask (R84, R435). `ctx` takes the kind-3 and kind-4 entries, with the kind of
access and the line's virtual address where it has one (R122). -/
def writeSector (m : Mach) (line i : Nat) (mask : BitVec 128) (poison : Bool) (data : SMap Byte) (tag : Option FTag)
    (ctx core : Nat) (slot : Option Nat) (acc : Nat := 1) (va : Option Va := none) : Written :=
  let vaddr := match va with | some v => v.toNat + 32 * i | none => 0
  let offs := (List.range 32).map (· + 32 * i) |>.filter (fun o => mask.getLsbD o)
  if offs.isEmpty then ⟨m, false⟩
  else
    let a := line + 32 * i
    let whole := offs.length == 32
    let diff : FTag := match tag with | none => 0 | some t => t ^^^ m.lineTag a
    if diff != 0 then ⟨m, true⟩
    else
      let cls := if whole then .clean else m.secClass a none
      let m' := (offs.foldl (fun m o => { m with dram := m.dram.write (line + o) (data.getD o 0) }) m).cacheLine a (m.lineTag a) ctx
      if poison || cls.bad then
        let m' := { m' with ecc := m'.ecc.set (a / 32) poisonErr }
        ⟨m'.postFq ctx 3 acc vaddr a core slot [], false⟩
      else
        let m' := { m' with ecc := m'.ecc.erase (a / 32) }
        ⟨if cls = .corrected then m'.logCorrected a ctx core slot acc vaddr else m', false⟩

/-- A peer writes one sector of a line of its memory by mask (R84, R397, R435). -/
def peerSector (m : Mach) (d line i : Nat) (mask : BitVec 128) (poison : Bool) (data : SMap Byte) (tag : Option FTag) : Written :=
  let offs := (List.range 32).map (· + 32 * i) |>.filter (fun o => mask.getLsbD o)
  if offs.isEmpty then ⟨m, false⟩
  else
    let a := line + 32 * i
    if tag.any (· != m.peerTag d a) then ⟨m, true⟩
    else
      let bad := poison || (offs.length != 32 && (m.peerClass d a none).bad)
      let m' := offs.foldl (fun m o => m.putByte (.peer d (line + o)) (data.getD o 0)) m
      let ecc := m.peerEcc.getD d []
      ⟨{ m' with peerEcc := m'.peerEcc.set d (if bad then ecc.set (a / 32) poisonErr else ecc.erase (a / 32)) }, false⟩

/-- Perform a masked write of one line at its place: device memory and a peer's by sectors, scratchpad words made good where they are
written whole, other targets as bytes. Stale notices go to every other holder, and changed words wake (R87, R134). -/
def Mach.writeLine (m : Mach) (line : Loc) (mask : BitVec 128) (poison : BitVec 4) (data : SMap Byte)
    (tag : Option FTag) (ctx core : Nat) (slot : Option Nat) (except : Option Nat) (acc : Nat := 1) (va : Option Va := none) :
    Written :=
  match line with
  | .dram a =>
    let r := [0, 1, 2, 3].foldl (fun (r : Written) i =>
      let w := writeSector r.mach a i mask (poison.getLsbD i) data tag ctx core slot acc va
      ⟨w.mach, r.mismatch || w.mismatch⟩) ⟨m, false⟩
    ⟨(r.mach.notices line except).wakeLine line, r.mismatch⟩
  | .spad c a =>
    let offs := maskOffsets mask
    let m := offs.foldl (fun m o => m.putByte (line.plus o) (data.getD o 0)) m
    let words := (List.range 32).filter (fun wi => (List.range 4).all (fun b => mask.getLsbD (4 * wi + b)))
    let badWords := (List.range 32).filter (fun wi => poison.getLsbD (wi / 8) && mask.getLsbD (4 * wi))
    let m := m.modCluster c (fun k =>
      let good := k.spadBad.filter (fun x => !(words.any (fun wi => a / 4 + wi == x)))
      { k with spadBad := badWords.foldl (fun l wi => if l.contains (a / 4 + wi) then l else (a / 4 + wi) :: l) good })
    ⟨m.wakeLine line, false⟩
  | .host a => ⟨((m.hostStore ctx a mask data).notices line except).wakeLine line, false⟩
  | .peer d a =>
    let r := [0, 1, 2, 3].foldl (fun (r : Written) i =>
      let w := peerSector r.mach d a i mask (poison.getLsbD i) data tag
      ⟨w.mach, r.mismatch || w.mismatch⟩) ⟨m, false⟩
    ⟨(r.mach.notices line except).wakeLine line, r.mismatch⟩
  | .rwin _ =>
    let m := (maskOffsets mask).foldl (fun m o => m.putByte (line.plus o) (data.getD o 0)) m
    ⟨(m.notices line except).wakeLine line, false⟩

/-- Perform a write of consecutive bytes within one line at its place. -/
def Mach.writeAt (m : Mach) (l : Loc) (bs : List Byte) (tag : Option FTag) (ctx core : Nat) (slot : Option Nat)
    (except : Option Nat) (acc : Nat := 1) (va : Option Va := none) : Written :=
  let o := l.off
  let data : SMap Byte := (List.range bs.length).map (fun i => (o + i, bs.getD i 0))
  m.writeLine l.line (rangeMask o bs.length) 0 data tag ctx core slot except acc (va.map (fun v => v - BitVec.ofNat 56 o))

end Sys2Proof.Machine
end

