-- ==== Sys2Proof/Machine/Residency.lean ====
section
/-! DEFINITION. What a group holds on its core: the bindings of its line registers to frames (R88 to R93), write claims
(R94, R95, R234), estate entries (R126 to R129), and how line registers let go of their ways (R235). -/

namespace Sys2Proof.Machine

/-! ### Clusters of a context (R338) -/

/-- The context that owns a cluster (R338). -/
def Mach.clusterOwner (m : Mach) (cl : Nat) : Option Nat :=
  (m.ctxs.find? (fun e => e.2.state != .free && !e.2.harvest && e.2.cmap.any (fun x => x.2.toNat == cl))).map (·.1)

/-- The cluster map that a context uses on a cluster: its own, or for a harvest context the map of the owner whose cores it shares
(R338). -/
def Mach.mapOf (m : Mach) (cl ctx : Nat) : SMap (BitVec 8) :=
  if (m.ctx ctx).harvest then (match m.clusterOwner cl with | some o => (m.ctx o).cmap | none => [])
  else (m.ctx ctx).cmap

/-- The physical cluster of the logical cluster that a group on a cluster names (R118, R388). -/
def Mach.physical (m : Mach) (cl ctx logical : Nat) : Option Nat := ((m.mapOf cl ctx).get? logical).map BitVec.toNat

/-- The physical clusters that may keep the task of a handle with a logical cluster: the one of the map that the group uses, and for a
harvest context, whose tasks stand in the queues of several owners and stay valid when an owner's cluster moves (R118, R338, R347), its
own cluster and those of the other maps. -/
def Mach.handleClusters (m : Mach) (cl ctx logical : Nat) : List Nat :=
  (m.physical cl ctx logical).toList ++
  (if (m.ctx ctx).harvest then
    cl :: (m.ctxs.filter (fun e => e.2.state != .free && !e.2.harvest)).filterMap (fun e => (e.2.cmap.get? logical).map BitVec.toNat)
  else [])

/-! ### Frames -/

def Core.frame (c : Core) (f : Nat) : Frame := c.frames.getD f {}

/-- A FREE frame has no entry. -/
def Core.setFrame (c : Core) (f : Nat) (x : Frame) : Core :=
  { c with frames := if x.state = .free then c.frames.erase f else c.frames.set f x }

def Core.modFrame (c : Core) (f : Nat) (g : Frame → Frame) : Core := c.setFrame f (g (c.frame f))

/-- The frame that holds a line (R90). -/
def Core.findFrame (c : Core) (line : Loc) : Option Nat :=
  (c.frames.find? (fun e => e.2.line == line)).map (·.1)

/-- A stale notice sets STALE in its line's frame (R87). -/
def Core.staleLine (c : Core) (line : Loc) : Core :=
  match c.findFrame line with
  | some f => c.modFrame f (fun fr => { fr with stale := true })
  | none => c

/-- The stale notices on their way to a core reach it: an acquire sees the notice of every write that was performed before it
(R87, R321; DEDUCED, log 88). -/
def Mach.takeNotices (m : Mach) (core : Nat) : Mach :=
  let lines := m.msgs.filterMap (fun x => if x.core = core then match x.body with
    | .stale line => some line
    | _ => none else none)
  { m.modCore core (fun c => lines.foldl Core.staleLine c) with
    msgs := m.msgs.filter (fun x => !(x.core == core && match x.body with | .stale _ => true | _ => false)) }

/-- A frame for a fetch: a FREE one, else a CACHED or SPEC one (R89, R90). -/
def Core.takeFrame (c : Core) : Nat :=
  match SMap.freeKey c.frames Config.frames with
  | some f => f
  | none => ((c.frames.find? (fun e => e.2.state == .cached || e.2.state == .spec)).map (·.1)).getD 0

/-- The groups of a core, resident and saved. -/
def Core.everyone (c : Core) : List Group := c.groups.map (·.2) ++ c.saved.map (·.2)

/-- Ways charged to the shared pool (R91). -/
def LineReg.charges (r : LineReg) : Nat := ((r.frames.drop 1).filter Option.isSome).length

/-- Pool units charged to the owner or the harvest context; the supervisor group's count with the owner's (R91, R434). -/
def Core.poolUnits (c : Core) (harvest : Bool) : Nat :=
  (c.everyone.filter (fun g => g.id.harvest == harvest)).foldl
    (fun n g => g.lines.foldl (fun n e => n + e.2.charges) n) 0

/-- An owner context is resident on the core: it has a group there, resident or saved (R434; DESIGN
CHOICE, log 87). -/
def Core.hasOwner (c : Core) : Bool := c.everyone.any (fun g => !g.id.sup && !g.id.harvest)

/-- POOLUSE of the owner or the harvest context; it reads 0 for the supervisor group while no owner context is resident (R91,
R434). -/
def Core.poolUse (c : Core) (harvest : Bool) : Nat := if harvest || c.hasOwner then c.poolUnits harvest else 0

/-- POOLCAP of the owner or the harvest context; with no owner context resident, the owner's is 2,040 (R92, R434). -/
def Core.poolCap (c : Core) (harvest : Bool) : Nat :=
  if harvest then c.capHarvest else if c.hasOwner then c.capOwner else Config.poolLines

/-- The pool check of R92 for k units: with no owner context resident, the supervisor group's is the total alone (R434). -/
def Core.poolFits (c : Core) (harvest : Bool) (k : Nat) : Bool :=
  k == 0 || ((c.poolUse harvest + k ≤ c.poolCap harvest || (!harvest && !c.hasOwner)) &&
    c.poolUnits harvest + c.poolUnits (!harvest) + k ≤ Config.poolLines)

/-! ### Estate entries (R126 to R129) -/

/-- The free entries of an estate table that no operation under way has reserved (R128, R294). -/
def Core.estateFree (c : Core) : Nat := Config.tableEntries - c.estate.length - c.reserved

/-- A holding of this kind and key is recorded for group g with its default heir, and ESEQ rises (R129). The copy with
duplex index 1 records nothing (R376). Room is checked before (R128). -/
def Mach.acquire (m : Mach) (core slot : Nat) (g : Group) (kind : Nat) (key : Dword) (aux : Nat := 0) : Mach :=
  if g.id.copyIndex then m
  else
    let c := m.core core
    let g := (m.findGroup core slot g.uid).getD g
    match SMap.freeKey c.estate Config.tableEntries with
    | none => m
    | some i =>
      let e : Estate := { kind, hmem := memberOf core, hslot := slot, uid := g.uid, heir := g.dspec, hidx := g.didx,
                          brv := false, order := g.eseq, key, aux }
      (m.setCore core { c with estate := c.estate.set i e }).modUid core slot g.uid
        (fun g => { g with eseq := g.eseq + 1 })

/-- The estate entries of a group, as core and index, in any table of its cluster; those of a supervisor group, whose
identity is 0 on every core, are in its own core's table. -/
def Mach.holdings (m : Mach) (core uid : Nat) : List (Nat × Nat × Estate) :=
  (List.range 8).flatMap (fun i =>
    let c := 8 * clusterOf core + i
    if uid = 0 ∧ c ≠ core then []
    else ((m.core c).estate.filter (fun e => e.2.uid == uid)).map (fun e => (c, e.1, e.2)))

/-- The holding of a group with this kind and key. -/
def Mach.holding? (m : Mach) (core uid kind : Nat) (key : Dword) : Option (Nat × Nat × Estate) :=
  (m.holdings core uid).find? (fun e => e.2.2.kind == kind && e.2.2.key == key)

def Mach.eraseEstate (m : Mach) (core i : Nat) : Mach := m.modCore core (fun c => { c with estate := c.estate.erase i })

/-- The holding of a group with this kind and key ends (R127). -/
def Mach.endHolding (m : Mach) (core uid kind : Nat) (key : Dword) : Mach :=
  match m.holding? core uid kind key with
  | some (c, i, _) => m.eraseEstate c i
  | none => m

/-! ### Write claims (R94, R95, R234) -/

/-- The claim on a line of this core. -/
def Core.claimOf (c : Core) (line : Loc) : Option (Nat × Claim) := c.claims.find? (fun e => e.2.line == line)

/-- A claim of group g on a line, with its estate entry. -/
def Mach.takeClaim (m : Mach) (core slot : Nat) (g : Group) (line : Loc) : Mach :=
  let c := m.core core
  match SMap.freeKey c.claims Config.tableEntries with
  | none => m
  | some i =>
    (m.setCore core { c with
      claims := c.claims.set i { spad := line.isSpad, line, holder := slot, uid := g.uid } }).acquire core slot g 4
        (BitVec.ofNat 64 i)

/-- The claim at index i of this core ends, and its entry in this core's estate table with it (R127). -/
def Mach.dropClaim (m : Mach) (core i : Nat) : Mach :=
  m.modCore core (fun c => { c with
    claims := c.claims.erase i
    estate := c.estate.filter (fun e => !(e.2.kind == 4 && e.2.key == BitVec.ofNat 64 i)) })

/-- The claims of a group on these lines end. -/
def Mach.dropLines (m : Mach) (core uid : Nat) (lines : List Loc) : Mach :=
  lines.foldl (fun m line => match (m.core core).claimOf line with
    | some (i, cl) => if cl.uid == uid then m.dropClaim core i else m
    | none => m) m

/-- Some other open write register of the group binds the line (R234). -/
def Group.writesLine (g : Group) (except : Nat) (line : Loc) : Bool :=
  g.lines.any (fun e => e.1 != except && e.2.w && e.2.state != .closed && e.2.locs.contains line)

/-- The claims that register l alone accounts for are dropped (R234, R235). -/
def Mach.dropClaims (m : Mach) (core : Nat) (g : Group) (l : Nat) : Mach :=
  let r := g.line l
  if !r.w then m
  else r.locs.foldl (fun m line =>
    match (m.core core).claimOf line with
    | some (i, cl) => if cl.uid == g.uid && !g.writesLine l line then m.dropClaim core i else m
    | none => m) m

/-! ### Closing line registers (R64, R235) -/

/-- How a way leaves its frame: by RECALL, by RECALL.D, or out of an ERROR or LOST register. -/
inductive Leave where
  | recall
  | discard
  | drop
  deriving DecidableEq, Repr

/-- The frame sends its dirty bytes to their home. -/
def Mach.sendDirty (m : Mach) (core slot uid : Nat) (held : Bool) (reply : WbReply) (f : Nat) : Mach :=
  let fr := (m.core core).frame f
  if fr.dirty = 0 then m
  else
    let m := m.send core slot uid fr.line.place 0 held (.writeBack fr.line fr.va fr.dirty fr.poison fr.data fr.tag reply)
    m.modCore core (fun c => c.modFrame f (fun fr => { fr with dirty := 0 }))

/-- One binding of a frame ends (R235). -/
def Mach.unpin (m : Mach) (core slot uid : Nat) (held : Bool) (reply : WbReply) (how : Leave) (f : Nat) : Mach :=
  let fr := (m.core core).frame f
  let m := match how with
    | .recall => m.sendDirty core slot uid held reply f
    | .discard => if fr.pins ≤ 1 then
        m.modCore core (fun c => c.modFrame f (fun fr => { fr with dirty := 0, poison := 0, state := .free })) else m
    | .drop => if fr.pins ≤ 1 then m.sendDirty core slot uid held reply f else m
  m.modCore core (fun c =>
    let fr := c.frame f
    if fr.state = .free then c
    else c.setFrame f { fr with
      pins := fr.pins - 1
      state := if fr.pins ≤ 1 then (if fr.state = .pinned then .cached else if fr.state = .fetching then .free else fr.state)
               else fr.state })

/-- Every way of register l leaves its frame. -/
def Mach.unpinAll (m : Mach) (core slot : Nat) (g : Group) (l : Nat) (reply : WbReply) (how : Leave) : Mach :=
  (g.line l).frames.foldl (fun m fo => match fo with
    | some f => m.unpin core slot g.uid g.id.duplex reply how f
    | none => m) m

/-- A register that has let go of its ways (R235). -/
def LineReg.close (r : LineReg) : LineReg := { r with state := .closed, w := false, bound := 0, frames := [], locs := [] }

/-- How an instruction or an end leaves a register in this state (R64). -/
def LineReg.leave (r : LineReg) (how : Leave) : Leave :=
  match r.state with
  | .error => .drop
  | .lost => .drop
  | _ => how

end Sys2Proof.Machine
end

