-- ==== Sys2Proof/Machine/Hub.lean ====
section
/-! DEFINITION. What a cluster hub does: stage rings (R114 to R116, R272), barriers (R153, R154, R275, R276) and the
release of waits by a kill (R432). -/

namespace Sys2Proof.Machine

/-! ### Answers -/

/-- The writes and the scoreboard bits of a status returned to operand ks and to LSTS (R73, R266). -/
def statusWrites (ks : RegField) (st : Status) : List RegWrite := writeField ks 0 st.word ++ [.lsts st]

/-- A kill of the block has not yet conveyed every holding of its group (R432). -/
def Block.conveying (b : Block) : Bool := b.members.any (fun e => e.2.killed && !e.2.ended)

/-- The hub answers a group. An ABANDONED answer waits until the kill that caused it has conveyed (R432). -/
def Mach.hubAnswer (m : Mach) (cl bid core slot uid : Nat) (st : Status) (writes : List RegWrite)
    (clears : BitVec 96) : Mach :=
  match (m.cluster cl).blocks.get? bid with
  | none => m.sendResult core slot uid 0 writes clears true (some (hubPlace cl))
  | some b =>
    if st == .abandoned && b.conveying then
      m.modBlock cl bid (fun b => { b with heldReleases := b.heldReleases ++ [{ core, slot, uid, writes, clears }] })
    else m.sendResult core slot uid 0 writes clears true (some (hubPlace cl))

/-! ### Stage rings -/

/-- The place of entry n of a ring of a block (R115). -/
def ringPlace (k : Cluster) (b : Block) (r : Ring) (cl n : Nat) : Loc :=
  match blockByte k b (256 * r.offset + 4 * (n % r.depth)) with
  | some (a, _) => .spad cl a
  | none => .spad cl 0

/-- The local-window address of entry n of a ring (R98, R115). -/
def ringVa (r : Ring) (n : Nat) : Va := BitVec.ofNat 56 (Config.localWindow + 256 * r.offset + 4 * (n % r.depth))

def Mach.modRing (m : Mach) (cl bid j : Nat) (f : Ring → Ring) : Mach :=
  m.modBlock cl bid (fun b => match b.rings.get? j with
    | some r => { b with rings := b.rings.set j (f r) }
    | none => b)

/-- A push that has allowance is stored (R115, R272), with what happens before it (R429). -/
def Mach.ringStore (m : Mach) (cl bid j : Nat) (b : Block) (r : Ring) (value : Word) (known : List Nat) : Mach :=
  let w : Word := (value &&& 0x7FFFFFFF) ||| (if (r.pushes / r.depth) % 2 = 1 then 0x80000000 else 0)
  let m := (m.writeAt (ringPlace (m.cluster cl) b r cl r.pushes) (leBytes 4 w.toNat) none 0 0 none none).mach
  m.modRing cl bid j (fun r => { r with allow := r.allow - 1, count := r.count + 1, pushes := r.pushes + 1, known := r.known ++ [known] })

/-- The answer to a ring operation: its value in D, tagged RAW, and its status. -/
def ringWrites (d ks : RegField) (parts : Mask) (value : Option Word) (st : Status) : List RegWrite × BitVec 96 :=
  ((match value with
    | some x => writeAll d (threadsOf parts) x ++ writeTag d 1 0
    | none => []) ++ statusWrites ks st,
   regItems d 1 ||| regItems ks 1)

/-- Serve the oldest operation waiting at a ring that can go on, up to n times (R115, R116, R272). A pop follows what the push of its
entry follows (R429); one of an uncorrectable word takes the entry and kills the popper (R85, R369). -/
def Mach.ringServe (m : Mach) (cl bid j : Nat) : Nat → Mach
  | 0 => m
  | n + 1 =>
    match (m.cluster cl).blocks.get? bid with
    | none => m
    | some b =>
      match b.rings.get? j with
      | none => m
      | some r =>
        match r.waits.find? (fun w => if w.push then 0 < r.allow else 0 < r.count) with
        | some w =>
          let m := m.modRing cl bid j (fun r => { r with waits := r.waits.erase w })
          if w.push then
            let a := ringWrites 47 w.ks w.parts none .ok
            ((m.ringStore cl bid j b r w.value w.known).hubAnswer cl bid w.core w.slot w.uid .ok a.1 a.2).ringServe cl bid j n
          else
            let l := ringPlace (m.cluster cl) b r cl r.pops
            let a := ringWrites w.dfield w.ks w.parts (some (m.word32 l)) .ok
            let m' := (m.modRing cl bid j (fun r => { r with count := r.count - 1, pops := r.pops + 1, known := r.known.drop 1 })).learn
              w.core w.slot w.uid (r.known.headD [])
            (if (m.classAt l none).bad then m'.send w.core w.slot w.uid (9000 + w.core) 0 false (.poison (ringVa r r.pops)) (some (hubPlace cl))
             else m'.hubAnswer cl bid w.core w.slot w.uid .ok a.1 a.2).ringServe cl bid j n
        | none =>
          if r.abandon then
            r.waits.foldl (fun m w =>
              let a := ringWrites (if w.push then 47 else w.dfield) w.ks w.parts none .abandoned
              m.hubAnswer cl bid w.core w.slot w.uid .abandoned a.1 a.2)
              (m.modRing cl bid j (fun r => { r with waits := [] }))
          else m

/-- A ring operation arrives at its hub (R272); `known` is what happens before it. -/
def Mach.ringArrive (m : Mach) (core slot uid bid : Nat) (op : RingOp) (j : Nat) (value : Word) (d ks : RegField)
    (parts : Mask) (known : List Nat) : Mach :=
  let cl := clusterOf core
  match (m.cluster cl).blocks.get? bid with
  | none => m
  | some b =>
    match b.rings.get? j with
    | none => m
    | some r =>
      let wait (push : Bool) : Mach := (m.modRing cl bid j (fun r => { r with
        waits := r.waits ++ [{ push, core, slot, uid, value, dfield := d, ks, parts, known }] })).ringServe cl bid j
          (r.waits.length + 2)
      match op with
      | .push => wait true
      | .pop => wait false
      | .try_ =>
        if 0 < r.count then wait false
        else
          let st : Status := if r.abandon then .abandoned else .empty
          let a := ringWrites d ks parts none st
          m.hubAnswer cl bid core slot uid st a.1 a.2
      | .allow =>
        let out := r.depth - r.allow - r.count
        let n := value.toNat
        if 64 < n then
          let a := ringWrites 47 ks parts none .mismatch
          m.hubAnswer cl bid core slot uid .mismatch a.1 a.2
        else
          let st : Status := if out < n then .saturated else .ok
          let a := ringWrites 47 ks parts none st
          ((m.modRing cl bid j (fun r => { r with allow := r.allow + min n out })).hubAnswer cl bid core slot uid st a.1
            a.2).ringServe cl bid j (r.waits.length + 1)

/-! ### Barriers -/

/-- A barrier, the waiters it has released and the arrivals it has counted, in order. A waiter leaves with what happens before the arrivals
of its phase (R429). -/
structure BarStep where
  bar : Barrier
  released : List BarWait := []
  counted : List (BarWait × Bool) := []

/-- The phase is complete (R154). -/
def Barrier.due (b : Barrier) : Bool := b.pend == 0 && (b.arrived == b.curexp || b.curexp == 0)

/-- The phase completes: waiters of it are released (R154). -/
def BarStep.complete (s : BarStep) : BarStep :=
  let b := s.bar
  let ph := !b.phase
  let out := b.waits.filter (fun w => !w.heldArrival && w.phase != ph)
  { s with
    bar := { b with
      arrived := 0, phase := ph, arrivals := 0, waits := b.waits.filter (fun w => w.heldArrival || w.phase == ph), known := [], past := b.known }
    released := s.released ++ out.map (fun w => { w with known := b.known }) }

def BarStep.eval (s : BarStep) : BarStep := if s.bar.due then s.complete else s

/-- Group g is counted in the phase (R276), with what happens before its arrival. -/
def Barrier.arrive (b : Barrier) (g : Nat) (known : List Nat) : Barrier :=
  { b with known := (b.known ++ known).eraseDups, members := b.members ||| (1#256 <<< g), arrivals := b.arrivals ||| (1#256 <<< g), arrived := b.arrived + 1 }

/-- Held arrivals count, in order, while the phase has room for them (R276). -/
def BarStep.drain (s : BarStep) : Nat → BarStep
  | 0 => s
  | n + 1 =>
    if s.bar.arrived = s.bar.curexp then s
    else match s.bar.waits.find? (fun w => w.heldArrival) with
      | none => s
      | some w =>
        let ph := s.bar.phase
        let rest := s.bar.waits.erase w
        let waits := if w.arriveOnly then rest else rest ++ [{ w with heldArrival := false, phase := ph }]
        BarStep.drain (BarStep.eval { s with
          bar := { s.bar with waits }.arrive w.gindex w.known
          counted := s.counted ++ [(w, ph)] }) n

/-- The phase is evaluated after a change, and held arrivals follow a completion (R154, R276). -/
def Barrier.settle (b : Barrier) : BarStep := (BarStep.eval { bar := b }).drain b.waits.length

/-- The TOK and TPH bits of barrier j in a group's tokens (R275). -/
def tokenSet (t : BitVec 32) (j : Nat) (ph : Bool) : BitVec 32 :=
  let t := t ||| (1#32 <<< j)
  if ph then t ||| (1#32 <<< (16 + j)) else t &&& ~~~(1#32 <<< (16 + j))

/-- Carry out what a barrier's change brings: releases and counted arrivals. -/
def Mach.barApply (m : Mach) (cl bid j : Nat) (s : BarStep) : Mach :=
  let m := m.modBlock cl bid (fun b => { b with bars := b.bars.set j s.bar })
  let m := s.counted.foldl (fun m e =>
    m.modUid e.1.core e.1.slot e.1.uid (fun g => { g with tokens := tokenSet g.tokens j e.2 })) m
  let st : Status := if s.bar.abn then .abandoned else .ok
  s.released.foldl (fun m w =>
    (m.learn w.core w.slot w.uid w.known).hubAnswer cl bid w.core w.slot w.uid st (.tokClear j :: statusWrites w.ks st) (regItems w.ks 1)) m

/-- Change barrier j of a block and evaluate its phase. -/
def Mach.barChange (m : Mach) (cl bid j : Nat) (f : Barrier → Barrier) : Mach :=
  match (m.cluster cl).blocks.get? bid with
  | none => m
  | some b => match b.bars.get? j with
    | none => m
    | some x => m.barApply cl bid j (f x).settle

/-- Bytes are added to or taken from PEND (R153). -/
def Barrier.credit (b : Barrier) (n : Int) : Barrier := { b with pend := b.pend + BitVec.ofInt 40 n }

/-- A group's arrival reaches barrier j, as BAR.ARRIVE or as the first half of BAR.WAIT (R276). -/
def Mach.barArrive (m : Mach) (cl bid j : Nat) (x : Barrier) (w : BarWait) : Mach :=
  let token (ph : Bool) (m : Mach) := m.modUid w.core w.slot w.uid (fun g => { g with tokens := tokenSet g.tokens j ph })
  if x.arrived = x.curexp then
    token x.phase (m.modBlock cl bid (fun b => { b with
      bars := b.bars.set j { x with waits := x.waits ++ [{ w with heldArrival := true }] } }))
  else
    let x := x.arrive w.gindex w.known
    let x := if w.arriveOnly then x else { x with waits := x.waits ++ [{ w with phase := x.phase }] }
    (token x.phase m).barApply cl bid j x.settle

/-- A barrier operation arrives at its hub (R276); `known` is what happens before it. -/
def Mach.barOp (m : Mach) (core slot uid bid : Nat) (arrive wait : Bool) (j : Nat) (n : Word) (ks : RegField)
    (known : List Nat) : Mach :=
  let cl := clusterOf core
  match (m.cluster cl).blocks.get? bid, m.findGroup core slot uid with
  | some b, some g => match b.bars.get? j with
    | none => m
    | some x =>
      let w : BarWait := { core, slot, uid, gindex := g.id.gindex, ks, phase := false, heldArrival := false,
                           arriveOnly := !wait, known }
      let answer (m : Mach) (st : Status) := m.hubAnswer cl bid core slot uid st (statusWrites ks st) (regItems ks 1)
      let tok := g.tokens.getLsbD j
      let tph := g.tokens.getLsbD (16 + j)
      if wait then
        if !tok then m.barArrive cl bid j x w
        else if x.waits.any (fun y => y.uid == uid && y.heldArrival) then
          m.modBlock cl bid (fun b => { b with bars := b.bars.set j { x with
            waits := x.waits.map (fun y => if y.uid == uid && y.heldArrival then { y with arriveOnly := false, ks } else y) } })
        else if x.phase != tph then
          let st : Status := if x.abn then .abandoned else .ok
          (m.learn core slot uid x.past).hubAnswer cl bid core slot uid st (.tokClear j :: statusWrites ks st) (regItems ks 1)
        else m.modBlock cl bid (fun b => { b with
          bars := b.bars.set j { x with waits := x.waits ++ [{ w with phase := tph }] } })
      else if arrive then
        if tok then answer m .mismatch else answer (m.barArrive cl bid j x w) .ok
      else answer (m.barChange cl bid j (fun x => x.credit n.toNat)) .ok
  | _, _ => m

/-! ### The end of a group at its hub (R116, R154, R278, R370 step 2) -/

/-- A group's end lowers CUREXP: it has arrived at the barrier once, or its first arrival is held there (R153, R278). -/
def Barrier.counts (b : Barrier) (g uid : Nat) : Bool :=
  b.members.getLsbD g || b.waits.any (fun w => w.heldArrival && w.uid == uid)

/-- A barrier after the end of group g (R154, R278): `first` says that the group had not ended for its barriers. -/
def Barrier.memberEnds (b : Barrier) (g uid : Nat) (killed first : Bool) : Barrier :=
  let member := b.counts g uid
  let b := { b with waits := b.waits.filter (fun w => !(w.uid == uid)), abn := b.abn || killed }
  if first && member then
    { b with curexp := b.curexp - 1
             arrived := if b.arrivals.getLsbD g then b.arrived - 1 else b.arrived
             arrivals := b.arrivals &&& ~~~(1#256 <<< g) }
  else b

/-- Bytes that no copy will deliver any more come off the barriers they credit (R154). -/
def Mach.takeCredits (m : Mach) (cl bid : Nat) (credits : List (Nat × Nat)) : Mach :=
  credits.foldl (fun m e => m.barChange cl bid e.1 (fun b => b.credit (-(e.2 : Int)))) m

/-- The hub learns that a group has ended: a kill withdraws its waits and sets ABANDON and ABN (R116, R154), the end lowers its
barriers once (R373), and what its freed copies owed their barriers comes off after that (R154, R370 steps 2 and 3). -/
def Mach.hubGroupEnd (m : Mach) (core uid bid g : Nat) (killed : Bool) (credits : List (Nat × Nat)) : Mach :=
  let cl := clusterOf core
  match (m.cluster cl).blocks.get? bid with
  | none => m
  | some b =>
    let first := match b.members.get? g with | some x => !x.barEnded | none => false
    let m := m.modBlock cl bid (fun b => { b with
      members := b.members.mapVals (fun i x => if i = g then { x with barEnded := true } else x) })
    let m := m.modCluster cl (fun k => { k with watches := k.watches.filter (fun w => !(w.uid == uid)) })
    let m := if killed then
        b.rings.foldl (fun m e => (m.modRing cl bid e.1 (fun r => { r with
          abandon := true, waits := r.waits.filter (fun w => !(w.uid == uid)) })).ringServe cl bid e.1
            (e.2.waits.length + 1)) m
      else m
    (b.bars.foldl (fun m e =>
      if killed || (first && e.2.counts g uid) then
        m.barChange cl bid e.1 (fun x => x.memberEnds g uid killed first)
      else m.modBlock cl bid (fun b => { b with bars := b.bars.set e.1 (e.2.memberEnds g uid false false) })) m).takeCredits cl bid
        credits

end Sys2Proof.Machine
end

