-- ==== Sys2Proof/Machine/Kill.lean ====
section
/-! DEFINITION. How a group comes to its end: entering ENDING by EXIT or by a kill (R204, R370 steps 1 to 4), with the
latches, copies and lines it leaves, and the violation freeze of a group (R230, R374). Conveyance is in Convey. -/

namespace Sys2Proof.Machine

/-! ### Rendezvous latches (R281) -/

/-- A held group completes its instruction with these writes. -/
def Group.unlatch (g : Group) (h : LatchHold) (ws : List RegWrite) : Group :=
  { applyWrites g ws with
    wait := none, pc := g.pc + BitVec.ofNat 56 h.len, sb := g.sb &&& ~~~(regItems h.d 1 ||| regItems h.b 1) }

/-- A latch is gone: the groups held for want of a latch try again. -/
def Mach.freeLatch (m : Mach) (core : Nat) (la : Latch) : Mach :=
  m.modCore core (fun c =>
    let ls := c.latches.erase la
    let wake (g : Group) : Group :=
      if g.wait = some .latch && !la.held.any (fun h => h.uid == g.uid) && !ls.any (fun x => x.held.any (fun h => h.uid == g.uid))
      then { g with wait := none } else g
    { c with latches := ls, groups := c.groups.mapVals (fun _ g => wake g), saved := c.saved.mapVals (fun _ g => wake g) })

/-- The members of a latch all complete with a status and these writes; the latch is gone. -/
def Mach.latchDone (m : Mach) (core : Nat) (la : Latch) (st : Status) (ws : LatchHold → List RegWrite) : Mach :=
  la.held.foldl (fun m h => m.modUid core h.slot h.uid (fun g => g.unlatch h (ws h ++ statusWrites h.b st)))
    (m.freeLatch core la)

/-- The members of a latch all complete with a status and D unchanged. -/
def Mach.latchFail (m : Mach) (core : Nat) (la : Latch) (st : Status) : Mach := m.latchDone core la st (fun _ => [])

/-- BRK is set in the gang register of every group of the block that lists group index gi (R66). -/
def Mach.breakGang (m : Mach) (core bid gi : Nat) : Mach :=
  let cl := clusterOf core
  match (m.cluster cl).blocks.get? bid with
  | none => m
  | some b =>
    let lists (gang : BitVec 64) : Bool :=
      (List.range (gang.toNat % 8)).any (fun j => (gang.toNat >>> (8 + 8 * j)) % 256 == gi)
    let m := b.members.foldl (fun m e =>
      if e.1 = gi then m
      else m.modUid e.2.core e.2.slot e.2.uid (fun g => if lists g.gang then { g with gang := g.gang ||| 16 } else g)) m
    let c := m.core core
    (c.latches.filter (fun la => !la.single && lists la.gang && la.blockId == bid)).foldl
        (fun m la => m.latchFail core la .gangbroken) m

/-- A group leaves the latch it waits in; one that nobody waits in any more is free, and wakes those that wait for it (R281). -/
def Mach.leaveLatch (m : Mach) (core uid : Nat) : Mach :=
  let m := m.modCore core (fun c => { c with
    latches := c.latches.map (fun la => { la with held := la.held.filter (fun h => h.uid != uid) }) })
  ((m.core core).latches.filter (fun la => la.held.isEmpty)).foldl (fun m la => m.freeLatch core la) m

/-! ### Entering ENDING -/

/-- A group enters ENDING behind those of its block that are there; of two that do so in one cycle the lower index goes first
(R131). -/
def enterOrder (e : EndOrder) : List EndOrder → List EndOrder
  | [] => [e]
  | x :: xs => if x.core = e.core ∧ x.cycle = e.cycle ∧ e.gindex < x.gindex then e :: x :: xs else x :: enterOrder e xs

/-- A group goes to ENDING: it is gone for heirs, and its hub hears of the end, with what its freed copies still owed (R30, R130,
R154). -/
def Mach.enterEnding (m : Mach) (core slot uid : Nat) (killed : Bool) (credits : List (Nat × Nat) := []) : Mach :=
  match m.findGroup core slot uid with
  | none => m
  | some g =>
    let m := match m.seat core slot uid with | some s => m.modCore core (fun c => c.releaseLane s) | none => m
    let m := m.modUid core slot uid (fun g => { g with
      state := .ending, ending := some { killed, released := killed }, wait := none, runCount := 0, preempt := none
      atSafe := false })
    let cl := clusterOf core
    let m := m.modBlock cl g.id.block (fun b => { b with
      members := b.members.mapVals (fun i x =>
        if i = g.id.gindex then { x with gone := true, killed := x.killed || killed } else x)
      defaultHeirs := b.defaultHeirs.set g.id.gindex (g.dspec, g.didx)
      ending := if b.ending.any (fun e => e.gindex == g.id.gindex) then b.ending
                else enterOrder { gindex := g.id.gindex, uid, core, cycle := (m.core core).cycle } b.ending })
    m.send core slot uid (hubPlace cl) 0 false (.groupEnd g.id.gindex killed credits)

/-! ### Kills (R370) -/

/-- The message is a group's, or the other copy's that answers it too (R330). -/
def Msg.serves (x : Msg) (core uid : Nat) : Bool :=
  (x.uid == uid && x.core == core) || match x.twin with | some (c, _, u) => c == core && u == uid | none => false

/-- Requests of a killed group that are withdrawn: its own pending results, opens and fetches, waiter registrations, an ACQ.LOCK
that waits at its home, a release or a fence that still waits for its write-backs, and the effects its store gate holds (R370
step 3, R376, R437). Every other request that has left the core is performed when it arrives (R438). -/
def Msg.withdrawn (x : Msg) : Bool :=
  x.held || match x.body with
    | .result _ _ _ => true
    | .fetch _ _ _ _ _ => true
    | .openWait _ => true
    | .waiter _ _ _ _ _ _ => true
    | .object (.acq _ _ _) _ _ _ waiting => waiting
    | .object (.rel _ _ second) _ _ _ _ => !second
    | .object (.implicitRel second) _ _ _ _ => !second
    | .object (.fence _ _) _ _ _ _ => true
    | .wbAck _ _ => true
    | .poison _ => true
    | _ => false

/-- A task operation, which leaves its core only behind the implicit release before it (R304, R306). -/
def Msg.follows (x : Msg) : Bool := match x.body with | .task (.deq _ _ _ _) _ _ => false | .task _ _ _ => true | _ => false

/-- The messages of a killed group that are withdrawn: with an implicit release that still waits for its write-backs go the task
operations behind it, which have not left the core either. -/
def Mach.withdrawals (m : Mach) (uid : Nat) : List Msg :=
  let mine := m.msgs.filter (fun x => x.uid == uid)
  let rest := mine.dropWhile (fun x => !(match x.body with | .object (.implicitRel false) _ _ _ _ => true | _ => false))
  mine.filter (fun x => x.withdrawn || (x.follows && rest.any (fun y => y.id == x.id)))

/-- The estate entries reserved for a request until it is decided: ACQ.LOCK, ACQ.TRY, PROMISE and DEQ (R128, R294, R298, R305),
and an OPEN.W that waits. -/
def Msg.reserves (x : Msg) : Nat :=
  match x.body with
  | .object (.acq mode _ _) _ _ _ _ => if mode = 0 then 0 else 1
  | .object (.promise _) _ _ _ _ => 1
  | .task (.deq _ _ _ _) _ _ => 1
  | .openWait o => o.reserved
  | _ => 0

/-- The records of a group in the wait-and-wake table are removed (R135). -/
def Mach.withdrawWaits (m : Mach) (uid : Nat) : Mach :=
  { m with waitTab := (m.waitTab.mapVals (fun _ e => { e with
      waiters := e.waiters.filter (fun w => w.host.isSome || !(w.uid == uid)) })).filter (fun e => e.2.waiters != []) }

/-- The claims that a waiting open has taken end with it (R437). -/
def Mach.withdrawOpens (m : Mach) (core uid : Nat) : Mach :=
  m.msgs.foldl (fun m x => if x.uid == uid then
      match x.body with
      | .openWait o => m.dropLines core uid o.taken
      | _ => m
    else m) m

/-- An entry of a group that a kill frees at once: one that is not ACTIVE (R125). -/
def CopyEntry.freed (e : CopyEntry) (uid : Nat) : Bool := e.uid == uid && !e.stopping && e.state != .active

/-- What the copies that a kill frees still owe the barriers they credit (R154). -/
def Core.owed (c : Core) (uid : Nat) : List (Nat × Nat) :=
  c.chans.flatMap (fun ch => (ch.2.entries.filter (fun e => e.freed uid)).filterMap (fun e => e.bar.map (fun j => (j, e.len - e.done))))

/-- The copies of a killed group: QUEUED and HELD entries are freed, and an ACTIVE one stops at its next boundary (R125). -/
def Core.killCopies (c : Core) (uid : Nat) : Core :=
  { c with chans := c.chans.mapVals (fun _ ch => { ch with
      entries := (ch.entries.filter (fun e => !e.freed uid)).map (fun e => if e.uid == uid then { e with stopping := true } else e) }) }

/-- The engine operations of a killed duplex group write nothing to memory any more, where the window of their instruction is open or
waits for its partner (R269, R330, R376). -/
def Core.muteEngine (c : Core) (g : Group) : Core :=
  let closed := g.dup.windows - (if g.dup.closedSig.isSome then 1 else 0)
  if !g.id.duplex then c
  else { c with engine := c.engine.map (fun o =>
    if o.uid == g.uid && closed ≤ o.window then { o with silent := true } else o) }

/-- A fabric atomic that its store gate still holds goes with its message (R330). -/
def Mach.dropFabric (m : Mach) (gone : List Msg) : Mach :=
  { m with fabricAtomics := m.fabricAtomics.filter (fun x => !gone.any (fun y => y.uid == x.uid && y.core == x.core &&
      match y.body with | .fabric d r false => d == x.dev && r == x.rid | _ => false)) }

/-- Every line register of a killed group closes as by RECALL.D, its claims kept for conveyance (R370 step 4). -/
def Mach.discardLines (m : Mach) (core slot : Nat) (g : Group) : Mach :=
  let m := g.lines.foldl (fun m e => m.unpinAll core slot g e.1 .none (e.2.leave .discard)) m
  m.modUid core slot g.uid (fun g => { g with lines := g.lines.mapVals (fun _ r => r.close) })

/-- Steps 1 to 4 of a kill of one group (R370); `fq` is the fault-queue entry it posts: its kind, the kind of access and the
address (R122). -/
def Mach.killOne (m : Mach) (core slot uid : Nat) (fq : Option (Nat × Nat × Va)) : Mach :=
  match m.findGroup core slot uid with
  | none => m
  | some g =>
    if g.id.sup || (g.ending.any (fun e => e.killed)) then m
    else
      let m := match fq with
        | some (kind, acc, a) => m.postFq g.id.ctx kind acc a.toNat 0 core (some slot) []
        | none => m
      let seat := m.seat core slot uid
      let m := m.enterEnding core slot uid true ((m.core core).owed uid)
      let m := m.withdrawOpens core uid
      let gone := m.withdrawals uid
      let m := if g.id.copyIndex then m
        else m.modCore core (fun c => { c with reserved := c.reserved - (gone.map Msg.reserves).sum })
      let m := { m with msgs := m.msgs.filter (fun x => !gone.any (fun y => y.id == x.id)) }.dropFabric gone
      let m := m.withdrawWaits uid
      let m := m.leaveLatch core uid
      let m := m.breakGang core g.id.block g.id.gindex
      let m := match seat with | some s => m.modCore core (fun c => c.freeMailbox s) | none => m
      let m := m.modCore core (fun c => (c.killCopies uid).muteEngine g)
      m.discardLines core slot g

/-- A message goes before another that the same group has sent: a message that stands for both copies of a duplex pair has its place in
the order of each (R318, R330). -/
def Msg.precedes (y x : Msg) : Bool :=
  let num (x : Msg) (core uid : Nat) : Option Nat :=
    if x.uid == uid && x.core == core then some x.id
    else match x.twin with
      | some (c, _, u) => if c == core && u == uid then some x.twinId else none
      | none => none
  let before (core uid id : Nat) : Bool := match num y core uid with | some i => decide (i < id) | none => false
  before x.core x.uid x.id || match x.twin with | some (c, _, u) => before c u x.twinId | none => false

/-- The partner of a group of a duplex launch: the group of the same index in the other copy's block (R376). -/
def Mach.partner (m : Mach) (core : Nat) (g : Group) : Option Member :=
  if !g.id.duplex then none
  else match m.block? core g with
    | none => none
    | some b => match b.partner with
      | none => none
      | some p => match (m.cluster (clusterOf core)).blocks.get? p with
        | none => none
        | some b' => b'.members.get? g.id.gindex

/-- The group whose estate entries stand for the holdings of a group, with its core: of a duplex pair the copy with index 0 alone
records them (R376). -/
def Mach.keeper (m : Mach) (core : Nat) (g : Group) : Nat × Nat :=
  if !g.id.copyIndex then (core, g.uid)
  else match m.partner core g with
    | some p => (p.core, p.uid)
    | none => (core, g.uid)

/-- The holding of a group with this kind and key, as the keeper of its pair records it. -/
def Mach.holds? (m : Mach) (core : Nat) (g : Group) (kind : Nat) (key : Dword) : Option (Nat × Nat × Estate) :=
  let (c, u) := m.keeper core g
  m.holding? c u kind key

/-- A group is killed, and with it the partner copy of a duplex group (R370, R376). Nothing is killed in the viral state (R378). -/
def Mach.kill (m : Mach) (core slot uid : Nat) (fq : Option (Nat × Nat × Va)) : Mach :=
  match m.findGroup core slot uid with
  | none => m
  | some g =>
    if m.viral then m
    else
      let m' := m.killOne core slot uid fq
      match m.partner core g with
      | some p => m'.killOne p.core p.slot p.uid none
      | none => m'

/-- The group in a slot consumes an uncorrectable datum at an address (R369, R365). -/
def Mach.consume (m : Mach) (core slot : Nat) (addr : Va) (acc : Nat := 0) : Mach :=
  match m.group? core slot with
  | none => m
  | some g => if g.id.sup then m.stopSupervisor core addr else m.kill core slot g.uid (some (2, acc, addr))

/-- A group consumes an uncorrectable datum that an operation of its own has met elsewhere (R253, R369, R439). For one that is
ENDING the entry is posted and nothing else happens. -/
def Mach.consumeUid (m : Mach) (core slot uid : Nat) (va : Va) (acc : Nat := 0) : Mach :=
  match m.findGroup core slot uid with
  | none => m
  | some g =>
    if g.id.sup then m.stopSupervisor core va
    else if g.state == .ending then m.postFq g.id.ctx 2 acc va.toNat 0 core (some slot) []
    else m.kill core slot uid (some (2, acc, va))

/-! ### Violation freezes of a group (R230, R374) -/

/-- A violation is found for a group: the kind-7 entry is posted at once, and the freeze waits for its next run boundary
(R230). A group that has ended or is ENDING is not frozen; the supervisor group is stopped as for a fault (R365). -/
def Mach.violation (m : Mach) (ctx core slot uid : Nat) (code : Code) (va : Va) (acc : Nat) : Mach :=
  let m := m.postFq ctx 7 acc va.toNat 0 core (some slot) []
  match m.findGroup core slot uid with
  | none => m
  | some g =>
    if g.state == .ending then m
    else (m.modUid core slot uid (fun g => { g with freeze := some code })).atBoundary core ((m.seat core slot uid).getD slot)

/-- The precise freeze of SPLOAD (R244, R374): the group stops at the word. -/
def Mach.freezeAt (m : Mach) (core slot : Nat) (code : Code) (addr : Va) : Mach :=
  match m.group? core slot with
  | none => m
  | some g =>
    let m := m.modCore core (fun c => c.releaseLane slot)
    let m := m.setGroup core slot (g.stop .freeze (some code))
    let m := m.postFq g.id.ctx 7 0 addr.toNat 0 core (some slot) []
    if g.id.sup then m.postEvent 1 core (m.core core).cycle (g.pc.toNat + addr.toNat * 2 ^ 64 + code.num * 2 ^ 120)
    else m.modCore core (fun c => c.postStop (stopRecord g slot 1 code.num g.pc addr 0 0))

end Sys2Proof.Machine
end

