-- ==== Sys2Proof/Machine/Bank.lean ====
section
/-! DEFINITION. Lane banks (R51, R249, R353), the revocation of harvest groups (R357, R358) and the return of lent
pages (R97, R250). -/

namespace Sys2Proof.Machine

/-! ### Bank bytes -/

/-- Bytes of a lane's bank that owner groups have allocated (R51). -/
def Core.ownerBytes (c : Core) (lane : Nat) : Nat :=
  (c.groups.filter (fun e => laneOf e.1 == lane && !e.2.id.harvest && !e.2.id.sup)).foldl
    (fun n e => n + 128 * e.2.valloc) 0

/-- Bytes of a lane's bank that harvest groups use; `stopped` leaves out those on their way to the reserve bank. -/
def Core.harvestBytes (c : Core) (lane : Nat) (stopped : Bool) : Nat :=
  (c.groups.filter (fun e => laneOf e.1 == lane && e.2.id.harvest && !e.2.inReserve && !(stopped && e.2.parking))).foldl
    (fun n e => n + 128 * e.2.valloc) 0

/-! ### Revocation -/

/-- A harvest group is revoked (R357, R358): it stops at once, and its registers go to the reserve bank. -/
def Group.revoke (g : Group) : Group :=
  match g.state with
  | .ready => { g with state := .parked, runCount := 0, parking := !g.inReserve }
  | .issuing => { g with state := .parked, runCount := 0, parking := !g.inReserve }
  | .stopped => { g with parking := !g.inReserve }
  | .parked => if g.unparking then { g with unparking := false, parking := !g.inReserve } else g
  | _ => g

/-- A group that a revocation names is revoked, and one harvest revocation is counted (event 12 of R159). What counts as one the spec does
not say: here one is counted for each group named, also for one that is parked already (DESIGN CHOICE, log 104). -/
def Mach.revoke (m : Mach) (core slot : Nat) : Mach :=
  match m.group? core slot with
  | none => m
  | some g =>
    if !g.id.harvest || g.state == .ending then m
    else
      let m := m.modCore core (fun c => (c.releaseLane slot).count 12 1 g.id)
      m.setGroup core slot g.revoke

/-- Revoke the harvest groups of a lane, slot 9 before slot 8, until the owner's need of bytes fits (R357). -/
def Mach.revokeFor (m : Mach) (core lane need : Nat) : Mach :=
  [holderOf lane 9, holderOf lane 8].foldl (fun m slot =>
    let c := m.core core
    if c.ownerBytes lane + c.harvestBytes lane true + need ≤ Config.bankBytes then m
    else match c.groups.get? slot with
      | some g => if g.id.harvest && !g.inReserve && !g.parking then m.revoke core slot else m
      | none => m) m

/-! ### GROW -/

/-- GROW is decided (R249): the allocation, and the status in D and LSTS. -/
def Group.grown (g : Group) (n : Nat) (kd : RegField) (st : Status) : Group :=
  { applyWrites g (writeField kd 0 st.word ++ [.lsts st]) with
    wait := none, valloc := if st = .ok then max g.valloc n else g.valloc }

/-- The groups of a lane that wait in GROW, in arrival order (R353). -/
def Core.growers (c : Core) (lane : Nat) : List (Nat × Group × Nat × RegField × Nat) :=
  ((c.groups.filterMap (fun e => match e.2.wait with
    | some (.grow n kd a) => if laneOf e.1 = lane then some (e.1, e.2, n, kd, a) else none
    | _ => none)).mergeSort (fun x y => x.2.2.2.2 ≤ y.2.2.2.2))

/-- Serve the GROWs of a lane while their bytes are free, at most n of them (R249, R353, R357). -/
def Mach.growServe (m : Mach) (core lane : Nat) : Nat → Mach
  | 0 => m
  | k + 1 =>
    let c := m.core core
    match c.growers lane with
    | [] => m
    | (slot, g, n, kd, _) :: _ =>
      let need := 128 * (n - g.valloc)
      if c.ownerBytes lane + c.harvestBytes lane false + need ≤ Config.bankBytes then
        (m.setGroup core slot (g.grown n kd .ok)).growServe core lane k
      else if !g.id.harvest && c.ownerBytes lane + need ≤ Config.bankBytes then m.revokeFor core lane need
      else m

/-! ### Lent pages -/

/-- The pages that a window range of a block covers. -/
def Block.pageRange (b : Block) (first count : Nat) : List Nat := (b.pages.drop first).take count

/-- A location lies in one of these pages of a cluster. -/
def Loc.inPages (l : Loc) (cl : Nat) (pages : List Nat) : Bool :=
  match l with
  | .spad c a => c == cl && pages.contains (a / Config.pageBytes)
  | _ => false

/-- The group binds a line in these pages. -/
def Group.bindsIn (g : Group) (cl : Nat) (pages : List Nat) : Bool :=
  g.lines.any (fun e => e.2.state != .closed && e.2.locs.any (fun l => l.inPages cl pages))

/-- The harvest groups of a cluster that use some of these pages (R357): core, slot and group. -/
def Mach.pageUsers (m : Mach) (cl : Nat) (pages : List Nat) : List (Nat × Nat × Group) :=
  (List.range 8).flatMap (fun i =>
    let core := 8 * cl + i
    ((m.core core).groups.filter (fun e => e.2.id.harvest && e.2.state != .ending &&
      (e.2.bindsIn cl pages || match (m.cluster cl).blocks.get? e.2.id.block with
        | some b => b.pages.any (fun p => pages.contains p)
        | none => false))).map (fun e => (core, e.1, e.2)))

/-- The harvest lines in returned pages go to LOST (R64). -/
def Mach.loseLines (m : Mach) (cl : Nat) (pages : List Nat) : Mach :=
  (List.range 8).foldl (fun m i =>
    m.modCore (8 * cl + i) (fun c => { c with groups := c.groups.mapVals (fun _ g =>
      if g.id.harvest then { g with lines := g.lines.mapVals (fun _ r =>
        if r.state != .closed && r.locs.any (fun l => l.inPages cl pages) then { r with state := .lost } else r) }
      else g) })) m

/-- A page's contents become undefined (R99, log 7). -/
def Mach.freshPage (m : Mach) (cl page : Nat) (f : Page → Page) : Mach :=
  let (d, m) := m.draw
  m.modCluster cl (fun k => { k with
    spad := k.spad.filter (fun e => e.1 / Config.pageBytes != page)
    spadBad := k.spadBad.filter (fun w => 4 * w / Config.pageBytes != page)
    pages := k.pages.set page { f (k.pages.getD page {}) with epoch := d } })

/-- Lent pages return (R250): their harvest lines are LOST, and their contents undefined; pages that free are an opportunity (R340). -/
def Mach.returnPages (m : Mach) (cl : Nat) (pages : List Nat) (st : PageState) : Mach :=
  let m := if st = .free then m.opportunity else m
  pages.foldl (fun m p => m.freshPage cl p (fun x => { x with state := st, lentTo := none })) (m.loseLines cl pages)

/-- The codes of core operations under way. -/
def opReclaim : Nat := 0
def opFree : Nat := 1
def opRevoke : Nat := 2
def opSave : Nat := 3
def opRestore : Nat := 4

/-- Give a core operation's status to the group that asked for it (R73, R250). -/
def Mach.opStatus (m : Mach) (core : Nat) (o : CoreOp) (st : Status) : Mach :=
  m.sendResult core o.slot o.uid 0 (statusWrites o.kd st) (regItems o.kd 1) false

/-- The returns of pages whose users are all parked are carried out (R358). -/
def Mach.servePages (m : Mach) (cl : Nat) : Mach :=
  (List.range 8).foldl (fun m i =>
    let core := 8 * cl + i
    ((m.core core).ops.filter (fun o => o.op ≤ opFree)).foldl (fun m o =>
      if (m.pageUsers cl o.pages).any (fun u => !u.2.2.inReserve) then m
      else
        let m := m.modCore core (fun c => { c with ops := c.ops.erase o })
        let m := m.returnPages cl o.pages (if o.op = opFree then .free else .alloc)
        if o.op = opReclaim then m.opStatus core o .ok else m) m) m

/-- Revoke the users of pages and return the pages when they are parked. -/
def Mach.reclaimPages (m : Mach) (core : Nat) (o : CoreOp) : Mach :=
  let cl := clusterOf core
  let m := (m.pageUsers cl o.pages).foldl (fun m u => m.revoke u.1 u.2.1) m
  (m.modCore core (fun c => { c with ops := c.ops ++ [o] })).servePages cl

end Sys2Proof.Machine
end

