-- ==== Sys2Proof/Machine/Issue.lean ====
section
/-! DEFINITION. The issue of one instruction word of the group that issues on the lane whose turn it is, and what becomes
of a word that does not complete. -/

namespace Sys2Proof.Machine

/-- A group waits at its instruction for the replay of a translation, on its lane if its run is under way (R25, R78, log 13). -/
def Mach.waitXlat (m : Mach) (core slot : Nat) (va : Va) (acc level : Nat) (implicit : Bool := false) : Mach :=
  match m.group? core slot with
  | none => m
  | some g =>
    let (token, m) := m.fresh
    let m := m.setGroup core slot { g with wait := some (.xlat token va false implicit) }
    m.postFq g.id.ctx 1 acc va.toNat level core (some slot) [token]

/-- The lane holds its instruction for one cycle (log 1). -/
def Mach.holdLane (m : Mach) (core slot : Nat) : Mach :=
  m.modCore core (fun c => (c.advance (c.cycle + 1)).modLane (laneOf slot) (fun l => { l with held := true }))

/-- The group waits at its instruction for room in the host-write reserve: its lane holds it, and the stall is reported (R106). -/
def Mach.holdReserve (m : Mach) (core slot : Nat) : Mach :=
  match m.group? core slot with
  | some g => (m.reserveStall g.id.ctx core (some slot)).holdLane core slot
  | none => m

/-- What becomes of a word that did not complete: the machine as before the word (R31), and the stop or wait. -/
def Mach.takeTrap (m : Mach) (core slot : Nat) : Trap → Mach
  | .fault c a => m.takeFault core slot c a
  | .kill a acc => m.consume core slot a acc
  | .freeze c a => m.freezeAt core slot c a
  | .xlat va acc level implicit => m.waitXlat core slot va acc level implicit
  | .noRoom => m.holdReserve core slot
  | .retry => m.holdLane core slot

/-- One word of the group in a slot: its faults (R192), its stalls (R29), which come before FORMAT because a pending result may
change a source's tag (R193), the consumption of a register word with two errors (R369), and its effect. FORMAT of ACCWR and ACCST
depends on the slot that their handle names, so it comes with their effect, after that consumption (DESIGN CHOICE, log 110: the
spec orders the two nowhere). -/
def Mach.issueWord (m : Mach) (d : Device) (core slot : Nat) (g : Group) (len : Nat) (f : Fields) (b : Body) : Mach :=
  match wordFault g f with
  | some c => m.takeFault core slot c 0
  | none =>
    if stalls g f then m.runStall core slot
    else if formatFault g f then m.takeFault core slot .format 0
    else if readsBad g f then m.consume core slot 0
    else match runBody b d { core, slot, f, addr := g.pc, len } g m with
      | .ok m' => if f.e then m'.atBoundary core slot else m'
      | .error t => m.takeTrap core slot t

/-- The group that issues on the lane whose turn it is (R25), with its slot: none while it waits for the replay of a translation (R78). -/
def State.issuer (s : State) : Option (Nat × Group) :=
  match ((s.mach.core s.curCore).lane s.curLane).issuing with
  | none => none
  | some slot => match s.mach.group? s.curCore slot with
    | some g => if g.wait.isSome then none else some (slot, g)
    | none => none

/-- The issue of a word of len bytes with these fields and this effect. With no issuing group nothing happens (log 38). -/
def issue (len : Nat) (f : Fields) (b : Body) (s : State) : Host.Outcome State Fault Refusal :=
  match s.issuer with
  | none => .next s
  | some (slot, g) => .next { s with mach := s.mach.issueWord s.dev s.curCore slot g len f b }

end Sys2Proof.Machine
end

