-- ==== Sys2Proof/Machine/Number.lean ====
section
/-! DEFINITION. Number formats and arithmetic (07_numbers): IEEE formats, marker formats, conversions, the seven
functions of row 6, the matrix summation, the Hadamard transform and quantisation. Values are exact: a finite value is
a sign, a natural mantissa and a power of two, and every result is rounded once at the end (R162). -/

namespace Sys2Proof.Machine

/-- An IEEE format (R161): exponent and fraction bits. -/
structure Fmt where
  eb : Nat
  fb : Nat
  deriving DecidableEq, Repr

def f32 : Fmt := ⟨8, 23⟩
def bf16 : Fmt := ⟨8, 7⟩
def hf16 : Fmt := ⟨5, 10⟩

/-- Exponent of the smallest normal value. -/
def Fmt.emin (f : Fmt) : Int := 2 - 2 ^ (f.eb - 1)
/-- Magnitude bits of infinity. -/
def Fmt.inf (f : Fmt) : Nat := (2 ^ f.eb - 1) * 2 ^ f.fb
/-- The canonical NaN (R161). -/
def Fmt.nan (f : Fmt) : Nat := f.inf + 2 ^ (f.fb - 1)
/-- The sign bit. -/
def Fmt.sign (f : Fmt) (neg : Bool) : Nat := if neg then 2 ^ (f.eb + f.fb) else 0

/-- A value: NaN, an infinity, or (-1)^neg * m * 2^e. -/
inductive FVal where
  | nan
  | inf (neg : Bool)
  | fin (neg : Bool) (m : Nat) (e : Int)
  deriving DecidableEq, Repr

/-- The value of a bit pattern (R161). -/
def Fmt.decode (f : Fmt) (bits : Nat) : FVal :=
  let neg := bits.testBit (f.eb + f.fb)
  let ex := (bits >>> f.fb) % 2 ^ f.eb
  let fr := bits % 2 ^ f.fb
  if ex = 2 ^ f.eb - 1 then (if fr = 0 then .inf neg else .nan)
  else if ex = 0 then .fin neg fr (f.emin - f.fb)
  else .fin neg (2 ^ f.fb + fr) (f.emin - f.fb + ((ex : Int) - 1))

/-- Shift a natural number by a power of two, dropping bits below the point. -/
def shiftNat (m : Nat) (k : Int) : Nat := if 0 ≤ k then m <<< k.toNat else m >>> (-k).toNat

/-- Round m * 2^e, plus something strictly between 0 and 2^e when sticky, to nearest even (R162). -/
def Fmt.round (f : Fmt) (neg : Bool) (m : Nat) (e : Int) (sticky : Bool := false) : Nat :=
  if m = 0 then f.sign neg
  else
    let top : Int := m.log2 + e
    let q := max (top - f.fb) (f.emin - f.fb)
    let sh := q - e
    let mant :=
      if sh ≤ 0 then m <<< (-sh).toNat
      else
        let k := sh.toNat
        let hi := m >>> k
        let rem := m % 2 ^ k
        let half := 2 ^ (k - 1)
        if half < rem || (rem == half && (sticky || hi % 2 == 1)) then hi + 1 else hi
    f.sign neg + min f.inf ((q - (f.emin - f.fb)).toNat * 2 ^ f.fb + mant)

/-- The bits of an exact value. -/
def Fmt.encode (f : Fmt) : FVal → Nat
  | .nan => f.nan
  | .inf neg => f.sign neg + f.inf
  | .fin neg m e => f.round neg m e

/-! ### Exact sums and products -/

/-- The signed mantissas of two dyadics at their common exponent. -/
def alignE (e1 e2 : Int) : Int := min e1 e2

/-- A signed mantissa at exponent e moved to the lower exponent e'. -/
def lower (m : Int) (e e' : Int) : Int := m * 2 ^ (e - e').toNat

def signed (neg : Bool) (m : Nat) : Int := if neg then -(m : Int) else m

/-- The exact sum of two values, with the sign rule of R220 for a zero result. -/
def FVal.add (x y : FVal) : FVal :=
  match x, y with
  | .nan, _ => .nan
  | _, .nan => .nan
  | .inf a, .inf b => if a = b then .inf a else .nan
  | .inf a, _ => .inf a
  | _, .inf b => .inf b
  | .fin n1 m1 e1, .fin n2 m2 e2 =>
    let e := alignE e1 e2
    let s := lower (signed n1 m1) e1 e + lower (signed n2 m2) e2 e
    if s = 0 then .fin (m1 = 0 && m2 = 0 && n1 && n2) 0 e else .fin (s < 0) s.natAbs e

/-- The exact product (R220). -/
def FVal.mul (x y : FVal) : FVal :=
  match x, y with
  | .nan, _ => .nan
  | _, .nan => .nan
  | .inf a, .inf b => .inf (a != b)
  | .inf a, .fin b m _ => if m = 0 then .nan else .inf (a != b)
  | .fin a m _, .inf b => if m = 0 then .nan else .inf (a != b)
  | .fin n1 m1 e1, .fin n2 m2 e2 => .fin (n1 != n2) (m1 * m2) (e1 + e2)

def FVal.neg : FVal → FVal
  | .nan => .nan
  | .inf a => .inf (!a)
  | .fin a m e => .fin (!a) m e

/-- x < y in the order of R164, where -0 < +0; only for values that are not NaN. -/
def FVal.lt164 (x y : FVal) : Bool :=
  match x, y with
  | .nan, _ => false
  | _, .nan => false
  | .inf a, .inf b => a && !b
  | .inf a, _ => a
  | _, .inf b => !b
  | .fin n1 m1 e1, .fin n2 m2 e2 =>
    let e := alignE e1 e2
    let a := lower (signed n1 m1) e1 e
    let b := lower (signed n2 m2) e2 e
    if a = b then m1 == 0 && n1 && !n2 else a < b

/-- IEEE equality and less-than (R214): -0 equals +0, NaN is unordered. -/
def FVal.eqv (x y : FVal) : Bool :=
  match x, y with
  | .nan, _ => false
  | _, .nan => false
  | .fin _ 0 _, .fin _ 0 _ => true
  | _, _ => !x.lt164 y && !y.lt164 x

def FVal.ltv (x y : FVal) : Bool := !x.eqv y && x.lt164 y

/-- FMIN and FMAX under R164. -/
def FVal.min164 (x y : FVal) : FVal :=
  match x, y with
  | .nan, y => y
  | x, .nan => x
  | x, y => if y.lt164 x then y else x

def FVal.max164 (x y : FVal) : FVal :=
  match x, y with
  | .nan, y => y
  | x, .nan => x
  | x, y => if x.lt164 y then y else x

/-! ### Operations on bit patterns of a format -/

def Fmt.addB (f : Fmt) (a b : Nat) : Nat := f.encode ((f.decode a).add (f.decode b))
def Fmt.subB (f : Fmt) (a b : Nat) : Nat := f.encode ((f.decode a).add (f.decode b).neg)
def Fmt.mulB (f : Fmt) (a b : Nat) : Nat := f.encode ((f.decode a).mul (f.decode b))
def Fmt.fmaB (f : Fmt) (a b d : Nat) : Nat := f.encode (((f.decode a).mul (f.decode b)).add (f.decode d))
def Fmt.minB (f : Fmt) (a b : Nat) : Nat := f.encode ((f.decode a).min164 (f.decode b))
def Fmt.maxB (f : Fmt) (a b : Nat) : Nat := f.encode ((f.decode a).max164 (f.decode b))
/-- x, or the canonical NaN when x is NaN (R194). -/
def Fmt.canonB (f : Fmt) (a : Nat) : Nat := f.encode (f.decode a)

/-- FCMP (R214): ORD is code 6 and UNO code 7. -/
def fcmp (cc : Nat) (a b : Word) : Bool :=
  let x := f32.decode a.toNat
  let y := f32.decode b.toNat
  let un := x == .nan || y == .nan
  match cc with
  | 0 => x.eqv y
  | 1 => !x.eqv y
  | 2 => x.ltv y
  | 3 => x.ltv y || x.eqv y
  | 4 => y.ltv x
  | 5 => y.ltv x || x.eqv y
  | 6 => !un
  | _ => un

/-! ### FRCP, FRSQ and FSQRT (R219, R221) -/

/-- The integer square root, by bits from 2^(k-1) down. -/
def isqrtBits (n : Nat) : Nat → Nat → Nat
  | 0, r => r
  | k + 1, r =>
    let r' := r + 2 ^ k
    isqrtBits n k (if r' * r' ≤ n then r' else r)

def isqrt (n : Nat) : Nat := isqrtBits n (n.log2 / 2 + 1) 0

def frcp (a : Word) : Nat :=
  match f32.decode a.toNat with
  | .nan => f32.nan
  | .inf n => f32.sign n
  | .fin n m e =>
    if m = 0 then f32.encode (.inf n)
    else
      let k := m.log2 + 64
      let q := 2 ^ k / m
      f32.round n q (-(k : Int) - e) (q * m != 2 ^ k)

def fsqrt (a : Word) : Nat :=
  match f32.decode a.toNat with
  | .nan => f32.nan
  | .inf n => if n then f32.nan else f32.inf
  | .fin n m e =>
    if m = 0 then f32.sign n
    else if n then f32.nan
    else
      let odd := e % 2
      let m' := m * 2 ^ (odd.toNat + 80)
      let r := isqrt m'
      f32.round false r ((e - odd - 80) / 2) (r * r != m')

def frsq (a : Word) : Nat :=
  match f32.decode a.toNat with
  | .nan => f32.nan
  | .inf n => if n then f32.nan else 0
  | .fin n m e =>
    if m = 0 then f32.encode (.inf n)
    else if n then f32.nan
    else
      let odd := e % 2
      let m' := m * 2 ^ odd.toNat
      let k := m'.log2 + 80
      let r := isqrt (2 ^ (2 * k) / m')
      f32.round false r (-(k : Int) - (e - odd) / 2) (r * r * m' != 2 ^ (2 * k))

/-! ### FEXP2, FLOG2, FTANH and FSIG: correctly rounded (R219; log 20) by fixed point with 2^-320 -/

/-- The bits below the point. -/
def fxBits : Nat := 320
def fxOne : Nat := 2 ^ fxBits

/-- 2 * artanh(num / den) in fixed point: the sum of 2 z^(2k+1) / (2k+1). -/
def atanh2Loop (z2 : Nat) : Nat → Nat → Nat → Nat → Nat
  | 0, _, _, acc => acc
  | n + 1, k, p, acc => atanh2Loop z2 n (k + 2) ((p * z2) >>> fxBits) (acc + 2 * p / k)

def atanh2 (num den : Nat) : Nat :=
  let z := num * fxOne / den
  atanh2Loop ((z * z) >>> fxBits) 105 1 z 0

/-- ln 2. -/
def fxLn2 : Nat := atanh2 1 3

/-- e^x for 0 ≤ x < 1, by its series. -/
def expLoop (x : Nat) : Nat → Nat → Nat → Nat → Nat
  | 0, _, _, acc => acc
  | n + 1, k, p, acc => expLoop x n (k + 1) ((p * x / k) >>> fxBits) (acc + p)

/-- 2^f for 0 ≤ f < 1 in fixed point. -/
def fxExp2 (f : Nat) : Nat := expLoop ((f * fxLn2) >>> fxBits) 80 1 fxOne 0

/-- e^(-y) for a fixed-point y. -/
def fxExpNeg (y : Nat) : Nat :=
  let t := y * fxOne / fxLn2
  let n := t >>> fxBits
  let fr := t % fxOne
  if fr = 0 then fxOne >>> n else (fxExp2 (fxOne - fr)) >>> (n + 1)

/-- |m * 2^e| in fixed point. -/
def fxOf (m : Nat) (e : Int) : Nat := shiftNat m (e + fxBits)

def fexp2 (a : Word) : Nat :=
  match f32.decode a.toNat with
  | .nan => f32.nan
  | .inf n => if n then 0 else f32.inf
  | .fin n m e =>
    if m = 0 then f32.round false 1 0
    else if 8 ≤ (m.log2 : Int) + e then (if n then 0 else f32.inf)
    else
      let x := fxOf m e
      let i : Int := (x >>> fxBits : Nat)
      let fr := x % fxOne
      if fr = 0 then f32.round false 1 (if n then -i else i)
      else if n then f32.round false (fxExp2 (fxOne - fr)) (-i - 1 - fxBits) true
      else f32.round false (fxExp2 fr) (i - fxBits) true

def flog2 (a : Word) : Nat :=
  match f32.decode a.toNat with
  | .nan => f32.nan
  | .inf n => if n then f32.nan else f32.inf
  | .fin n m e =>
    if m = 0 then f32.encode (.inf true)
    else if n then f32.nan
    else
      let l := m.log2
      let k : Int := l + e
      let p := 2 ^ l
      if m = p then f32.round (k < 0) k.natAbs 0
      else
        let fr := atanh2 (m - p) (m + p) * fxOne / fxLn2
        let v : Int := k * fxOne + fr
        f32.round (v < 0) v.natAbs (-(fxBits : Int)) true

def ftanh (a : Word) : Nat :=
  match f32.decode a.toNat with
  | .nan => f32.nan
  | .inf n => f32.round n 1 0
  | .fin n m e =>
    if m = 0 then f32.sign n
    else if 6 ≤ (m.log2 : Int) + e then f32.round n 1 0
    else
      let u := fxExpNeg (2 * fxOf m e)
      f32.round n ((fxOne - u) * fxOne / (fxOne + u)) (-(fxBits : Int)) true

def fsig (a : Word) : Nat :=
  match f32.decode a.toNat with
  | .nan => f32.nan
  | .inf n => if n then 0 else f32.round false 1 0
  | .fin n m e =>
    if m = 0 then f32.round false 1 (-1)
    else if 7 ≤ (m.log2 : Int) + e then (if n then 0 else f32.round false 1 0)
    else
      let u := fxExpNeg (fxOf m e)
      let num := if n then u else fxOne
      f32.round false (num * fxOne / (fxOne + u)) (-(fxBits : Int)) true

/-! ### Rounding to integers (R170, R224) -/

/-- Rounding modes of FRND: nearest even, toward zero, toward minus and plus infinity. -/
def roundInt (mode : Nat) (neg : Bool) (m : Nat) (e : Int) : Nat :=
  if 0 ≤ e then m <<< e.toNat
  else
    let k := (-e).toNat
    let hi := m >>> k
    let rem := m % 2 ^ k
    let half := 2 ^ (k - 1)
    let up := match mode with
      | 0 => half < rem || (rem == half && hi % 2 == 1)
      | 1 => false
      | 2 => neg && rem != 0
      | _ => !neg && rem != 0
    if up then hi + 1 else hi

def frnd (mode : Nat) (a : Word) : Nat :=
  match f32.decode a.toNat with
  | .nan => f32.nan
  | .inf n => f32.encode (.inf n)
  | .fin n m e => f32.round n (roundInt mode n m e) 0

def cvtS32 (a : Word) : Word :=
  match f32.decode a.toNat with
  | .nan => 0
  | .inf n => if n then 0x80000000 else 0x7FFFFFFF
  | .fin n m e => BitVec.ofInt 32 (max (-2147483648) (min 2147483647 (signed n (roundInt 0 n m e))))

def cvtN32 (a : Word) : Word :=
  match f32.decode a.toNat with
  | .nan => 0
  | .inf n => if n then 0 else 0xFFFFFFFF
  | .fin n m e => BitVec.ofInt 32 (max 0 (min 4294967295 (signed n (roundInt 0 n m e))))

/-- An integer as F32 (R170). -/
def cvtFInt (x : Int) : Nat := f32.round (x < 0) x.natAbs 0

/-! ### Marker formats (R166 to R169) -/

/-- The magnitude of an M8 code's t bits (R166), for t from 1 to 127. -/
def m8Mag (t : Nat) : Nat × Int :=
  let z := 6 - t.log2
  let w := 6 - z
  let body := t % 2 ^ w
  let p : Nat × Int := match z with
    | 0 => (1, 0) | 1 => (2, -4) | 2 => (3, -12) | 3 => (3, -20) | 4 => (2, -24) | 5 => (1, -26) | _ => (0, -27)
  let x := p.1
  let f := w - x
  let ex := body >>> f
  let fr := body % 2 ^ f
  (2 ^ f + fr, p.2 + ex - f)

/-- The magnitude of an M4 code's t bits (R167), for t from 1 to 7. -/
def m4Mag (t : Nat) : Nat × Int :=
  match t with
  | 1 => (1, -3) | 2 => (1, -2) | 3 => (1, -1) | 4 => (1, 0) | 5 => (3, -1) | 6 => (1, 1) | _ => (3, 0)

/-- The value of a marker code: NaR is NaN (R169). -/
def markerVal (bits : Nat) (mag : Nat → Nat × Int) (c : Nat) : FVal :=
  let s := c.testBit (bits - 1)
  let t := c % 2 ^ (bits - 1)
  if t = 0 then (if s then .nan else .fin false 0 0)
  else .fin s (mag t).1 (mag t).2

def m8Val (c : Nat) : FVal := markerVal 8 m8Mag c
def m4Val (c : Nat) : FVal := markerVal 4 m4Mag c

/-- Compare m1 * 2^e1 with m2 * 2^e2: -1, 0 or 1. -/
def cmpDy (m1 : Nat) (e1 : Int) (m2 : Nat) (e2 : Int) : Int :=
  let e := alignE e1 e2
  let d := lower m1 e1 e - lower m2 e2 e
  if d < 0 then -1 else if d = 0 then 0 else 1

/-- The greatest t below 2^k whose magnitude does not exceed m * 2^e; 0 when none does. -/
def markerFloor (mag : Nat → Nat × Int) (m : Nat) (e : Int) : Nat → Nat → Nat
  | 0, t => t
  | k + 1, t =>
    let t' := t + 2 ^ k
    markerFloor mag m e k (if cmpDy (mag t').1 (mag t').2 m e ≤ 0 then t' else t)

/-- Conversion into a marker format (R168). -/
def toMarker (bits : Nat) (mag : Nat → Nat × Int) (v : FVal) : Nat :=
  match v with
  | .nan => 2 ^ (bits - 1)
  | .inf _ => 2 ^ (bits - 1)
  | .fin n m e =>
    let top := 2 ^ (bits - 1) - 1
    let t := markerFloor mag m e (bits - 1) 0
    let lo : Nat × Int := if t = 0 then (0, 0) else mag t
    let code :=
      if t = top then top
      else
        let hi := mag (t + 1)
        let x := alignE lo.2 hi.2
        let mid := lower lo.1 lo.2 x + lower hi.1 hi.2 x
        let c := cmpDy m e mid.toNat (x - 1)
        if c < 0 then t else if c = 0 then (if t % 2 = 0 then t else t + 1) else t + 1
    if code = 0 then 0 else if n then 2 ^ (bits - 1) + code else code

def toM8 (v : FVal) : Nat := toMarker 8 m8Mag v
def toM4 (v : FVal) : Nat := toMarker 4 m4Mag v

/-! ### Packed elements (R165) -/

/-- Element i of a packed register, of n bits. -/
def elemOf (n : Nat) (w : Word) (i : Nat) : Nat := (w.toNat >>> (n * i)) % 2 ^ n

/-- The register with element i replaced. -/
def setElem (n : Nat) (w : Word) (i x : Nat) : Word :=
  let m : Word := BitVec.ofNat 32 ((2 ^ n - 1) <<< (n * i))
  (w &&& ~~~m) ||| (BitVec.ofNat 32 (x <<< (n * i)) &&& m)

/-- A packed operation on both halfword elements. -/
def packed2 (f : Nat → Nat → Nat) (a b : Word) : Word :=
  BitVec.ofNat 32 (f (elemOf 16 a 0) (elemOf 16 b 0) + 2 ^ 16 * f (elemOf 16 a 1) (elemOf 16 b 1))

def packed3 (f : Nat → Nat → Nat → Nat) (a b d : Word) : Word :=
  BitVec.ofNat 32 (f (elemOf 16 a 0) (elemOf 16 b 0) (elemOf 16 d 0) +
    2 ^ 16 * f (elemOf 16 a 1) (elemOf 16 b 1) (elemOf 16 d 1))

/-- A two's complement element of n bits. -/
def sElem (n : Nat) (w : Word) (i : Nat) : Int :=
  let x := elemOf n w i
  if x < 2 ^ (n - 1) then x else (x : Int) - 2 ^ n

/-! ### Matrix summation (R174 to R177) -/

/-- A block's products, as the special cases of R175 see them. -/
structure BlockSum where
  nan : Bool
  posInf : Bool
  negInf : Bool
  terms : List (Bool × Nat × Int)
  deriving DecidableEq, Repr

def blockSum (ps : List FVal) : BlockSum :=
  ps.foldr (fun p b => match p with
    | .nan => { b with nan := true }
    | .inf n => if n then { b with negInf := true } else { b with posInf := true }
    | .fin n m e => if m = 0 then b else { b with terms := (n, m, e) :: b.terms })
    { nan := false, posInf := false, negInf := false, terms := [] }

/-- The windowed sum of R174, as a signed mantissa and an exponent. -/
def windowSum (w : Nat) (terms : List (Bool × Nat × Int)) : Int × Int :=
  match terms with
  | [] => (0, 0)
  | _ =>
    let emax := terms.foldl (fun m t => max m ((t.2.1.log2 : Int) + t.2.2)) (-10000)
    let q := emax - w
    (terms.foldl (fun s t => s + signed t.1 (shiftNat t.2.1 (t.2.2 - q))) 0, q)

/-- One K-block update of an F32 accumulator (R174, R175), with the exponent of the block's scale product. -/
def blockUpdate (w : Nat) (c : Nat) (ps : List FVal) (scale : Int) (scaleNar : Bool) : Nat :=
  let b := blockSum ps
  if b.nan || scaleNar || (b.posInf && b.negInf) then f32.nan
  else if b.posInf then f32.encode ((f32.decode c).add (.inf false))
  else if b.negInf then f32.encode ((f32.decode c).add (.inf true))
  else
    let s := windowSum w b.terms
    f32.encode ((f32.decode c).add (.fin (s.1 < 0) s.1.natAbs (s.2 + scale)))

/-- A saturating accumulation (R176): the new element, and whether it clamped. -/
def satAdd (c : Word) (s : Int) : Word × Bool :=
  let x := c.toInt + s
  (BitVec.ofInt 32 (max (-2147483648) (min 2147483647 x)), x < -2147483648 || 2147483647 < x)

/-- A block scale's exponent, or none for NaR (R172). -/
def scaleExp (x : Nat) : Option Int := if 511 ≤ x then none else some ((x : Int) - 256)

/-! ### Hadamard (R178) -/

/-- One stage: the butterflies of distance h on a list, halves of blocks of 2h in order. -/
def hadStage (h : Nat) (xs : List Nat) : List Nat :=
  (List.range xs.length).map fun i =>
    if (i / h) % 2 = 0 then f32.addB (xs.getD i 0) (xs.getD (i + h) 0)
    else f32.subB (xs.getD (i - h) 0) (xs.getD i 0)

/-- y = c_n H_n x in F32, for n = 2^k. -/
def hadamard (k : Nat) (xs : List Nat) : List Nat :=
  let ys := (List.range k).foldl (fun a j => hadStage (2 ^ j) a) xs
  ys.map fun y => match f32.decode y with
    | .fin n m e => f32.round n m (e - (k / 2 : Nat))
    | v => f32.encode v

/-! ### Quantisation (R179) -/

/-- The four targets of MQNT: M8, M4, I8, I4, each with its maximum as a dyadic. -/
def qMax (target : Nat) : Nat × Int :=
  match target with | 0 => (63, -4) | 1 => (3, 0) | 2 => (127, 0) | _ => (7, 0)

/-- The least S from 0 up to 511 with mx * 2^(256 - S) ≤ m, found from S = s with n tries. -/
def qScale (m : Nat) (e : Int) (mx : Nat × Int) : Nat → Nat → Nat
  | 0, s => s
  | n + 1, s => if cmpDy m (e + 256 - s) mx.1 mx.2 ≤ 0 then s else qScale m e mx n (s + 1)

/-- The scaled value in the target format, as its code. -/
def qConvert (target : Nat) (v : FVal) : Nat :=
  match target, v with
  | 0, v => toM8 v
  | 1, v => toM4 v
  | t, .fin n m e =>
    let r := roundInt 0 n m e
    let bits := if t = 2 then 8 else 4
    if n then (2 ^ bits - r) % 2 ^ bits else r
  | _, _ => 0

/-- One block: its scale S and its element codes. -/
def quantise (target : Nat) (xs : List FVal) : Nat × List Nat :=
  if xs.any (fun x => match x with | .fin _ _ _ => false | _ => true) then
    (511, xs.map fun _ => if target = 0 then 128 else if target = 1 then 8 else 0)
  else
    let big := xs.foldl (fun b x => match x with
      | .fin _ m e => if cmpDy b.1 b.2 m e < 0 then (m, e) else b
      | _ => b) ((0, 0) : Nat × Int)
    if big.1 = 0 then (256, xs.map fun _ => 0)
    else
      let s := qScale big.1 big.2 (qMax target) 512 0
      (s, xs.map fun x => match x with
        | .fin n m e => qConvert target (.fin n m (e + 256 - s))
        | _ => 0)

end Sys2Proof.Machine
end

