-- ==== Sys2Proof/Machine/Alu.lean ====
section
/-! DEFINITION. The shapes that the register instructions share: one pass per participant (R194), sources read before any
write (R196), predicate results (R214), and results that arrive later (R26, R197). -/

namespace Sys2Proof.Machine

/-- The threads in which a word acts: its participants, or for a uniform word the lowest active thread when the guard
holds there (R17, R185, R194). -/
def Group.actors (g : Group) (f : Fields) : List Nat :=
  if f.u then (g.active.head?.toList).filter (g.guard f.g) else g.participants f.g

/-- Do something with the group that issues. -/
def withGroup (w : Who) (m : Mach) (k : Group → Except Trap Mach) : Except Trap Mach :=
  match m.group? w.core w.slot with
  | none => .ok m
  | some g => k g

/-- Register writes of the issuing group, at once (fixed-latency, R26). -/
def commit (w : Who) (m : Mach) (ws : List RegWrite) : Mach := m.modGroup w.core w.slot (fun g => applyWrites g ws)

/-- Register writes that arrive later: the pending bits are set, and a result carries the writes (R26, R197). -/
def defer (w : Who) (m : Mach) (g : Group) (delay : Nat) (ws : List RegWrite) (items : BitVec 96)
    (src : Option Nat := none) : Mach :=
  (m.modGroup w.core w.slot (fun g => { g with sb := g.sb ||| items })).sendResult w.core w.slot g.uid delay ws items false src

/-- The tag writes of a result, when some thread is written (R58). -/
def resultTag (ts : List Nat) (f : RegField) (n : Nat) (tag : FTag) : List RegWrite :=
  if ts = [] then [] else writeTag f n tag

/-- A value in D in each acting thread, each pass after the one before (R54, R194): the writes. -/
def aluWrites (g : Group) (f : Fields) (n : Nat) (tag : FTag) (val : Group → Nat → List Word) : List RegWrite :=
  let ts := g.actors f
  (passes (fun g t => writeWide f.fd t 0 (val g t)) g ts).2 ++ resultTag ts f.fd n tag

/-- One register result per acting thread. -/
def alu (tag : Group → Fields → FTag) (val : Group → Fields → Nat → Word) : Body := fun _ w m =>
  withGroup w m fun g => .ok (commit w m (aluWrites g w.f 1 (tag g w.f) (fun g t => [val g w.f t])))

/-- A 64-bit result per acting thread (R53). -/
def alu64 (tag : Group → Fields → FTag) (val : Group → Fields → Nat → Dword) : Body := fun _ w m =>
  withGroup w m fun g => .ok (commit w m (aluWrites g w.f 2 (tag g w.f) (fun g t => words64 (val g w.f t))))

/-- The writes of each pass, with its thread (R54, R194). -/
def passWrites (f : Group → Nat → List RegWrite) : Group → List Nat → List (Nat × List RegWrite)
  | _, [] => []
  | g, t :: ts => (t, f g t) :: passWrites f (applyWrites g (f g t)) ts

/-- Cycles from an instruction's first pass to the pass of thread t (R16, R17). -/
def Group.passOf (g : Group) (t : Nat) : Nat := (g.active.takeWhile (fun u => u != t)).length

/-- A scoreboarded result in each acting thread, 16 cycles after that thread's own pass; the pending bits clear with the last
(R197). -/
def aluLater (tag : FTag) (val : Group → Fields → Nat → Word) : Body := fun _ w m =>
  withGroup w m fun g =>
    let ts := g.actors w.f
    let items := regItems w.f.fd 1
    if ts = [] then .ok m
    else .ok ((passWrites (fun g t => writeField w.f.fd t (val g w.f t) ++ resultTag [t] w.f.fd 1 tag) g ts).foldl
      (fun m e => m.sendResult w.core w.slot g.uid (g.passOf e.1 + 16) e.2 (if ts.getLast? = some e.1 then items else 0) false)
      (m.modGroup w.core w.slot (fun g => { g with sb := g.sb ||| items })))

/-- A predicate result per participant (R214). -/
def predAlu (val : Group → Fields → Nat → Bool) : Body := fun _ w m =>
  withGroup w m fun g =>
    .ok (commit w m (passes (fun g t => [.pred w.f.p.toNat t (val g w.f t)]) g (g.actors w.f)).2)

/-- A register result per participant whose sources are all read first (R196): `val` sees the participants. -/
def laneAlu (tag : Group → Fields → FTag) (val : Group → Fields → List Nat → Nat → Word) : Body := fun _ w m =>
  withGroup w m fun g =>
    let ts := g.actors w.f
    .ok (commit w m (ts.flatMap (fun t => writeField w.f.fd t (val g w.f ts t)) ++ resultTag ts w.f.fd 1 (tag g w.f)))

/-- A predicate result per participant whose sources are all read first (R196). -/
def lanePred (val : Group → Fields → List Nat → Nat → Bool) : Body := fun _ w m =>
  withGroup w m fun g =>
    let ts := g.actors w.f
    .ok (commit w m (ts.map (fun t => .pred w.f.p.toNat t (val g w.f ts t))))

/-! ### Operands and tags -/

def opA (g : Group) (f : Fields) (t : Nat) : Word := g.reg f.fa t
def opB (g : Group) (f : Fields) (t : Nat) : Word := g.reg f.fb t
def opD (g : Group) (f : Fields) (t : Nat) : Word := g.reg f.fd t
/-- IMM12 sign-extended (R187). -/
def immS (f : Fields) : Word := f.imm.signExtend 32

def tagRaw (_ : Group) (_ : Fields) : FTag := 0
def tagS (_ : Group) (_ : Fields) : FTag := 1
def tagN (_ : Group) (_ : Fields) : FTag := 2
def tagF (_ : Group) (_ : Fields) : FTag := 3
def tagBF (_ : Group) (_ : Fields) : FTag := 4
def tagHF (_ : Group) (_ : Fields) : FTag := 5
def tagM8 (_ : Group) (_ : Fields) : FTag := 6
def tagM4 (_ : Group) (_ : Fields) : FTag := 7
def tagI8 (_ : Group) (_ : Fields) : FTag := 8
def tagI4 (_ : Group) (_ : Fields) : FTag := 9
/-- The mixed tag over sources A and B, A alone, all three, or D alone (R180, R198). -/
def mixAB (g : Group) (f : Fields) : FTag := mixedTag g [f.fa, f.fb]
def mixA (g : Group) (f : Fields) : FTag := mixedTag g [f.fa]
def mixABD (g : Group) (f : Fields) : FTag := mixedTag g [f.fa, f.fb, f.fd]
def mixD (g : Group) (f : Fields) : FTag := mixedTag g [f.fd]
/-- A's own tag (R180, MOV and the shuffles). -/
def tagOfA (g : Group) (f : Fields) : FTag := g.tagOf f.fa
/-- The common tag of A and B, or RAW (R211). -/
def tagCommon (g : Group) (f : Fields) : FTag := if g.tagOf f.fa = g.tagOf f.fb then g.tagOf f.fa else 0

end Sys2Proof.Machine
end

