-- ==== Sys2Proof/Machine/Tiles.lean ====
section
/-! DEFINITION. The tiles that an engine operation reads (R283, R286, R287), and what a member's write to them before its MWAIT makes
of the elements computed (R284). -/

namespace Sys2Proof.Machine

def Core.slot (c : Core) (i : Nat) : AccSlot := c.acc.getD i {}
def Core.setSlot (c : Core) (i : Nat) (x : AccSlot) : Core := { c with acc := c.acc.set i x }

def OpKind.isMma : OpKind → Bool
  | .mma => true
  | .mmaSc => true
  | _ => false

/-- The bits of an element: M8, M4, BF, HF, I8, I4 (R283). -/
def fmtBits (fmt : Nat) : Nat := match fmt with | 0 => 8 | 1 => 4 | 2 => 16 | 3 => 16 | 4 => 8 | _ => 4

/-- The K-blocks of an operation (R283, R286, R287). -/
def EngineOp.kBlocks (o : EngineOp) : Nat :=
  match o.kind with
  | .mhad => bitsOf (o.block.getD 2 0).toNat 16 4 + 1
  | .mqnt => bitsOf (o.block.getD 5 0).toNat 20 4 + 1
  | _ => bitsOf (o.block.getD 4 0).toNat 16 4 + 1

/-- The rows of a tile that hold one of these addresses. -/
def rowsAt (base : Va) (stride : Word) (len : Nat) (as : List Va) : List Nat :=
  (List.range 128).filter (fun i => as.any (fun a => (a - (base + BitVec.ofNat 56 (i * stride.toNat))).toNat < len))

/-- The rows whose scales hold one of these addresses: two bytes for each row of each K-block (R283). -/
def scalesAt (base : Va) (blocks : Nat) (as : List Va) : List Nat :=
  let offs := (as.map (fun a => (a - base).toNat)).filter (· < 256 * blocks)
  (List.range 128).filter (fun i => offs.any (fun o => o % 256 / 2 == i))

/-- The elements of its slot that an MMA or MMA.SC computes from one of these addresses (R283). -/
def EngineOp.elemsAt (o : EngineOp) (as : List Va) : List Nat :=
  let k4 := (o.block.getD 4 0).toNat
  let row (i : Nat) : Nat := 4 * o.kBlocks * fmtBits (bitsOf k4 (8 + 4 * i) 4)
  let side (i : Nat) : List Nat :=
    rowsAt (o.ptrs.getD i 0) (o.block.getD (2 + i) 0) (row i) as ++
      (if o.kind == .mmaSc then scalesAt (o.ptrs.getD (2 + i) 0) o.kBlocks as else [])
  let rows := side 0
  let cols := side 1
  if rows.isEmpty && cols.isEmpty then []
  else (List.range 16384).filter (fun e => rows.contains (e / 128) || cols.contains (e % 128))

/-- These elements of a slot hold undefined values (R11, log 2). -/
def Mach.freeElems (m : Mach) (core i : Nat) (es : List Nat) : Mach :=
  let (d, m) := m.drawMany es.length
  m.modCore core (fun c => c.setSlot i { c.slot i with
    elems := es.zipIdx.foldl (fun s e => s.set e.1 (Config.freeWord (d + e.2))) (c.slot i).elems })

/-- Elements that an operation computes are undefined, now and when its K-blocks are applied (R284). -/
def Mach.wildElems (m : Mach) (core : Nat) (o : EngineOp) (es : List Nat) : Mach :=
  if es.isEmpty then m
  else
    let m := m.modCore core (fun c => { c with engine := c.engine.map (fun x =>
      if x.id == o.id then { x with wild := x.wild ++ es.filter (fun e => !x.wild.contains e) } else x) })
    if ((m.core core).slot o.slot).live && ((m.core core).slot o.slot).gen == o.gen then m.freeElems core o.slot es else m

/-- A group writes bytes at these addresses: the elements that its operations compute from them, as far as no MWAIT has covered them,
are undefined (R284, log 24). -/
def Mach.touchOperands (m : Mach) (core slot uid : Nat) (as : List Va) : Mach :=
  match m.findGroup core slot uid with
  | none => m
  | some g => g.eng.unsure.foldl (fun m o => m.wildElems core o (o.elemsAt as)) m

end Sys2Proof.Machine
end

