-- ==== Sys2Proof/Machine/Duplex.lean ====
section
/-! DEFINITION. Duplex launches (R160, R231, R376): the signature of a window, the store gate, and the close of a window. -/

namespace Sys2Proof.Machine

/-! ### The signature (R160) -/

/-- One bit of the CRC-64 of ECMA-182, not reflected. -/
def crcShift (x : Dword) : Dword := (x <<< 1) ^^^ (if x.msb then 0x42F0E1EBA9EA3693#64 else 0)

def crcBits : Nat → Dword → Dword
  | 0, x => x
  | n + 1, x => crcBits n (crcShift x)

/-- The signature continued over one byte. -/
def crcByte (sig : Dword) (b : Byte) : Dword := crcBits 8 (sig ^^^ (b.setWidth 64 <<< 56))

/-- The signature continued over one store: its line address, its byte mask and its bytes. -/
def crcStore (sig : Dword) (line : Va) (mask : BitVec 128) (bytes : List Byte) : Dword :=
  (leBytes 8 line.toNat ++ leBytes 16 mask.toNat ++ bytes).foldl crcByte sig

/-- A store of a duplex group extends its signature, or that of the next window once this one is closed (R160). -/
def Group.sign (g : Group) (line : Va) (mask : BitVec 128) (bytes : List Byte) : Group :=
  if !g.id.duplex then g
  else if g.dup.closedSig.isSome then
    { g with dup := { g.dup with spill := crcStore g.dup.spill line mask bytes, spillNst := g.dup.spillNst + 1 } }
  else { g with dup := { g.dup with sig := crcStore g.dup.sig line mask bytes, nst := g.dup.nst + 1 } }

/-! ### The close of a window (R376) -/

/-- A copy entry whose destination lies outside the copy's own scratchpad and wharf. -/
def CopyEntry.outward (e : CopyEntry) : Bool :=
  match e.kind with
  | .mc => false
  | .drain => false
  | .copyl => !inWindows e.other
  | _ => if e.dir then !inWindows e.layout.base else !inWindows e.span

/-- A held effect stays inside the copy's own scratchpad: a put's data and its counter word both (R254, R330). -/
def Msg.own (x : Msg) : Bool :=
  match x.body with
  | .put loc _ _ _ _ ctr _ => loc.isSpad && ctr.all (fun c => c.1.isSpad)
  | _ => 1000 ≤ x.place && x.place < 2000

/-- What the copy with index 1 still does itself of a held effect: all of one in its own scratchpad; of a put, the part that is: its
data, or the add to its counter word, which then follows the data that the other copy writes for both (R254, R330). -/
def Msg.copyPart (x : Msg) : Option Msg :=
  match x.body with
  | .put loc va mask data tag (some c) delta =>
    if x.own then some x
    else if loc.isSpad then some { x with body := .put loc va mask data tag none delta }
    else if c.1.isSpad then some { x with body := .put loc va 0 [] tag (some c) delta }
    else none
  | _ => if x.own then some x else none

/-- The held effects of a window are released, in program order and once for both copies (R330, log 18): what acts on a
copy's own scratchpad is released in each copy, everything else in the copy with index 0, whose answers serve both and whose messages
keep the number of their twins. What a copy still waits for is then known by `Msg.serves`. -/
def Mach.releaseHeld (m : Mach) (core0 uid : Nat) (twin : Nat × Nat × Nat) (id0 id1 : Nat) : Mach :=
  let mine (x : Msg) : Bool := x.held && x.uid == uid && x.id < id0
  let other (x : Msg) : Bool := x.held && x.uid == twin.2.2 && x.id < id1
  let gone := m.msgs.filter (fun x => other x && x.copyPart.isNone)
  let pairs : SMap Nat := ((m.msgs.filter (fun x => mine x && !x.own)).zip (m.msgs.filter (fun x => other x && !x.own))).map (fun p =>
    (p.1.id, p.2.id))
  let m := { m.dropFabric gone with
    msgs := m.msgs.filterMap (fun x =>
      if mine x then
        some (if x.own then { x with held := false }
          else { x with held := false, twin := some twin, twinId := pairs.getD x.id x.id })
      else if other x then x.copyPart.map (fun y => { y with held := false })
      else some x) }
  let free (core u : Nat) (quiet : Bool) (m : Mach) : Mach := m.modCore core (fun c => { c with
    chans := c.chans.mapVals (fun _ ch => { ch with entries := ch.entries.map (fun e =>
      if e.uid == u then { e with gated := false, silent := e.silent || (e.gated && quiet && e.outward) } else e) }) })
  free twin.1 twin.2.2 true (free core0 uid false m)

/-- A window that both copies have closed begins anew, with what its last instruction has stored since (R160). -/
def Group.newWindow (g : Group) : Group :=
  { g with dup := { g.dup with sig := g.dup.spill, nst := g.dup.spillNst, closedSig := none, spill := 0, spillNst := 0 } }

/-- The signatures of two windows differ, or one copy closed its window alone (R376): both copies are killed, and the
entry of kind 6 is posted once. -/
def Mach.duplexMismatch (m : Mach) (core slot uid : Nat) : Mach := m.kill core slot uid (some (6, 0, 0))

/-- The window of a duplex group closes; when its partner has closed the same window, the gates compare (R376). -/
def Mach.closeWindow (m : Mach) (core slot uid : Nat) : Mach :=
  match m.findGroup core slot uid with
  | none => m
  | some g =>
    if !g.id.duplex || g.dup.closedSig.isSome then m
    else
      let m := m.modUid core slot uid (fun g => { g with dup := { g.dup with
        closedSig := some g.dup.sig, closedAt := (m.core core).cycle, closedId := m.nextUid, windows := g.dup.windows + 1 } })
      match m.partner core g with
      | none => m
      | some p =>
        match m.findGroup p.core p.slot p.uid with
        | none => m
        | some h =>
          match h.dup.closedSig with
          | none => m
          | some sig =>
            if sig != g.dup.sig then m.duplexMismatch core slot uid
            else
              let m := (m.modUid core slot uid Group.newWindow).modUid p.core p.slot p.uid Group.newWindow
              if g.id.copyIndex then m.releaseHeld p.core p.uid (core, slot, uid) h.dup.closedId m.nextUid
              else m.releaseHeld core uid (p.core, p.slot, p.uid) m.nextUid h.dup.closedId

/-- The window of a group closes once it has taken 64 stores (R160, log 18). -/
def Mach.windowFull (m : Mach) (core slot uid : Nat) : Mach :=
  match m.findGroup core slot uid with
  | some g => if 64 ≤ g.dup.nst then m.closeWindow core slot uid else m
  | none => m

/-- A store of the group is signed, and closes the window when it is the 64th (R160): the stores of one instruction are taken one
after another, so that what follows belongs to the next window. Operands of its engine operations that it writes too early are
undefined (R284). -/
def Mach.signStore (m : Mach) (core slot uid : Nat) (line : Va) (mask : BitVec 128) (bytes : List Byte) : Mach :=
  ((m.touchOperands core slot uid ((maskOffsets mask).map (fun o => line + BitVec.ofNat 56 o))).modUid core slot uid
    (fun g => g.sign line mask bytes)).windowFull core slot uid

/-- The stores of one instruction, one for each of its threads, as long as no mismatch has ended the group (R160, R376). -/
def Mach.eachStore {α : Type} (m : Mach) (core slot uid : Nat) (store : Mach → α → Mach) (xs : List α) : Mach :=
  xs.foldl (fun m x => match m.findGroup core slot uid with
    | some g => if g.state == .ending then m else store m x
    | none => m) m

/-- A duplex group whose window has closed makes no further effect until its partner's has closed too (log 18). -/
def Group.gated (g : Group) : Bool := g.dup.closedSig.isSome

end Sys2Proof.Machine
end

