-- ==== Sys2Proof/Machine/Virtual.lean ====
section
/-! DEFINITION. Reads through a group's translation that consume data (R78, R369, R436). -/

namespace Sys2Proof.Machine

/-- The end of what one page holds of n bytes from an address: the bytes that lie in the first page. -/
def pageRoom (va : Va) (n : Nat) : Nat := min n (65536 - va.toNat % 65536)

/-- Translate for an access of a kind, with the permission it needs of the leaf (R78, R79). -/
def Mach.access (m : Mach) (core : Nat) (g : Group) (va : Va) (acc : Nat) (perm : Leaf → Bool) :
    Except Trap (Mach × Loc × Leaf) :=
  match m.translate core g va with
  | (m, .ok l leaf) => if perm leaf then .ok (m, l, leaf) else .error (.fault .access va)
  | (_, .fault level) => .error (.xlat va acc level)
  | (_, .access) => .error (.fault .access va)
  | (_, .migrating) => .error .retry

/-- Read n bytes, at most two pages of them, that the instruction consumes: RD of each leaf, a tag check when the reader
has a tag (TAG is then a violation found by the caller), and the kill of an uncorrectable sector (R83, R369). -/
def Mach.readVa (m : Mach) (core : Nat) (g : Group) (va : Va) (n : Nat) (tag : Option FTag) :
    Except Trap (Mach × List Byte) :=
  let k := pageRoom va n
  match m.access core g va 0 (fun l => l.rd) with
  | .error t => .error t
  | .ok (m, l, _) =>
    let m := m.noteRead l k tag g.id.ctx core (m.seat core 0 g.uid) 0 va.toNat
    if m.anyClass l k tag SecClass.bad then .error (.kill va)
    else if k = n then .ok (m, m.bytesAt l n)
    else
      let vb := va + BitVec.ofNat 56 k
      match m.access core g vb 0 (fun l => l.rd) with
      | .error t => .error t
      | .ok (m, l', _) =>
        let m := m.noteRead l' (n - k) tag g.id.ctx core (m.seat core 0 g.uid) 0 vb.toNat
        if m.anyClass l' (n - k) tag SecClass.bad then .error (.kill vb)
        else .ok (m, m.bytesAt l k ++ m.bytesAt l' (n - k))

end Sys2Proof.Machine
end

