-- ==== Sys2Proof/Machine/Lines.lean ====
section
/-! DEFINITION. Row 9 of the opcode map and FLUSHL: opening, closing and flushing line registers, loads and stores
(R227 to R238), with what arrives later for them. -/

namespace Sys2Proof.Machine

/-! ### Addresses of an open -/

/-- The line address of an address (R232). -/
def lineVa (a : Va) : Va := a &&& ~~~127#56

/-- The address of thread t: the span's pointer and its offset (R232). -/
def spanAddr (g : Group) (f : Fields) (t : Nat) : Va := (g.span f.sp.toNat).ptr + (g.reg f.fb t).setWidth 56

/-- A new address at its place in a rising list, each once. -/
def insertVa (a : Va) : List Va → List Va
  | [] => [a]
  | b :: bs => if a.ult b then a :: b :: bs else if a = b then b :: bs else b :: insertVa a bs

/-- The distinct addresses of a list, ascending. -/
def sortVas (as : List Va) : List Va := as.foldl (fun l a => insertVa a l) []

/-- The lines an open keeps: those of the first line's kind, at most four (R232). -/
def keptLines : List Va → List Va
  | [] => []
  | l :: ls => (l :: ls.filter (fun x => inWindows x == inWindows l)).take 4

/-- The checks of an open before any effect, thread by thread (R232). -/
def openCheck (m : Mach) (core : Nat) (g : Group) (f : Fields) (write : Bool) : List Nat → Option Trap
  | [] => none
  | t :: ts =>
    let ln := lineVa (spanAddr g f t)
    let s := g.span f.sp.toNat
    match s.check ln.toNat 128 0 with
    | some e => some e
    | none =>
      if write && !s.perm.getLsbD 1 then some (.fault .protect ln)
      else if inWindows ln && (m.windowLoc core g ln).isNone then some (.fault .access ln)
      else openCheck m core g f write ts

/-- The locations of lines, with their leaves, or the first that has none. -/
def Mach.locate (m : Mach) (core : Nat) (g : Group) (acc : Nat) : List Va → Mach × Except Trap (List (Loc × Leaf))
  | [] => (m, .ok [])
  | va :: vs =>
    match m.translate core g va with
    | (m, .ok l leaf) =>
      match m.locate core g acc vs with
      | (m, .ok ls) => (m, .ok ((l, leaf) :: ls))
      | r => r
    | (m, .fault level) => (m, .error (.xlat va acc level))
    | (m, .access) => (m, .error (.fault .access va))
    | (m, .migrating) => (m, .error .retry)

/-! ### Claims of an open (R95, R234) -/

/-- A claim held by another group makes this opener wait or fail: an owner never waits on a harvest group (R234). -/
def Claim.blocks (c : Claim) (g : Group) : Bool :=
  c.uid != g.uid && !(!g.id.harvest && Config.harvestBase ≤ c.holder && c.holder < Config.supSlot)

/-- The harvest group that held the claim at index i loses it: its line register goes to LOST (R234). -/
def Mach.seizeClaim (m : Mach) (core i : Nat) (c : Claim) : Mach :=
  (m.dropClaim core i).modUid core c.holder c.uid (fun g => { g with
    lines := g.lines.mapVals (fun _ r =>
      if r.w && r.state != .closed && r.locs.contains c.line then { r with state := .lost } else r) })

/-- Take the claims of an open in ascending order: the lines taken, and whether all are held (R95 step 3). -/
def Mach.takeClaims (m : Mach) (core slot : Nat) (g : Group) : List Loc → List Loc → Mach × List Loc × Bool
  | taken, [] => (m, taken, true)
  | taken, l :: ls =>
    match (m.core core).claimOf l with
    | none =>
      if !g.id.copyIndex && (m.core core).estateFree = 0 then (m, taken, false)
      else (m.takeClaim core slot g l).takeClaims core slot g (taken ++ [l]) ls
    | some (i, c) =>
      if c.uid == g.uid then m.takeClaims core slot g taken ls
      else if c.blocks g then (m, taken, false)
      else ((m.seizeClaim core i c).takeClaim core slot g l).takeClaims core slot g (taken ++ [l]) ls

/-! ### Binding (R90, R91, R233) -/

/-- A global way's frame: the machine, the frame, whether its data are still to come, and whether a frame already present
disagrees with the tag (R233). -/
structure Way where
  mach : Mach
  frame : Nat
  pending : Bool
  mismatch : Bool

/-- The way's line is fetched into frame f. -/
def Mach.fetchInto (m : Mach) (core slot : Nat) (g : Group) (l way f : Nat) (line : Loc) (tag : FTag) : Mach :=
  m.send core slot g.uid line.place 0 false (.fetch l way f line tag)

/-- Bind one global way (R89, R90, R107, R233). -/
def Mach.bindWay (m : Mach) (core slot : Nat) (g : Group) (l way : Nat) (line : Loc) (va : Va) (tag : FTag) : Way :=
  let c := m.core core
  match c.findFrame line with
  | some f =>
    let fr := c.frame f
    if fr.state = .fetching || (fr.state != .pinned && fr.stale) then
      let m := m.modCore core (fun c => c.setFrame f { fr with state := .fetching, pins := fr.pins + 1, va, ctx := g.id.ctx })
      ⟨m.fetchInto core slot g l way f line tag, f, true, false⟩
    else
      let m := m.modCore core (fun c =>
        let c := if fr.state = .spec then c.count 9 1 g.id else c
        c.setFrame f { fr with state := .pinned, pins := fr.pins + 1, va, ctx := g.id.ctx })
      let tagged := match line with | .dram _ => true | _ => false
      ⟨m, f, false, tagged && fr.tag != tag⟩
  | none =>
    let f := c.takeFrame
    let m := m.modCore core (fun c => c.setFrame f { va, ctx := g.id.ctx, tag, line, pins := 1, state := .fetching })
    ⟨m.fetchInto core slot g l way f line tag, f, true, false⟩

/-- The ways bound so far. -/
structure Ways where
  mach : Mach
  frames : List (Option Nat) := []
  pending : Bool := false
  mismatch : Option Nat := none

/-- Bind the ways of an open, ascending. -/
def Mach.bindWays (m : Mach) (core slot : Nat) (g : Group) (l : Nat) (tag : FTag) (vas : List Va) (locs : List Loc) :
    Ways :=
  locs.foldl (fun (b : Ways) line =>
    let i := b.frames.length
    let w := b.mach.bindWay core slot g l i line (vas.getD i 0) tag
    ⟨w.mach, b.frames ++ [some w.frame], b.pending || w.pending,
     match b.mismatch with | some j => some j | none => if w.mismatch then some i else none⟩) { mach := m }

/-- The address of each participant of an open. -/
def OpenWait.aims (o : OpenWait) : List (Nat × Va) := (threadsOf o.parts).zip o.addrs

/-- The participants an open binds, with the way of each. -/
def OpenWait.bound (o : OpenWait) : List (Nat × Nat × Va) :=
  o.aims.filterMap (fun e => (o.kept.idxOf? (lineVa e.2)).map (fun i => (e.1, i, e.2)))

/-- The line register an open leaves (R62, R63, R232). -/
def LineReg.bind (r : LineReg) (o : OpenWait) (locs : List Loc) (frames : List (Option Nat)) (st : LineState) : LineReg :=
  let b := o.bound
  { tag := o.tag, lines := o.kept, locs, spad := o.kept.any inWindows, w := o.write, state := st, frames
    bound := maskOf (b.map (·.1))
    way := (List.range 32).map (fun t => match b.find? (fun e => e.1 == t) with
      | some e => BitVec.ofNat 2 e.2.1 | none => r.way.getD t 0)
    off := (List.range 32).map (fun t => match b.find? (fun e => e.1 == t) with
      | some e => e.2.2.setWidth 7 | none => r.off.getD t 0) }

/-- The status of each participant, and of the group: LSTS takes the highest participant's (R73, R232). -/
def OpenWait.statuses (o : OpenWait) (claimed : Bool) : List (Nat × Status) :=
  let b := o.bound
  o.aims.map (fun e => (e.1, if claimed then .claimed else if b.any (fun x => x.1 == e.1) then .ok else .partial_))

/-- An open's status reaches P and LSTS, and P's scoreboard bit clears; l's clears too when nothing is to come (R229). -/
def Mach.openStatus (m : Mach) (core slot : Nat) (g : Group) (o : OpenWait) (claimed pending : Bool) : Mach :=
  let sts := o.statuses claimed
  let ws := sts.map (fun e => RegWrite.pred o.p e.1 (e.2 == .ok)) ++
    (match sts.getLast? with | some e => [RegWrite.lsts e.2] | none => [])
  let clear := itemBit (itemPred o.p) ||| (if pending then 0 else itemBit (itemLine o.l))
  let m := m.modUid core slot g.uid (fun g => { applyWrites g ws with sb := g.sb &&& ~~~clear })
  m.modCore core (fun c =>
    let c := c.count 5 1 g.id
    let c := if sts.any (fun e => e.2 == .partial_) then c.count 6 1 g.id else c
    if claimed then c.count 7 1 g.id else c)

/-- The binding of an open whose claims are held: the pool check, the register, its frames and its statuses (R92, R232,
R233). -/
def Mach.openBind (m : Mach) (core slot : Nat) (g : Group) (o : OpenWait) (ls : List (Loc × Leaf)) (taken : List Loc) :
    Mach :=
  let spad := o.kept.any inWindows
  let refused := !spad && !(m.core core).poolFits g.id.harvest (o.kept.length - 1)
  let m := if refused then
      (m.modCore core (fun c => c.count 8 1 g.id)).dropLines core g.uid (taken.filter (fun x => (ls.drop 1).any (fun e => e.1 == x)))
    else m
  let o := if refused then { o with kept := o.kept.take 1 } else o
  let ls := if refused then ls.take 1 else ls
  let locs := ls.map (·.1)
  let setReg (m : Mach) (frames : List (Option Nat)) (st : LineState) : Mach :=
    m.modUid core slot g.uid (fun g => g.setLine o.l ((g.line o.l).bind o locs frames st))
  if spad then (setReg m (locs.map (fun _ => none)) .open_).openStatus core slot g o false false
  else if !ls.all (fun e => e.2.rd && (!o.write || e.2.w)) then
    (setReg m (locs.map (fun _ => none)) .error).openStatus core slot g o false false
  else
    let b := m.bindWays core slot g o.l o.tag o.kept locs
    match b.mismatch with
    | some i =>
      ((setReg b.mach b.frames .error).openStatus core slot g o false false).violation g.id.ctx core slot g.uid .tag
        (o.kept.getD i 0) (if o.write then 1 else 0)
    | none => (setReg b.mach b.frames .open_).openStatus core slot g o false b.pending

/-- How far an open has come: decided, waiting at a claim, or stopped by its translation. -/
inductive OpenEnd where
  | decided
  | waits (o : OpenWait)
  | trap (t : Trap)
  deriving DecidableEq, Repr

/-- An open goes on as far as it can (R95, R232, R233, R427). -/
def Mach.openGo (m : Mach) (core slot : Nat) (g : Group) (o : OpenWait) : Mach × OpenEnd :=
  match m.locate core g (if o.write then 1 else 0) o.kept with
  | (m, .error t) => (m, .trap t)
  | (m, .ok ls) =>
    if !o.write then (m.openBind core slot g o ls [], .decided)
    else
      let c := m.core core
      let locs := ls.map (·.1)
      let holds := c.claims.any (fun e => e.2.uid == g.uid)
      let others := locs.any (fun l => match c.claimOf l with | some (_, cl) => cl.blocks g | none => false)
      if !o.atClaim && holds && others then
        ((m.modUid core slot g.uid (fun g => g.setLine o.l { g.line o.l with state := .closed })).openStatus core slot g o
          true false, .decided)
      else match m.takeClaims core slot g o.taken locs with
        | (m, taken, false) => (m, .waits { o with taken, atClaim := true, token := none })
        | (m, taken, true) => (m.openBind core slot g o ls taken, .decided)

/-- The new claims that an OPEN.W needs (R232). A line whose translation is not known yet counts as one (DEDUCED, log 43). -/
def Mach.newClaims (m : Mach) (core : Nat) (g : Group) (kept : List Va) : Nat :=
  (kept.filter (fun va => match (m.translate core g va).2 with
    | .ok l _ => (match (m.core core).claimOf l with
      | some (_, cl) => cl.uid != g.uid
      | none => true)
    | _ => true)).length

/-- An open waits. While it does, the estate entries for its new claims are kept for it, so that the check made at its issue holds
(R128, R232; DEDUCED, log 43). -/
def Mach.openHold (m : Mach) (core slot : Nat) (g : Group) (o : OpenWait) : Mach :=
  let n := if !o.write || g.id.copyIndex then 0 else m.newClaims core g o.kept
  (m.modCore core (fun c => { c with reserved := c.reserved + n })).send core slot g.uid (9000 + core) 0 false
    (.openWait { o with reserved := n })

/-- An open meets a translation fault: its register is PENDING until the replay (R64, R78). -/
def Mach.openXlat (m : Mach) (core slot : Nat) (g : Group) (o : OpenWait) (va : Va) (acc level : Nat) : Mach :=
  let (token, m) := m.fresh
  let m := m.modUid core slot g.uid (fun g => g.setLine o.l { g.line o.l with state := .pending })
  (m.postFq g.id.ctx 1 acc va.toNat level core (some slot) [token]).openHold core slot g { o with token := some token }

/-- An open of a higher slot has been settled on the core in this cycle: this one reaches the table in a later cycle (R427, log 103). -/
def Core.opensLater (c : Core) (slot : Nat) : Bool := c.lastOpen.any (fun e => e.1 == c.cycle && slot < e.2)

/-- OPEN and OPEN.W (R232); opens of one cycle are settled in ascending slot (R427). -/
def openBody (write : Bool) : Body := fun _ w m => withGroup w m fun g =>
  let ts := g.participants w.f.g
  let l := w.f.l.toNat
  if ts = [] then .ok m
  else if (g.line l).state != .closed then .error (.fault .illegal 0)
  else match openCheck m w.core g w.f write ts with
    | some t => .error t
    | none =>
      let addrs := ts.map (spanAddr g w.f)
      let kept := keptLines (sortVas (addrs.map lineVa))
      let o : OpenWait := { l, p := w.f.p.toNat, write, tag := (g.span w.f.sp.toNat).tag, parts := maskOf ts, addrs, kept,
                            taken := [], atClaim := false, token := none }
      if write && !g.id.copyIndex && (m.core w.core).estateFree < m.newClaims w.core g kept then
        .error (.fault .estatefull 0)
      else if (m.core w.core).opensLater w.slot then .error .retry
      else
        let m := (m.modCore w.core (fun c => { c with lastOpen := some (c.cycle, w.slot) })).modUid w.core w.slot g.uid (fun g => { g with
          sb := g.sb ||| itemBit (itemLine l) ||| (if w.f.p = 0 then 0 else itemBit (itemPred w.f.p.toNat)) })
        match m.openGo w.core w.slot g o with
        | (m, .decided) => .ok m
        | (m, .waits o) => .ok (m.openHold w.core w.slot g o)
        | (m, .trap (.xlat va acc level _)) => .ok (m.openXlat w.core w.slot g o va acc level)
        | (_, .trap t) => .error t

/-- OPEN. -/
def bodyOpen : Body := openBody false
def execOpen (w : WordO) (s : State) : Host.Outcome State Fault Refusal := issue 4 (fieldsO 0x90 w) bodyOpen s

/-- OPEN.W. -/
def bodyOpenW : Body := openBody true
def execOpenW (w : WordO) (s : State) : Host.Outcome State Fault Refusal := issue 4 (fieldsO 0x91 w) bodyOpenW s

/-! ### What arrives for an open -/

/-- A fetch or an open that waits is still on its way for register l of a group. -/
def Mach.lineBusy (m : Mach) (uid core l : Nat) : Bool :=
  m.msgs.any (fun x => x.uid == uid && x.core == core && match x.body with
    | .fetch l' _ _ _ _ => l' == l
    | .openWait o => o.l == l
    | _ => false)

/-- Register l of a group goes to ERROR and its scoreboard bit clears (R64, R229). -/
def Mach.lineError (m : Mach) (core slot uid l : Nat) : Mach :=
  m.modUid core slot uid (fun g => { g.setLine l { g.line l with state := .error } with sb := g.sb &&& ~~~itemBit (itemLine l) })

/-- Register l has its data when nothing more is on its way. -/
def Mach.lineSettle (m : Mach) (core slot uid l : Nat) : Mach :=
  if m.lineBusy uid core l then m
  else m.modUid core slot uid (fun g => { g with sb := g.sb &&& ~~~itemBit (itemLine l) })

/-- The classes of a line's sectors under a tag, sector 0 first (R83). -/
def Mach.lineClasses (m : Mach) (line : Loc) (tag : FTag) : List SecClass :=
  [0, 1, 2, 3].map (fun i => m.classAt (line.plus (32 * i)) (some tag))

/-- POISON of a line with these classes. -/
def poisonOf (cs : List SecClass) : BitVec 4 :=
  (List.range 4).foldl (fun p i => if (cs.getD i .clean).bad then p ||| (1#4 <<< i) else p) 0

/-- The data of a line with these classes: a frame filled from its home. -/
def Frame.fill (fr : Frame) (m : Mach) (line : Loc) (tag : FTag) (cs : List SecClass) : Frame :=
  { fr with tag, poison := poisonOf cs, state := .pinned, stale := false, dirty := 0
            data := (List.range 128).map (fun i => (i, m.byteAt (line.plus i))) }

/-- A fetch brings its line (R233): the frame is filled, or the tag disagrees, which puts the register in ERROR and is a
violation; the way then keeps no frame. -/
def Mach.fetchArrive (m : Mach) (core slot uid l way f : Nat) (line : Loc) (tag : FTag) : Mach :=
  match m.findGroup core slot uid with
  | none => m
  | some g =>
    let fr := (m.core core).frame f
    let r := g.line l
    if fr.line != line || fr.state = .free || r.frames[way]? != some (some f) then m
    else
      let cs := m.lineClasses line tag
      let bad := if fr.state = .fetching then cs.contains .tagMismatch
        else match line with | .dram _ => fr.tag != tag | _ => false
      if bad then
        let m := if fr.state = .fetching then m.unpin core slot uid false .none .drop f else m
        let m := if fr.state = .fetching then
            m.modUid core slot uid (fun g => g.setLine l { g.line l with frames := (g.line l).frames.set way none })
          else m
        (m.lineError core slot uid l).violation g.id.ctx core slot uid .tag (r.lines.getD way 0) (if r.w then 1 else 0)
      else
        let m := if fr.state = .fetching then
            (m.modCore core (fun c => c.setFrame f (fr.fill m line tag cs))).noteLine line 128 (some tag) g.id.ctx core (some slot) 0
              (r.lines.getD way 0).toNat
          else m
        m.lineSettle core slot uid l

/-- An open that can never be translated: its register goes to ERROR over the lines it keeps, and the claims it has taken are dropped
(R64, R312; DEDUCED, log 43). -/
def Mach.openFail (m : Mach) (core slot : Nat) (g : Group) (o : OpenWait) : Mach :=
  ((m.dropLines core g.uid o.taken).modUid core slot g.uid (fun g => g.setLine o.l ((g.line o.l).bind o [] (o.kept.map (fun _ => none)) .error))).openStatus
    core slot g o false false

/-- The estate entries kept for a waiting open are given back. -/
def Mach.giveBack (m : Mach) (core : Nat) (o : OpenWait) : Mach :=
  m.modCore core (fun c => { c with reserved := c.reserved - o.reserved })

/-- A waiting open of a lower slot of the core can go on: it is settled first (R427). -/
def Mach.openBefore (m : Mach) (core slot : Nat) : Bool :=
  m.msgs.any (fun y => y.core == core && y.slot < slot && match y.body with
    | .openWait o => o.token.isNone && (match m.findGroup core y.slot y.uid with
      | some g => (match ((m.giveBack core o).openGo core y.slot g o).2 with
        | .waits o' => o' != o
        | .trap .retry => false
        | _ => true)
      | none => false)
    | _ => false)

/-- An open that waited goes on: none when nothing has changed for it. -/
def Mach.openArrive (m : Mach) (core slot uid : Nat) (o : OpenWait) : Option Mach :=
  match m.findGroup core slot uid with
  | none => some m
  | some g =>
    match o.token with
    | some _ => none
    | none =>
      if m.openBefore core slot then none else
      let m := m.giveBack core o
      match m.openGo core slot g o with
      | (m, .decided) => some m
      | (m, .waits o') => if o' = o then none else some (m.openHold core slot g o')
      | (m, .trap (.xlat va acc level _)) => some (m.openXlat core slot g o va acc level)
      | (m, .trap (.fault _ _)) => some (m.openFail core slot g o)
      | (_, .trap _) => none

/-! ### Closing and flushing (R235, R236) -/

/-- A write-back of register l that has not been acknowledged. -/
def Mach.writingBack (m : Mach) (uid core l : Nat) : Bool :=
  m.msgs.any (fun x => x.serves core uid && match x.body with
    | .writeBack _ _ _ _ _ _ (.line l' _) => l' == l
    | .wbAck l' _ => l' == l
    | _ => false)

/-- Register l closes, and its claims drop (R234, R235). -/
def Mach.lineClose (m : Mach) (core slot uid l : Nat) : Mach :=
  match m.findGroup core slot uid with
  | none => m
  | some g => (m.dropClaims core g l).modUid core slot uid (fun g => g.setLine l (g.line l).close)

/-- A write-back of the register is bound for host memory, and the host-write reserve is full: its group waits (R106). -/
def Mach.flushFull (m : Mach) (core : Nat) (g : Group) (r : LineReg) : Bool :=
  r.frames.any (fun fo => match fo with
    | some f => ((m.core core).frame f).dirty != 0 && m.noRoom g.id.ctx ((m.core core).frame f).line
    | none => false)

/-- RECALL and RECALL.D (R235). -/
def recallBody (how : Leave) : Body := fun _ w m => withGroup w m fun g =>
  let l := w.f.l.toNat
  let r := g.line l
  if g.participants w.f.g = [] || r.state == .closed then .ok m
  else if g.gated then .error .retry
  else if how == .recall && m.flushFull w.core g r then .error .noRoom
  else
    let m := m.unpinAll w.core w.slot g l (.line l true) (r.leave how)
    let m := m.modUid w.core w.slot g.uid (fun g => g.setLine l { g.line l with frames := r.frames.map (fun _ => none) })
    if m.writingBack g.uid w.core l then
      .ok (m.modUid w.core w.slot g.uid (fun g => { g with sb := g.sb ||| itemBit (itemLine l) }))
    else .ok (m.lineClose w.core w.slot g.uid l)

/-- RECALL. -/
def bodyRecall : Body := recallBody .recall
def execRecall (w : WordO) (s : State) : Host.Outcome State Fault Refusal := issue 4 (fieldsO 0x92 w) bodyRecall s

/-- RECALL.D. -/
def bodyRecallD : Body := recallBody .discard
def execRecallD (w : WordO) (s : State) : Host.Outcome State Fault Refusal := issue 4 (fieldsO 0x93 w) bodyRecallD s

/-- Check 1 of R65: the register is OPEN. `va` is the address that an ERROR register reports. -/
def LineReg.check1 (r : LineReg) (va : Va) : Option Trap :=
  match r.state with
  | .open_ => none
  | .error => some (.fault .access va)
  | .lost => some (.fault .leaselost 0)
  | _ => some (.fault .lineclosed 0)

/-- FLUSHL (R236). -/
def bodyFlushl : Body := fun _ w m => withGroup w m fun g =>
  let l := w.f.l.toNat
  let r := g.line l
  if g.participants w.f.g = [] then .ok m
  else match r.check1 (r.lines.getD 0 0) with
    | some t => .error t
    | none =>
      if g.gated then .error .retry
      else if m.flushFull w.core g r then .error .noRoom
      else
        let m := r.frames.foldl (fun m fo => match fo with
          | some f => m.sendDirty w.core w.slot g.uid g.id.duplex (.line l false) f
          | none => m) m
        .ok (if m.writingBack g.uid w.core l then
            m.modUid w.core w.slot g.uid (fun g => { g with sb := g.sb ||| itemBit (itemLine l) })
          else m)
def execFlushl (w : WordO) (s : State) : Host.Outcome State Fault Refusal := issue 4 (fieldsO 0xA7 w) bodyFlushl s

/-- What the acknowledgement of a write-back brings to one group, from the home of the line (R381). -/
def Mach.sendAck (m : Mach) (core slot uid home : Nat) : WbReply → Mach
  | .line l close => m.send core slot uid (9000 + core) 0 false (.wbAck l close) (some home)
  | _ => m

/-- A write-back arrives at its home (R86, R435), or a write of the engine that its store gate has held (R269, R325). -/
def Mach.writeBackArrive (m : Mach) (core slot uid : Nat) (twin : Option (Nat × Nat × Nat)) (line : Loc)
    (va : Va) (mask : BitVec 128) (poison : BitVec 4) (data : SMap Byte) (tag : FTag) (reply : WbReply) : Mach :=
  let ctx := match m.findGroup core slot uid with | some g => g.id.ctx | none => 0xFFFF
  let engine := reply == .engine
  let acc := if engine then 7 else 1
  let r := m.writeLine line mask poison data (some tag) ctx core (some slot) (if engine then none else some core) acc (some va)
  let m := if r.mismatch then
      r.mach.violation ctx core slot uid .tag va acc
    else r.mach
  let m := m.sendAck core slot uid line.place reply
  match twin with
  | some (c, s, u) => m.sendAck c s u line.place reply
  | none => m

/-- The acknowledgement of a write-back arrives at its core (R235, R236). -/
def Mach.ackArrive (m : Mach) (core slot uid l : Nat) (close : Bool) : Mach :=
  if m.writingBack uid core l then m
  else
    let m := if close then m.lineClose core slot uid l else m
    m.modUid core slot uid (fun g => { g with sb := g.sb &&& ~~~itemBit (itemLine l) })

/-! ### Loads and stores (R65, R237, R238) -/

/-- The way and the position of thread t's access of n bytes, after the checks of R65 (R238: W between 1 and 2). -/
def lineAccess (g : Group) (f : Fields) (n : Nat) (needW : Bool) (t : Nat) : Except Trap (Nat × Nat) :=
  let r := g.line f.l.toNat
  let way := (r.way.getD t 0).toNat
  let off := (r.off.getD t 0).toNat
  let line := r.lines.getD way 0
  let e := off + (g.reg f.fo t).toNat + f.s.toNat * n
  match r.check1 (line + BitVec.ofNat 56 e) with
  | some t => .error t
  | none =>
    if needW && !r.w then .error (.fault .protect (line + BitVec.ofNat 56 e))
    else if !r.bound.getLsbD t then .error (.fault .lineclosed 0)
    else if e % n != 0 then .error (.fault .align (line + BitVec.ofNat 56 e))
    else if 128 < e + n then .error (.fault .linebound (line + BitVec.ofNat 56 e))
    else .ok (way, e)

/-- The accesses of listed threads, ascending; the first failing thread's fault. -/
def lineAccesses (g : Group) (f : Fields) (n : Nat) (needW : Bool) : List Nat → Except Trap (List (Nat × Nat × Nat))
  | [] => .ok []
  | t :: ts =>
    match lineAccess g f n needW t with
    | .error e => .error e
    | .ok (way, e) => match lineAccesses g f n needW ts with
      | .error e => .error e
      | .ok r => .ok ((t, way, e) :: r)

/-- The byte at position e of a way: its frame's, or the scratchpad's. -/
def Mach.wayByte (m : Mach) (core : Nat) (r : LineReg) (way e : Nat) : Byte :=
  match r.frames[way]? with
  | some (some f) => ((m.core core).frame f).data.getD e 0
  | _ => m.byteAt ((r.locs.getD way (.dram 0)).plus e)

/-- The byte at position e of a way is uncorrectable (R237). -/
def Mach.wayBad (m : Mach) (core : Nat) (r : LineReg) (way e : Nat) : Bool :=
  match r.frames[way]? with
  | some (some f) => ((m.core core).frame f).poison.getLsbD (e / 32)
  | _ => (m.classAt ((r.locs.getD way (.dram 0)).plus e) none).bad

/-- n bytes of a way from position e. -/
def Mach.wayBytes (m : Mach) (core : Nat) (r : LineReg) (way e n : Nat) : List Byte :=
  (List.range n).map (fun i => m.wayByte core r way (e + i))

/-- The first listed access that reads an uncorrectable byte: its address. -/
def Mach.badAccess (m : Mach) (core : Nat) (r : LineReg) (n : Nat) (as : List (Nat × Nat × Nat)) : Option Va :=
  (as.find? (fun a => (List.range n).any (fun i => m.wayBad core r a.2.1 (a.2.2 + i)))).map
    (fun a => r.lines.getD a.2.1 0 + BitVec.ofNat 56 a.2.2)

/-- The words of a loaded datum: extended to one word, or the words of a wide one. -/
def loadWords (n : Nat) (signed : Bool) (bs : List Byte) : List Word :=
  if n ≤ 4 then [if signed then BitVec.ofInt 32 (sextNat (leNat bs) (8 * n)) else BitVec.ofNat 32 (leNat bs)]
  else (List.range (n / 4)).map (fun i => BitVec.ofNat 32 (leNat ((bs.drop (4 * i)).take 4)))

/-- The threads that pass before the last listed one does. -/
def lastPass (g : Group) (ts : List Nat) : Nat := (g.active.takeWhile (fun t => ts.getLast? != some t)).length

/-- An atomic, a put or a counter add of the group to these bytes of a scratchpad line is not performed yet: the group's next access
to them comes after it (R318). -/
def Mach.spadBusy (m : Mach) (core uid : Nat) (line : Loc) (mask : BitVec 128) : Bool :=
  line.isSpad && m.msgs.any (fun x => x.serves core uid &&
    let hits (l : Loc) (n : Nat) : Bool := l.line == line && (rangeMask l.off n &&& mask) != 0
    match x.body with
    | .put l _ k _ _ ctr _ => (l == line && (k &&& mask) != 0) || match ctr with | some c => hits c.1 4 | none => false
    | .atomic _ l _ n _ _ _ _ _ => hits l n
    | .counter l _ _ _ => hits l 4
    | _ => false)

/-- Some listed access of n bytes meets such bytes. -/
def Mach.waysBusy (m : Mach) (core uid : Nat) (r : LineReg) (n : Nat) (as : List (Nat × Nat × Nat)) : Bool :=
  as.any (fun a => m.spadBusy core uid (r.locs.getD a.2.1 (.dram 0)) (rangeMask a.2.2 n))

/-- A load of n bytes (R237): its data arrive 6 cycles after the last participant passes (R229). -/
def loadBody (n : Nat) (signed : Bool) : Body := fun _ w m => withGroup w m fun g =>
  let ts := g.participants w.f.g
  let r := g.line w.f.l.toNat
  match lineAccesses g w.f n false ts with
  | .error t => .error t
  | .ok as =>
    if as = [] then .ok m
    else if m.waysBusy w.core g.uid r n as then .error .retry
    else match m.badAccess w.core r n as with
      | some va => .error (.kill va)
      | none =>
        let k := max 1 (n / 4)
        let ws := as.flatMap (fun a =>
          writeWide w.f.fd a.1 0 (loadWords n signed (m.wayBytes w.core r a.2.1 a.2.2 n))) ++ writeTag w.f.fd k 0
        .ok (defer w m g (lastPass g ts + 6) ws (regItems w.f.fd k))

/-- A store of these bytes at position e of a way: into its frame, with its DIRTY bits, or in place (R238). -/
def Mach.wayStore (m : Mach) (core slot : Nat) (g : Group) (r : LineReg) (way e : Nat) (bs : List Byte) : Mach :=
  match r.frames[way]? with
  | some (some f) => m.modCore core (fun c => c.modFrame f (fun fr =>
      let dirty := fr.dirty ||| rangeMask e bs.length
      let full (i : Nat) : Bool := (dirty >>> (32 * i)).setWidth 32 == BitVec.allOnes 32
      { fr with
        dirty
        data := (bs.zipIdx).foldl (fun d b => d.set (e + b.2) b.1) fr.data
        poison := (List.range 4).foldl (fun p i => if full i then p &&& ~~~(1#4 <<< i) else p) fr.poison }))
  | _ => (m.writeAt ((r.locs.getD way (.dram 0)).plus e) bs none g.id.ctx core (some slot) none).mach

/-- The n low bytes of D in thread t (R238). -/
def storeBytes (g : Group) (d : RegField) (n t : Nat) : List Byte :=
  if n ≤ 4 then leBytes n (g.reg d t).toNat
  else (List.range (n / 4)).flatMap (fun i => leBytes 4 (g.regAt d i t).toNat)

/-- A store of n bytes (R238). -/
def storeBody (n : Nat) : Body := fun _ w m => withGroup w m fun g =>
  let ts := g.participants w.f.g
  let r := g.line w.f.l.toNat
  match lineAccesses g w.f n true ts with
  | .error t => .error t
  | .ok as =>
    if as = [] then .ok m
    else if g.gated || m.waysBusy w.core g.uid r n as then .error .retry
    else .ok (m.eachStore w.core w.slot g.uid (fun m a =>
      (m.wayStore w.core w.slot g r a.2.1 a.2.2 (storeBytes g w.f.fd n a.1)).signStore w.core w.slot g.uid
        (r.lines.getD a.2.1 0) (rangeMask a.2.2 n) (storeBytes g w.f.fd n a.1)) as)

/-- LD.B8S. -/
def bodyLdB8s : Body := loadBody 1 true
def execLdB8s (w : WordM) (s : State) : Host.Outcome State Fault Refusal := issue 4 (fieldsM 0x94 w) bodyLdB8s s
/-- LD.B8N. -/
def bodyLdB8n : Body := loadBody 1 false
def execLdB8n (w : WordM) (s : State) : Host.Outcome State Fault Refusal := issue 4 (fieldsM 0x95 w) bodyLdB8n s
/-- LD.H16S. -/
def bodyLdH16s : Body := loadBody 2 true
def execLdH16s (w : WordM) (s : State) : Host.Outcome State Fault Refusal := issue 4 (fieldsM 0x96 w) bodyLdH16s s
/-- LD.H16N. -/
def bodyLdH16n : Body := loadBody 2 false
def execLdH16n (w : WordM) (s : State) : Host.Outcome State Fault Refusal := issue 4 (fieldsM 0x97 w) bodyLdH16n s
/-- LD.W32. -/
def bodyLdW32 : Body := loadBody 4 false
def execLdW32 (w : WordM) (s : State) : Host.Outcome State Fault Refusal := issue 4 (fieldsM 0x98 w) bodyLdW32 s
/-- LD.W64. -/
def bodyLdW64 : Body := loadBody 8 false
def execLdW64 (w : WordM) (s : State) : Host.Outcome State Fault Refusal := issue 4 (fieldsM 0x99 w) bodyLdW64 s
/-- LD.W128. -/
def bodyLdW128 : Body := loadBody 16 false
def execLdW128 (w : WordM) (s : State) : Host.Outcome State Fault Refusal := issue 4 (fieldsM 0x9A w) bodyLdW128 s
/-- ST.B8. -/
def bodyStB8 : Body := storeBody 1
def execStB8 (w : WordM) (s : State) : Host.Outcome State Fault Refusal := issue 4 (fieldsM 0x9B w) bodyStB8 s
/-- ST.H16. -/
def bodyStH16 : Body := storeBody 2
def execStH16 (w : WordM) (s : State) : Host.Outcome State Fault Refusal := issue 4 (fieldsM 0x9C w) bodyStH16 s
/-- ST.W32. -/
def bodyStW32 : Body := storeBody 4
def execStW32 (w : WordM) (s : State) : Host.Outcome State Fault Refusal := issue 4 (fieldsM 0x9D w) bodyStW32 s
/-- ST.W64. -/
def bodyStW64 : Body := storeBody 8
def execStW64 (w : WordM) (s : State) : Host.Outcome State Fault Refusal := issue 4 (fieldsM 0x9E w) bodyStW64 s
/-- ST.W128. -/
def bodyStW128 : Body := storeBody 16
def execStW128 (w : WordM) (s : State) : Host.Outcome State Fault Refusal := issue 4 (fieldsM 0x9F w) bodyStW128 s

end Sys2Proof.Machine
end

