-- ==== Sys2Proof/Machine/Spans.lean ====
section
/-! DEFINITION. Row A of the opcode map: span registers and their sealed images, line status, tags, prefetch, the
v allocation and lent pages (R239 to R250). -/

namespace Sys2Proof.Machine

/-! ### Images and seals (R59, R61) -/

/-- The 192 bits of a span register. -/
def Span.image (s : Span) : BitVec 192 :=
  BitVec.ofNat 192 (s.ptr.toNat + s.tag.toNat * 2 ^ 56 + s.base.toNat * 2 ^ 64 + s.perm.toNat * 2 ^ 120 +
    s.limit.toNat * 2 ^ 128 + (if s.valid then 2 ^ 184 else 0))

/-- The span register that takes these 192 bits; reserved bits are dropped (R59). -/
def Span.ofImage (x : BitVec 192) : Span :=
  { valid := x.getLsbD 184, limit := x.extractLsb' 128 56, perm := x.extractLsb' 120 7, base := x.extractLsb' 64 56
    tag := x.extractLsb' 56 4, ptr := x.extractLsb' 0 56 }

/-- One SipRound. -/
def sipRound (v : Dword × Dword × Dword × Dword) : Dword × Dword × Dword × Dword :=
  let (v0, v1, v2, v3) := v
  let v0 := v0 + v1
  let v2 := v2 + v3
  let v1 := v1.rotateLeft 13 ^^^ v0
  let v3 := v3.rotateLeft 16 ^^^ v2
  let v0 := v0.rotateLeft 32
  let v2 := v2 + v1
  let v0 := v0 + v3
  let v1 := v1.rotateLeft 17 ^^^ v2
  let v3 := v3.rotateLeft 21 ^^^ v0
  (v0, v1, v2.rotateLeft 32, v3)

/-- One message word of SipHash-2-4. -/
def sipWord (v : Dword × Dword × Dword × Dword) (x : Dword) : Dword × Dword × Dword × Dword :=
  let (v0, v1, v2, v3) := v
  let (v0, v1, v2, v3) := sipRound (sipRound (v0, v1, v2, v3 ^^^ x))
  (v0 ^^^ x, v1, v2, v3)

/-- SipHash-2-4 of the 24 bytes of a span image under a 128-bit key (R61). -/
def sealOf (key : BitVec 128) (x : BitVec 192) : Dword :=
  let k0 := key.extractLsb' 0 64
  let k1 := key.extractLsb' 64 64
  let v : Dword × Dword × Dword × Dword :=
    (k0 ^^^ 0x736F6D6570736575#64, k1 ^^^ 0x646F72616E646F6D#64, k0 ^^^ 0x6C7967656E657261#64, k1 ^^^ 0x7465646279746573#64)
  let v := sipWord (sipWord (sipWord v (x.extractLsb' 0 64)) (x.extractLsb' 64 64)) (x.extractLsb' 128 64)
  let (v0, v1, v2, v3) := sipWord v 0x1800000000000000#64
  let (v0, v1, v2, v3) := sipRound (sipRound (sipRound (sipRound (v0, v1, v2 ^^^ 0xFF, v3))))
  v0 ^^^ v1 ^^^ v2 ^^^ v3

/-- The seal key of a group's context (R61). -/
def Mach.sealKey (m : Mach) (g : Group) : BitVec 128 := Config.sealKey (m.ctx g.id.ctx).sealDraw

/-! ### Span instructions (R239 to R244) -/

/-- Word i of the descriptor block named by A (R228). -/
def blockWord (g : Group) (f : Fields) (i : Nat) : Word := g.regAt f.fa i 0

/-- A 56-bit address from a low word and the low 24 bits of a high one. -/
def vaOfWords (lo hi : Word) : Va := (hi.extractLsb' 0 24 ++ lo)

/-- An instruction that acts once for the group, and only with a participant (R227). -/
def groupWide (k : Who → Mach → Group → Except Trap Mach) : Body := fun _ w m =>
  withGroup w m fun g => if g.participants w.f.g = [] then .ok m else k w m g

/-- A span register is written. -/
def putSpan (w : Who) (m : Mach) (n : Nat) (s : Span) : Except Trap Mach :=
  .ok (m.modGroup w.core w.slot (fun g => g.setSpan n s))

/-- SPSET (R239). -/
def bodySpset : Body := groupWide fun w m g =>
  let k := blockWord g w.f
  if (k 1).toNat >>> 28 != 0 || (k 3).toNat >>> 24 != 0 || (k 5).toNat >>> 24 != 0 || (k 6).toNat >>> 7 != 0 ||
    (k 7).toNat >>> 4 != 0 then .error (.fault .illegal 0)
  else putSpan w m ((k 7).toNat % 16)
    { valid := true, ptr := vaOfWords (k 0) (k 1), tag := (k 1).extractLsb' 24 4, base := vaOfWords (k 2) (k 3)
      limit := vaOfWords (k 4) (k 5), perm := (k 6).setWidth 7 }
def execSpset (w : WordA) (s : State) : Host.Outcome State Fault Refusal := issue 4 (fieldsA 0xA0 w) bodySpset s

/-- A span narrowed to new bounds and a permission mask (R240). -/
def Span.narrow (s : Span) (base limit : Va) (mask : BitVec 7) : Span :=
  let b := if base.ult s.base then s.base else base
  let l := if limit.ult s.limit then limit else s.limit
  { s with base := b, limit := if l.ult b then b else l, perm := s.perm &&& mask }

/-- SPNARROW (R240). -/
def bodySpnarrow : Body := groupWide fun w m g =>
  let k := blockWord g w.f
  let src := g.span ((k 1).toNat >>> 28)
  if (k 3).getLsbD 31 then .error (.fault .illegal 0)
  else if !src.valid then .error (.fault .span 0)
  else putSpan w m (((k 1).toNat >>> 24) % 16)
    (src.narrow (vaOfWords (k 0) (k 1)) (vaOfWords (k 2) (k 3)) ((k 3).extractLsb' 24 7))
def execSpnarrow (w : WordA) (s : State) : Host.Outcome State Fault Refusal :=
  issue 4 (fieldsA 0xA1 w) bodySpnarrow s

/-- SPADV (R241). -/
def bodySpadv : Body := groupWide fun w m g =>
  let k := blockWord g w.f 0
  let s := g.span (k.toNat % 16)
  let p := s.ptr + (g.reg w.f.fb 0).signExtend 56
  if !s.valid || p.ult s.base || s.limit.ult p then .error (.fault .span p)
  else putSpan w m (k.toNat % 16) { s with ptr := p }
def execSpadv (w : WordA) (s : State) : Host.Outcome State Fault Refusal := issue 4 (fieldsA 0xA2 w) bodySpadv s

/-- A part of a span (R242). -/
def Span.part (s : Span) (part : Nat) : Word :=
  let hi (x : Va) : Word := (x.extractLsb' 32 24).setWidth 32
  match part with
  | 0 => s.ptr.setWidth 32
  | 1 => hi s.ptr ||| (s.tag.setWidth 32 <<< 24)
  | 2 => s.base.setWidth 32
  | 3 => hi s.base
  | 4 => s.limit.setWidth 32
  | 5 => hi s.limit
  | _ => s.perm.setWidth 32 ||| (if s.valid then 256 else 0)

/-- SPGET (R242). -/
def bodySpget : Body := fun _ w m => withGroup w m fun g =>
  let ts := g.participants w.f.g
  let k := (blockWord g w.f 0).toNat
  if ts = [] then .ok m
  else if bitsOf k 4 4 != 0 || k >>> 11 != 0 || bitsOf k 8 3 = 7 then .error (.fault .illegal 0)
  else .ok (commit w m (writeAll w.f.fd ts ((g.span (k % 16)).part (bitsOf k 8 3)) ++ writeTag w.f.fd 1 2))
def execSpget (w : WordA) (s : State) : Host.Outcome State Fault Refusal := issue 4 (fieldsA 0xA3 w) bodySpget s

/-- The FCODE an access would raise (R243). -/
def Span.wouldRaise (s : Span) (a n perm : Nat) : Nat :=
  match s.check a n perm with
  | some (.fault c _) => c.num
  | _ => 0

/-- SPCHK (R243). -/
def bodySpchk : Body := fun _ w m => withGroup w m fun g =>
  let ts := g.participants w.f.g
  let k := (blockWord g w.f 0).toNat
  let size := bitsOf k 16 8
  if ts = [] then .ok m
  else if bitsOf k 4 4 != 0 || bitsOf k 11 5 != 0 || k >>> 24 != 0 || bitsOf k 8 3 = 7 || size = 0 || 128 < size then
    .error (.fault .illegal 0)
  else
    let s := g.span (k % 16)
    .ok (commit w m ((passes (fun g t => writeField w.f.fd t (BitVec.ofNat 32
      (s.wouldRaise (s.ptr + (g.reg w.f.fb t).setWidth 56).toNat size (bitsOf k 8 3)))) g ts).2 ++ writeTag w.f.fd 1 2))
def execSpchk (w : WordA) (s : State) : Host.Outcome State Fault Refusal := issue 4 (fieldsA 0xA4 w) bodySpchk s

/-- SPSAVE (R244). Its bytes may be operands of an engine operation (R284). -/
def bodySpsave : Body := groupWide fun w m g =>
  let r := g.line w.f.l.toNat
  let t := ((g.participants w.f.g).head?).getD 0
  match lineAccess g w.f 32 true t with
  | .error e => .error e
  | .ok (way, e) =>
    let x := (g.span ((g.reg w.f.fd 0).toNat % 16)).image
    if g.gated || m.waysBusy w.core g.uid r 32 [(t, way, e)] then .error .retry
    else .ok ((m.wayStore w.core w.slot g r way e (leBytes 24 x.toNat ++ leBytes 8 (sealOf (m.sealKey g) x).toNat)).touchOperands w.core
      w.slot g.uid ((List.range 32).map (fun i => r.lines.getD way 0 + BitVec.ofNat 56 (e + i))))
def execSpsave (w : WordM) (s : State) : Host.Outcome State Fault Refusal := issue 4 (fieldsM 0xA5 w) bodySpsave s

/-- A lane is occupied until at least n cycles have passed (R229). -/
def Mach.occupy (m : Mach) (core slot n : Nat) : Mach :=
  m.modCore core (fun c => c.modLane (laneOf slot) (fun l => { l with busyUntil := max l.busyUntil (c.cycle + n) }))

/-- A reserved bit of R59 is set in an image. -/
def reservedBits (x : BitVec 192) : Bool := x.extractLsb' 185 7 != 0 || x.extractLsb' 60 4 != 0 || x.getLsbD 127

/-- SPLOAD (R244, R61): a seal that differs freezes the group at the word. -/
def bodySpload : Body := groupWide fun w m g =>
  let r := g.line w.f.l.toNat
  let t := ((g.participants w.f.g).head?).getD 0
  match lineAccess g w.f 32 false t with
  | .error e => .error e
  | .ok (way, e) =>
    let va := r.lines.getD way 0 + BitVec.ofNat 56 e
    if m.waysBusy w.core g.uid r 32 [(t, way, e)] then .error .retry
    else match m.badAccess w.core r 32 [(t, way, e)] with
    | some va => .error (.kill va)
    | none =>
      let bs := m.wayBytes w.core r way e 32
      let x := BitVec.ofNat 192 (leNat (bs.take 24))
      if reservedBits x || sealOf (m.sealKey g) x != BitVec.ofNat 64 (leNat (bs.drop 24)) then .error (.freeze .protect va)
      else putSpan w (m.occupy w.core w.slot 8) ((g.reg w.f.fd 0).toNat % 16) (.ofImage x)
def execSpload (w : WordM) (s : State) : Host.Outcome State Fault Refusal := issue 4 (fieldsM 0xA6 w) bodySpload s

/-! ### LSTAT (R245) -/

/-- The status word of line register l in thread t. -/
def Mach.lstat (m : Mach) (core : Nat) (r : LineReg) (t : Nat) : Word :=
  let b := r.bound.getLsbD t
  let way := (r.way.getD t 0).toNat
  let fr : Frame := match r.frames[way]? with
    | some (some f) => if b then (m.core core).frame f else {}
    | _ => {}
  BitVec.ofNat 32 (fr.poison.toNat * 2 ^ 24 + (if fr.stale then 2 ^ 23 else 0) + r.state.num * 2 ^ 20 +
    (if r.w then 2 ^ 19 else 0) + (if r.spad then 2 ^ 18 else 0) + ((r.lines.length - 1) % 4) * 2 ^ 16 +
    (if b then 512 else 0) + way * 128 + (r.off.getD t 0).toNat)

/-- LSTAT. -/
def bodyLstat : Body := fun _ w m => withGroup w m fun g =>
  let ts := g.participants w.f.g
  .ok (commit w m (ts.flatMap (fun t => writeField w.f.fd t (m.lstat w.core (g.line w.f.l.toNat) t)) ++
    resultTag ts w.f.fd 1 2))
def execLstat (w : WordM) (s : State) : Host.Outcome State Fault Refusal := issue 4 (fieldsM 0xA8 w) bodyLstat s

/-! ### Tags (R246, R247) -/

/-- The line that thread t of TAGSET or TAGGET names. -/
def tagLine (g : Group) (f : Fields) (t : Nat) : Va :=
  lineVa ((g.span ((blockWord g f 0).toNat % 16)).ptr + (g.reg f.fb t).setWidth 56)

/-- The lines that TAGSET retags, thread by thread, after its checks (R246). -/
def tagsetCheck (core : Nat) (g : Group) (f : Fields) : Mach → List Nat → Except Trap (Mach × List (Loc × FTag))
  | m, [] => .ok (m, [])
  | m, t :: ts =>
    let ln := tagLine g f t
    let x := g.reg f.fd t
    match (g.span ((blockWord g f 0).toNat % 16)).check ln.toNat 128 5 with
    | some e => .error e
    | none =>
      if inWindows ln then .error (.fault .access ln)
      else match m.access core g ln 1 (fun l => l.target == 0 && l.w) with
        | .error e => .error e
        | .ok (m, l, _) =>
          if x.toNat % 16 = 15 then .error (.fault .protect ln)
          else match tagsetCheck core g f m ts with
            | .error e => .error e
            | .ok (m, r) => .ok (m, (l, x.setWidth 4) :: r)

/-- TAGSET (R246). The bytes it zeroes may be operands of an engine operation (R284). -/
def bodyTagset : Body := fun _ w m => withGroup w m fun g =>
  let ts := g.participants w.f.g
  if ts = [] then .ok m
  else match tagsetCheck w.core g w.f m ts with
    | .error e => .error e
    | .ok (m, ls) =>
      if g.gated then .error .retry
      else .ok ((ls.foldl (fun m e => m.send w.core w.slot g.uid e.1.place 0 g.id.duplex (.tagset e.1 e.2)) m).touchOperands w.core w.slot
        g.uid (ts.flatMap (fun t => (List.range 128).map (fun i => tagLine g w.f t + BitVec.ofNat 56 i))))
def execTagset (w : WordA) (s : State) : Host.Outcome State Fault Refusal := issue 4 (fieldsA 0xA9 w) bodyTagset s

/-- A TAGSET arrives at the line's home (R82, R246, R101). -/
def Mach.tagsetArrive (m : Mach) (core slot uid : Nat) (line : Loc) (tag : FTag) : Mach :=
  match line with
  | .dram a =>
    if m.inSaveArea a then
      match m.findGroup core slot uid with
      | some g => m.violation g.id.ctx core slot uid .tag 0 1
      | none => m
    else
      let m := (List.range 128).foldl (fun m i => { m with dram := m.dram.write (a + i) 0 }) m
      let m := { m with
        ecc := m.ecc.filter (fun e => !(a / 32 ≤ e.1 && e.1 < a / 32 + 4))
        tags := if tag = 0 then m.tags.erase (a / 128) else m.tags.set (a / 128) tag }
      ((m.cacheLine a tag ((m.findGroup core slot uid).elim 0xFFFF (·.id.ctx))).notices line none).wakeLine line
  | _ => m

/-- The tag a home finds by decoding a line's sectors with a tag of 0 (R247): 16 when none decides. -/
def Mach.findTag (m : Mach) (a : Nat) : Nat → Nat
  | 0 => 16
  | n + 1 =>
    let i := 3 - n
    let t := m.lineTag a
    let err := (if t = 0 then [] else [(36, t.setWidth 8)]) ++ m.ecc.getD (a / 32 + i) []
    match classify err with
    | .clean => 0
    | .tagMismatch => (syndrome err 0).toNat
    | _ => m.findTag a n

/-- TAGGET's answer at a home: the tag kept with the cached line, else the one its sectors show (R247). A line outside device memory has no tag the device keeps: it reads 0 (log 28). -/
def Mach.tagAt (m : Mach) (line : Loc) : Nat :=
  match line with
  | .dram a => match m.cachedTag a with
    | some t => t.toNat
    | none => m.findTag a 4
  | _ => 0

/-- The lines that TAGGET reads, after its checks. -/
def taggetCheck (core : Nat) (g : Group) (f : Fields) : Mach → List Nat → Except Trap (Mach × List (Nat × Loc))
  | m, [] => .ok (m, [])
  | m, t :: ts =>
    let ln := tagLine g f t
    match (g.span ((blockWord g f 0).toNat % 16)).check ln.toNat 128 0 with
    | some e => .error e
    | none =>
      match m.access core g ln 0 (fun l => l.rd) with
      | .error e => .error e
      | .ok (m, l, _) =>
        match taggetCheck core g f m ts with
        | .error e => .error e
        | .ok (m, r) => .ok (m, (t, l) :: r)

/-- TAGGET (R247). -/
def bodyTagget : Body := fun _ w m => withGroup w m fun g =>
  let ts := g.participants w.f.g
  if ts = [] then .ok m
  else match taggetCheck w.core g w.f m ts with
    | .error e => .error e
    | .ok (m, ls) =>
      let m := m.modUid w.core w.slot g.uid (fun g => { g with sb := g.sb ||| regItems w.f.fd 1 })
      .ok (ls.foldl (fun m e => m.send w.core w.slot g.uid e.2.place 0 false
        (.tagget e.2 w.f.fd e.1)) m)
def execTagget (w : WordA) (s : State) : Host.Outcome State Fault Refusal := issue 4 (fieldsA 0xAA w) bodyTagget s

/-- An answer for one thread of a word whose threads answer one by one: D's bits clear when none remains (R26), but for those that a
violation of another thread keeps set until the group is resumed (R253). -/
def Mach.threadAnswer (m : Mach) (core slot uid : Nat) (d : RegField) (n : Nat) (ws : List RegWrite) : Mach :=
  let more := m.msgs.any (fun x => x.serves core uid && match x.body with
    | .tagget _ d' _ => d' == d
    | .atomic _ _ _ _ _ _ _ d' _ => d' == d
    | _ => false) || m.fabricAtomics.any (fun x => x.d == d && (x.uid == uid && x.core == core ||
      match x.twin with | some (c, _, u) => c == core && u == uid | none => false))
  m.modUid core slot uid (fun g =>
    let g := applyWrites g ws
    if more then g else { g with sb := g.sb &&& ~~~(regItems d n &&& ~~~g.freezeBits) })

/-- TAGGET arrives at the line's home (R247). -/
def Mach.taggetArrive (m : Mach) (core slot uid : Nat) (line : Loc) (d : RegField) (t : Nat) : Mach :=
  m.threadAnswer core slot uid d 1 (writeField d t (BitVec.ofNat 32 (m.tagAt line)) ++ writeTag d 1 2)

/-! ### PREF and speculation (R107, R248) -/

/-- A fetch ahead of opens into a SPEC frame (R107): nothing when the line is present, its page cannot be read, its tag
disagrees, or no frame is free to take. -/
def Mach.specFetch (m : Mach) (core ctx : Nat) (va : Va) (line : Loc) (tag : FTag) : Mach :=
  let c := m.core core
  let linked := match line with | .host _ => !m.linkDown | _ => true
  if line.isSpad || !linked || (c.findFrame line).isSome then m
  else
    let cs := m.lineClasses line tag
    if cs.contains .tagMismatch then m
    else
      match (match SMap.freeKey c.frames Config.frames with
        | some f => some f
        | none => (c.frames.find? (fun e => e.2.state == .cached || e.2.state == .spec)).map (·.1)) with
      | none => m
      | some f => m.setCore core (c.setFrame f { (Frame.fill { line, va, ctx } m line tag cs) with state := .spec })

/-- PREF's checks and fetches, thread by thread (R248). -/
def prefCheck (g : Group) (f : Fields) : List Nat → Option Trap
  | [] => none
  | t :: ts =>
    match (g.span f.sp.toNat).check (lineVa (spanAddr g f t)).toNat 128 0 with
    | some e => some e
    | none => prefCheck g f ts

/-- PREF (R248). -/
def bodyPref : Body := fun _ w m => withGroup w m fun g =>
  let ts := g.participants w.f.g
  match prefCheck g w.f ts with
  | some e => .error e
  | none => .ok ((sortVas (ts.map (fun t => lineVa (spanAddr g w.f t)))).foldl (fun m va =>
      if inWindows va then m
      else match m.translate w.core g va with
        | (m', .ok l leaf) => if leaf.rd then m'.specFetch w.core g.id.ctx va l (g.span w.f.sp.toNat).tag else m
        | _ => m) m)
def execPref (w : WordO) (s : State) : Host.Outcome State Fault Refusal := issue 4 (fieldsO 0xAB w) bodyPref s

/-! ### GROW, SHRINK, LEND, RECLAIM (R249, R250) -/

/-- GROW (R249). -/
def bodyGrow : Body := groupWide fun w m g =>
  let n := w.f.imm.toNat
  let done (st : Status) : Except Trap Mach := .ok (m.setGroup w.core w.slot (g.grown n w.f.fd st))
  if n ≤ g.valloc then done .ok
  else if g.id.harvest && n = 47 then done .nospace
  else
    let (a, m) := m.fresh
    .ok ((m.setGroup w.core w.slot { g with wait := some (.grow n w.f.fd a) }).growServe w.core (laneOf w.slot) 16)
def execGrow (w : WordI) (s : State) : Host.Outcome State Fault Refusal := issue 4 (fieldsI 0xAC w) bodyGrow s

/-- The v registers from n on are lost (R249). -/
def Group.shrink (g : Group) (n : Nat) : Group :=
  { g with valloc := n, v := g.v.filter (fun e => e.1 < 32 * n), vtag := g.vtag.filter (fun e => e.1 < n) }

/-- SHRINK (R249). -/
def bodyShrink : Body := groupWide fun w m g =>
  let n := w.f.imm.toNat
  let g' := if g.valloc ≤ n then g else g.shrink n
  .ok ((m.setGroup w.core w.slot (applyWrites g' (statusWrites w.f.fd .ok))).growServe w.core (laneOf w.slot) 16)
def execShrink (w : WordI) (s : State) : Host.Outcome State Fault Refusal := issue 4 (fieldsI 0xAD w) bodyShrink s

/-- The pages that LEND or RECLAIM names, unless its block breaks the first row of R250. -/
def lendPages (m : Mach) (w : Who) (g : Group) : Option (Nat × Block × List Nat) :=
  let off := (blockWord g w.f 0).toNat
  let n := (blockWord g w.f 1).toNat
  match m.block? w.core g with
  | none => none
  | some b =>
    if g.id.harvest || n = 0 || off % Config.pageBytes != 0 || b.pages.length < off / Config.pageBytes + n then none
    else some (g.id.block, b, b.pageRange (off / Config.pageBytes) n)

/-- The status of LEND or RECLAIM arrives in D (R229). -/
def answerD (w : Who) (m : Mach) (g : Group) (st : Status) : Except Trap Mach :=
  .ok (defer w m g 0 (statusWrites w.f.fd st) (regItems w.f.fd 1))

/-- LEND (R250). Pages that a harvest block may use now are an opportunity for it (R340; DEDUCED, log 105). -/
def bodyLend : Body := groupWide fun w m g =>
  let cl := clusterOf w.core
  match lendPages m w g with
  | none => answerD w m g .mismatch
  | some (_, b, ps) =>
    let page (p : Nat) : Page := (m.cluster cl).pages.getD p {}
    let bound := b.members.any (fun e => match m.findGroup e.2.core e.2.slot e.2.uid with
      | some h => h.bindsIn cl ps | none => false)
    if ps.any (fun p => (page p).state != .alloc) || bound then answerD w m g .mismatch
    else answerD w (m.opportunity.modCluster cl (fun k => { k with
      pages := ps.foldl (fun t p => t.set p { t.getD p {} with state := .lent, lentTo := none }) k.pages })) g .ok
def execLend (w : WordA) (s : State) : Host.Outcome State Fault Refusal := issue 4 (fieldsA 0xAE w) bodyLend s

/-- RECLAIM (R250): the status arrives once every page is returned. -/
def bodyReclaim : Body := groupWide fun w m g =>
  match lendPages m w g with
  | none => answerD w m g .mismatch
  | some (bid, _, ps) =>
    let page (p : Nat) : Page := (m.cluster (clusterOf w.core)).pages.getD p {}
    if ps.any (fun p => (page p).state != .lent || (page p).block != bid) then answerD w m g .mismatch
    else
      let m := m.modUid w.core w.slot g.uid (fun g => { g with sb := g.sb ||| regItems w.f.fd 1 })
      .ok (m.reclaimPages w.core { op := opReclaim, ctx := g.id.ctx, slot := w.slot, uid := g.uid, kd := w.f.fd, pages := ps,
                                   due := 0 })
def execReclaim (w : WordA) (s : State) : Host.Outcome State Fault Refusal := issue 4 (fieldsA 0xAF w) bodyReclaim s

end Sys2Proof.Machine
end

