-- ==== Sys2Proof/Machine/Waits.lean ====
section
/-! DEFINITION. The wait-and-wake table (R133 to R135) and the hub watches of CWAIT (R256): registration, arming, waking and
polling. -/

namespace Sys2Proof.Machine

/-- The slice and the set of a key (R133). -/
def waitSlice (ctx : Nat) (va : Va) : Nat :=
  let w := va.toNat / 4
  (w % 256) ^^^ ((w >>> 8) % 256) ^^^ ((w >>> 16) % 256) ^^^ ((w >>> 24) % 256) ^^^ (ctx % 256)

def waitSet (ctx : Nat) (va : Va) : Nat :=
  let w := va.toNat / 4
  ((w >>> 32) % 16) ^^^ ((w >>> 36) % 16) ^^^ ((ctx >>> 8) % 16)

/-- The number of way 0 of a key's set in the table. -/
def waitBase (ctx : Nat) (va : Va) : Nat := (waitSlice ctx va * 16 + waitSet ctx va) * 16

/-- The word's address with its two low bits cleared: the key of R133. -/
def wordVa (va : Va) : Va := va &&& ~~~3#56

/-- The entry with a key. -/
def Mach.waitEntry (m : Mach) (ctx : Nat) (va : Va) : Option (Nat × WaitEntry) :=
  m.waitTab.find? (fun e => e.2.ctx == ctx && e.2.va == wordVa va)

/-- How a registration ends. -/
inductive Armed where
  | registered | woken | full
  deriving DecidableEq, Repr

/-- A waiter arrives at the table slice (R134, R135). -/
def Mach.arm (m : Mach) (ctx : Nat) (va : Va) (loc : Loc) (expected : Word) (w : Waiter) : Mach × Armed :=
  let v := m.word32 loc
  let place (k : Nat) (e : WaitEntry) : Mach × Armed :=
    if v = expected then
      ({ m with waitTab := m.waitTab.set k { e with armv := v, waiters := e.waiters ++ [w] } }, .registered)
    else if e.waiters = [] then (m, .woken)
    else ({ m with waitTab := m.waitTab.set k { e with armv := v } }, .woken)
  match m.waitEntry ctx va with
  | some (k, e) => if e.waiters.length < 16 then place k e else (m, .full)
  | none =>
    match (List.range 16).find? (fun i => (m.waitTab.get? (waitBase ctx va + i)).isNone) with
    | some i => place (waitBase ctx va + i) { ctx, va := wordVa va, loc, armv := 0, waiters := [] }
    | none => (m, .full)

/-- A WAKE of a key (R135). -/
def Mach.wakeKey (m : Mach) (ctx : Nat) (va : Va) : Mach :=
  match m.waitEntry ctx va with
  | some (k, _) => m.wakeEntry k
  | none => m

/-- A CWAIT's word is read at its place (R256): done, watched by the table or the hub, or to be read again. -/
def Mach.cwaitArrive (m : Mach) (core slot uid : Nat) (va : Va) (loc : Loc) (tag : FTag) : Mach :=
  match m.findGroup core slot uid with
  | none => m
  | some g =>
    match g.wait with
    | some (.cwait a target ctag _ len) =>
      let setWait (m : Mach) (x : Option Wait) : Mach := m.modUid core slot uid (fun g => { g with wait := x })
      match m.classAt loc (some tag) with
      | .tagMismatch => (setWait m none).violation g.id.ctx core slot uid .tag va 0
      | .poisoned => m.consumeUid core slot uid va
      | .uncorrectable => m.consumeUid core slot uid va
      | _ =>
        let m := m.noteRead loc 4 (some tag) g.id.ctx core (some slot) 0 va.toNat
        let v := m.word32 loc
        if reached v target then setWait (m.meet loc core slot uid 5) none
        else match loc with
          | .spad c x =>
            if (m.cluster c).watches.length < 64 then
              setWait (m.modCluster c (fun k => { k with watches := k.watches ++ [{ core, slot, uid, addr := x }] }))
                (some (.cwait a target ctag true len))
            else setWait m (some (.cwait a target ctag false len))
          | _ =>
            match m.arm g.id.ctx va loc v { host := none, core, slot, uid } with
            | (m, .registered) => setWait m (some (.cwait a target ctag true len))
            | (m, _) => setWait m (some (.cwait a target ctag false len))
    | _ => m

/-- A WAITW arrives at the table slice (R302). The read that arms it is classed under the span's tag as any other (R83): with a mismatch
the group is frozen and its wait is over with no status, and an uncorrectable word is consumed (DESIGN CHOICE, log 101). -/
def Mach.waitwArrive (m : Mach) (core slot uid : Nat) (va : Va) (loc : Loc) (tag : FTag) (expected : Word) (ks : RegField) : Mach :=
  match m.findGroup core slot uid with
  | none => m
  | some g =>
    let finish (m : Mach) (st : Status) : Mach := m.modUid core slot uid (fun g => g.finishWait ks st)
    match m.classAt loc (some tag) with
    | .tagMismatch => (m.modUid core slot uid (fun g => { g with wait := none })).violation g.id.ctx core slot uid .tag va 0
    | .poisoned => m.consumeUid core slot uid va
    | .uncorrectable => m.consumeUid core slot uid va
    | _ =>
      match (m.noteRead loc 4 (some tag) g.id.ctx core (some slot) 0 va.toNat).arm g.id.ctx va loc expected
        { host := none, core, slot, uid } with
      | (m, .registered) => m
      | (m, .woken) => finish m .ok
      | (m, .full) => finish m .full

end Sys2Proof.Machine
end

