-- ==== Sys2Proof/Machine/Atomics.lean ====
section
/-! DEFINITION. Row B of the opcode map: atomics, puts and counter waits (R251 to R256), with what arrives at their
places. -/

namespace Sys2Proof.Machine

/-! ### Atomics (R251 to R253) -/

/-- The new value of an atomic's location (R251). -/
def AtomOp.apply (op : AtomOp) (n : Nat) (old d expected : Dword) : Dword :=
  let o := old.setWidth 32
  let x := d.setWidth 32
  match op with
  | .add => if n = 8 then old + d else (o + x).setWidth 64
  | .fadd => BitVec.ofNat 64 (f32.addB o.toNat x.toNat)
  | .minS => (Machine.minS o x).setWidth 64
  | .maxS => (Machine.maxS o x).setWidth 64
  | .minN => (Machine.minN o x).setWidth 64
  | .maxN => (Machine.maxN o x).setWidth 64
  | .and_ => old &&& d
  | .or_ => old ||| d
  | .xor_ => old ^^^ d
  | .xchg => d
  | .cas => if old = expected then d else old

/-- A reduction window accepts the operation (R252). -/
def AtomOp.reduces : AtomOp → Bool
  | .xchg => false
  | .cas => false
  | _ => true

/-- The leaf lets an atomic through (R78, R251, R252). -/
def atomicLeaf (op : AtomOp) (l : Leaf) : Bool :=
  l.a && (l.target != 1 || l.aplace == 1) && (l.target != 3 || op.reduces)

/-- The locations of an atomic's accesses: a global line is translated anew, a scratchpad line is where it was bound. -/
def atomicLocs (core : Nat) (g : Group) (r : LineReg) (op : AtomOp) :
    Mach → List (Nat × Nat × Nat) → Except Trap (Mach × List (Nat × Va × Loc))
  | m, [] => .ok (m, [])
  | m, (t, way, e) :: as =>
    let va := r.lines.getD way 0 + BitVec.ofNat 56 e
    let here : Except Trap (Mach × Loc) :=
      if r.spad then .ok (m, (r.locs.getD way (.dram 0)).plus e)
      else match m.access core g va 2 (atomicLeaf op) with
        | .error e => .error e
        | .ok (m, l, _) => .ok (m, l)
    match here with
    | .error e => .error e
    | .ok (m, l) => match atomicLocs core g r op m as with
      | .error e => .error e
      | .ok (m, ls) => .ok (m, (t, va, l) :: ls)

/-- The operand and the expected value of thread t (R251). -/
def atomicOperand (g : Group) (op : AtomOp) (n : Nat) (d : RegField) (t : Nat) : Dword × Dword :=
  match op, n with
  | .cas, 8 => (g.regAt d 3 t ++ g.regAt d 2 t, g.reg64 d t)
  | .cas, _ => ((g.regAt d 1 t).setWidth 64, (g.reg d t).setWidth 64)
  | _, 8 => (g.reg64 d t, 0)
  | _, _ => ((g.reg d t).setWidth 64, 0)

/-- The operand bytes of thread t that a duplex signature covers, in register order: a compare's expected value and its new one
(R160). -/
def atomicBytes (g : Group) (op : AtomOp) (n : Nat) (d : RegField) (t : Nat) : List Byte :=
  let x := atomicOperand g op n d t
  if op == .cas then leBytes n x.2.toNat ++ leBytes n x.1.toNat else leBytes n x.1.toNat

/-- The reduction window entry of a fabric address (R398). -/
def Mach.windowOf (m : Mach) (a : Nat) : Option (Nat × RedWindow) :=
  m.windows.find? (fun e => e.2.base ≤ a && a < e.2.base + e.2.size)

/-- The device of a fabric location: a peer, or 1024 for the switches of the reduction windows. -/
def Loc.device : Loc → Option Nat
  | .peer d _ => some d
  | .rwin _ => some 1024
  | _ => none

/-- The number under which the identifiers of a fabric location run (R400): a peer's own, or 1024 above that of the home of its reduction
window. -/
def Mach.fabricDev (m : Mach) (loc : Loc) (dev : Nat) : Nat :=
  match loc with
  | .rwin a => dev + match m.windowOf a with | some (_, w) => w.home | none => 0
  | _ => dev

/-- An atomic request leaves the core; one for the fabric carries an identifier (R146, R400). -/
def Mach.sendAtomic (m : Mach) (core slot : Nat) (g : Group) (op : AtomOp) (n : Nat) (x : Dword × Dword) (tag : FTag)
    (d : RegField) (t : Nat) (va : Va) (loc : Loc) : Mach :=
  match loc.device with
  | none => m.send core slot g.uid loc.place 0 g.id.duplex (.atomic op loc va n x.1 x.2 tag d t)
  | some d0 =>
    let dev := m.fabricDev loc d0
    let rid := m.fabricRid.getD dev 0
    let a : FabricAtomic :=
      { dev, rid, target := loc, va, n, op, operand := x.1, expected := x.2, tag, core, slot, uid := g.uid, twin := none, d
        thread := t, performed := none, id := m.nextUid }
    let m := { m with fabricRid := m.fabricRid.set dev (rid + 1), fabricAtomics := m.fabricAtomics ++ [a] }
    m.send core slot g.uid loc.place 0 g.id.duplex (.fabric dev rid false)

/-- An atomic of n bytes (R251). -/
def atomicBody (op : AtomOp) (n : Nat) : Body := fun _ w m => withGroup w m fun g =>
  let ts := g.participants w.f.g
  let r := g.line w.f.l.toNat
  match lineAccesses g w.f n true ts with
  | .error e => .error e
  | .ok as =>
    if as = [] then .ok m
    else match atomicLocs w.core g r op m as with
      | .error e => .error e
      | .ok (m, ls) =>
        if g.gated then .error .retry
        else
          let d := w.f.fd
          let m := m.modUid w.core w.slot g.uid (fun g => { g with sb := g.sb ||| regItems d (n / 4) })
          .ok (m.eachStore w.core w.slot g.uid (fun m e =>
            (m.sendAtomic w.core w.slot g op n (atomicOperand g op n d e.1) r.tag d e.1 e.2.1 e.2.2).signStore w.core w.slot g.uid
              (lineVa e.2.1) (rangeMask (e.2.1.toNat % 128) n) (atomicBytes g op n d e.1)) ls)

/-- The bytes of a frame of this core that an atomic's result reaches: those whose DIRTY bit is clear (R251). -/
def Mach.refreshFrame (m : Mach) (core : Nat) (loc : Loc) (bs : List Byte) : Mach :=
  let c := m.core core
  match c.findFrame loc.line with
  | none => m
  | some f => m.setCore core (c.modFrame f (fun fr =>
      if fr.state = .fetching then fr
      else { fr with data := (bs.zipIdx).foldl (fun d b =>
        if fr.dirty.getLsbD (loc.off + b.2) then d else d.set (loc.off + b.2) b.1) fr.data }))

/-- The core that an atomic's stale notices pass over: the issuing one, when every byte of its frame there takes the new value
(R251, R325). -/
def Mach.freshCore (m : Mach) (core : Nat) (loc : Loc) (n : Nat) : Option Nat :=
  match (m.core core).findFrame loc.line with
  | none => some core
  | some f => if ((m.core core).frame f).dirty &&& rangeMask loc.off n = 0 then some core else none

/-- The old value of an atomic performed at its place, its new value stored there (R251). -/
def Mach.performAtomic (m : Mach) (ctx core slot : Nat) (op : AtomOp) (loc : Loc) (n : Nat) (operand expected : Dword)
    (tag : FTag) (va : Va) : Mach × Dword :=
  let old := BitVec.ofNat 64 (leNat (m.bytesAt loc n))
  let new := leBytes n (op.apply n old operand expected).toNat
  let m := (m.writeAt loc new (some tag) ctx core (some slot) (m.freshCore core loc n) 2 (some va)).mach
  (m.refreshFrame core loc new, old)

/-- The registers an atomic's answer writes in thread t (R251). -/
def atomicWrites (d : RegField) (n t : Nat) (old : Dword) : List RegWrite :=
  writeWide d t 0 ((words64 old).take (n / 4)) ++ writeTag d (n / 4) 0

/-- A violation at the home of a request that writes D: D's scoreboard bits stay until the group is resumed (R253,
R375). -/
def Mach.violationD (m : Mach) (core slot uid : Nat) (code : Code) (va : Va) (acc : Nat) (items : BitVec 96) : Mach :=
  match m.findGroup core slot uid with
  | none => m
  | some g =>
    (m.modUid core slot uid (fun g => { g with freezeBits := g.freezeBits ||| items })).violation g.id.ctx core slot uid
      code va acc

/-- An atomic request is performed at its place, and its reply reaches the group (R251, R253). -/
def Mach.atomicArrive (m : Mach) (core slot uid : Nat) (twin : Option (Nat × Nat × Nat)) (op : AtomOp) (loc : Loc) (va : Va)
    (n : Nat) (operand expected : Dword) (tag : FTag) (d : RegField) (t : Nat) : Mach :=
  if m.anyClass loc n (some tag) (· == .tagMismatch) then m.violationD core slot uid .tag va 2 (regItems d (n / 4))
  else if m.anyClass loc n (some tag) SecClass.bad then m.consumeUid core slot uid va 2
  else
    let ctx := match m.findGroup core slot uid with | some g => g.id.ctx | none => 0xFFFF
    let (m, old) := m.performAtomic ctx core slot op loc n operand expected tag va
    let m := m.threadAnswer core slot uid d (n / 4) (atomicWrites d n t old)
    match twin with
    | some (c, s, u) => m.threadAnswer c s u d (n / 4) (atomicWrites d n t old)
    | none => m

/-! ### Fabric atomics (R399, R400) -/

/-- The unanswered fabric atomic with an identifier. -/
def Mach.fabricAtomic? (m : Mach) (dev : Nat) (rid : Word) : Option FabricAtomic :=
  m.fabricAtomics.find? (fun x => x.dev == dev && x.rid == rid)

/-- A fabric atomic is answered (R399, R400). -/
def Mach.fabricAnswer (m : Mach) (x : FabricAtomic) (old : Dword) : Mach :=
  let m := { m with fabricAtomics := m.fabricAtomics.filter (fun y => !(y.dev == x.dev && y.rid == x.rid)) }
  let m := m.threadAnswer x.core x.slot x.uid x.d (x.n / 4) (atomicWrites x.d x.n x.thread old)
  match x.twin with
  | some (c, s, u) => m.threadAnswer c s u x.d (x.n / 4) (atomicWrites x.d x.n x.thread old)
  | none => m

/-- A fabric atomic ends without an answer. -/
def Mach.fabricDrop (m : Mach) (x : FabricAtomic) : Mach :=
  { m with fabricAtomics := m.fabricAtomics.filter (fun y => !(y.dev == x.dev && y.rid == x.rid)) }

/-- A fabric atomic ends without an answer: its group is frozen, and D keeps its old value (R397, R399, R400). -/
def Mach.fabricFreeze (m : Mach) (x : FabricAtomic) (code : Code := .access) : Mach :=
  (m.fabricDrop x).violationD x.core x.slot x.uid code x.va 2 (regItems x.d (x.n / 4))

/-- A fabric request or its reply arrives: a request that the peer has performed is not performed again (R147), the peer checks its
word as a home does (R397), and one for a window is held in the switches (R399). `me` is this device's number. -/
def Mach.fabricArrive (m : Mach) (me dev : Nat) (rid : Word) (reply : Bool) (twin : Option (Nat × Nat × Nat)) : Mach :=
  match m.fabricAtomic? dev rid with
  | none => m
  | some x =>
    let x := { x with twin := match twin with | some t => some t | none => x.twin }
    let put (m : Mach) (x : FabricAtomic) : Mach := { m with
      fabricAtomics := m.fabricAtomics.map (fun y => if y.dev == dev && y.rid == rid then x else y) }
    let respond (m : Mach) : Mach := m.send x.core x.slot x.uid (9000 + x.core) 0 false (.fabric dev rid true)
    match reply, x.performed with
    | true, some old => m.fabricAnswer x old
    | true, none => m
    | false, some _ => respond (put m x)
    | false, none =>
      match x.target with
      | .rwin a =>
        match m.windowOf a with
        | some (k, win) =>
          if !win.parts.getLsbD me then m.fabricFreeze x
          else if win.held.any (fun c => c.fabric == some (dev, rid)) then put m x
          else
            let c : Contribution := { src := me, loc := a, op := x.op, n := x.n, operand := x.operand, fabric := some (dev, rid) }
            put { m with windows := m.windows.set k { win with held := win.held ++ [c] } } x
        | none => m.fabricFreeze x
      | loc =>
        let ctx := match m.findGroup x.core x.slot x.uid with | some g => g.id.ctx | none => 0xFFFF
        if m.anyClass loc x.n (some x.tag) (· == .tagMismatch) then m.fabricFreeze x .tag
        else if m.anyClass loc x.n (some x.tag) SecClass.bad then (m.fabricDrop x).consumeUid x.core x.slot x.uid x.va 2
        else
          let (m, old) := m.performAtomic ctx x.core x.slot x.op loc x.n x.operand x.expected x.tag x.va
          respond (put m { x with performed := some old })

/-! ### Puts (R149, R254, R255) -/

/-- The place kinds that a put's destination and counter must share (R254): local, one peer, or the host. -/
def Loc.kindCode : Loc → Nat
  | .dram _ => 0
  | .spad _ _ => 0
  | .host _ => 1
  | .rwin _ => 2
  | .peer d _ => 3 + d

/-- A put's operands after its checks. -/
structure PutAim where
  mach : Mach
  dst : Loc
  dva : Va
  ctr : Option (Loc × Va × FTag)
  tag : FTag

/-- The checks of a put on its destination and counter (R254). A put with NOCTR may have its destination in a reduction window: R254
refuses one for the sake of its counter alone, and the window's bytes are then written as any others (DESIGN CHOICE, log 107). -/
def putAim (w : Who) (m : Mach) (g : Group) (len : Nat) : Except Trap PutAim :=
  let k := blockWord g w.f
  let c := (k 2).toNat
  let ds := g.span (bitsOf c 24 4)
  let cs := g.span (bitsOf c 28 4)
  let dst := ds.ptr + (k 0).signExtend 56
  let ctr := cs.ptr + (k 1).signExtend 56
  let noctr := c.testBit 23
  if 128 < dst.toNat % 128 + len then .error (.fault .align dst)
  else match ds.check dst.toNat len 1 with
    | some e => .error e
    | none =>
      if !noctr && ctr.toNat % 4 != 0 then .error (.fault .align ctr)
      else match (if noctr then none else cs.check ctr.toNat 4 2) with
        | some e => .error e
        | none =>
          match m.access w.core g dst 6 (fun l => l.w) with
          | .error e => .error e
          | .ok (m, dl, _) =>
            if noctr then .ok ⟨m, dl, dst, none, ds.tag⟩
            else match m.access w.core g ctr 6 (fun l => l.a) with
              | .error e => .error e
              | .ok (m, cl, _) =>
                if dl.kindCode != cl.kindCode || dl.kindCode = 2 then .error (.fault .access ctr)
                else .ok ⟨m, dl, dst, some (cl, ctr, cs.tag), ds.tag⟩

/-- A put of these bytes, by mask, leaves the core (R254). `data` lists offsets in the destination line. -/
def putSend (w : Who) (g : Group) (a : PutAim) (mask : BitVec 128) (data : SMap Byte) : Except Trap Mach :=
  let delta := (blockWord g w.f 2).setWidth 16
  if g.gated then .error .retry
  else if a.mach.noRoom g.id.ctx a.dst then .error .noRoom
  else
    .ok ((a.mach.send w.core w.slot g.uid a.dst.place 0 g.id.duplex
      (.put a.dst.line (lineVa a.dva) mask data a.tag a.ctr delta)).signStore w.core w.slot g.uid (lineVa a.dva) mask
        (data.map (·.2)))

/-- PUT (R254). -/
def bodyPut : Body := groupWide fun w m g =>
  let k3 := (blockWord g w.f 3).toNat
  let len := bitsOf (blockWord g w.f 2).toNat 16 7 + 1
  let r := g.line (bitsOf k3 8 3)
  let t := ((g.participants w.f.g).head?).getD 0
  let way := (r.way.getD t 0).toNat
  let line := r.lines.getD way 0
  let off := (r.off.getD t 0).toNat
  let e := off + k3 % 128
  if k3 >>> 11 != 0 || k3.testBit 7 then .error (.fault .illegal 0)
  else match r.check1 (line + BitVec.ofNat 56 e) with
    | some x => .error x
    | none =>
      if !r.bound.getLsbD t then .error (.fault .lineclosed 0)
      else if 128 < e + len then .error (.fault .linebound (line + BitVec.ofNat 56 e))
      else if m.waysBusy w.core g.uid r len [(t, way, e)] then .error .retry
      else match m.badAccess w.core r len [(t, way, e)] with
        | some va => .error (.kill va)
        | none =>
          match putAim w m g len with
          | .error x => .error x
          | .ok a =>
            let o := a.dst.off
            putSend w g a (rangeMask o len) ((m.wayBytes w.core r way e len).mapIdx (fun i b => (o + i, b)))
def execPut (w : WordA) (s : State) : Host.Outcome State Fault Refusal := issue 4 (fieldsA 0xBD w) bodyPut s

/-- PUTV (R254). -/
def bodyPutv : Body := groupWide fun w m g =>
  let c := (blockWord g w.f 2).toNat
  let ts := g.participants w.f.g
  let dst := (g.span (bitsOf c 24 4)).ptr + (blockWord g w.f 0).signExtend 56
  if bitsOf c 16 7 != 0 || blockWord g w.f 3 != 0 then .error (.fault .illegal 0)
  else if dst.toNat % 128 != 0 then .error (.fault .align dst)
  else match putAim w m g 128 with
    | .error x => .error x
    | .ok a =>
      putSend w g a (ts.foldl (fun k t => k ||| rangeMask (4 * t) 4) 0)
        (ts.flatMap (fun t => (leBytes 4 (g.reg w.f.fd t).toNat).mapIdx (fun i b => (4 * t + i, b))))
def execPutv (w : WordA) (s : State) : Host.Outcome State Fault Refusal := issue 4 (fieldsA 0xBE w) bodyPutv s

/-- The scratchpad pages of a put's destination no longer belong to the sender's context: it has been torn down (R100). -/
def Mach.tornDown (m : Mach) (ctx : Nat) (loc : Loc) : Bool :=
  match loc with
  | .spad c a =>
    let k := m.cluster c
    let p := k.pages.getD (a / Config.pageBytes) {}
    let user := match p.lentTo with
      | some b => (k.blocks.get? b).map (·.ctx)
      | none => none
    p.state == .free || (p.ctx != ctx && user != some ctx)
  | _ => false

/-- The address of a place within its memory, as a fault-queue entry gives it: a scratchpad byte's is its cluster-space address
(R96, R122; DEDUCED, log 89). -/
def Loc.address : Loc → Nat
  | .dram a => a
  | .host a => a
  | .peer _ a => a
  | .rwin a => a
  | .spad _ a => a

/-- A put finds its destination torn down: it is dropped, and an UNDELIVERABLE entry is posted (R100, R122, R255). -/
def Mach.undeliverable (m : Mach) (ctx core slot : Nat) (loc : Loc) (va : Va) : Mach :=
  m.postFq ctx 5 6 va.toNat loc.address core (some slot) []

/-- A put's data arrive at their place as message n, and its counter add goes on in the put's place (R149, R254, R255). A put whose data
the other copy of a duplex pair writes for both has none (R330). -/
def Mach.putArrive (m : Mach) (n : Nat) (x : Msg) (line : Loc) (dva : Va) (mask : BitVec 128) (data : SMap Byte)
    (tag : FTag) (ctr : Option (Loc × Va × FTag)) (delta : BitVec 16) : Mach :=
  match m.findGroup x.core x.slot x.uid with
  | none => m.takeMsg n
  | some g =>
    if m.tornDown g.id.ctx line then
      (m.takeMsg n).undeliverable g.id.ctx x.core x.slot (line.plus ((maskOffsets mask).headD 0)) dva
    else
      let r : Written := if mask = 0 then ⟨m, false⟩
        else m.writeLine line mask 0 data (some tag) g.id.ctx x.core (some x.slot) none 6 (some dva)
      if r.mismatch then (r.mach.takeMsg n).violation g.id.ctx x.core x.slot x.uid .tag dva 6
      else match ctr with
        | none => r.mach.takeMsg n
        | some (l, va, t) => r.mach.keepMsg n { x with place := l.place, body := .counter l va t delta }

/-- A put's counter add is performed (R149); `known` is what happens before the put. Its word is not consumed: of one that is
uncorrectable R149 and R255 say nothing, and R253 and R369 do not name it. Here the add is made to the bits that are stored, a sector
of device memory stays poisoned as by a write of part of it (R84), a scratchpad word, written whole, is good again, and no group is killed
(DESIGN CHOICE, log 102). -/
def Mach.counterArrive (m : Mach) (core slot uid : Nat) (loc : Loc) (va : Va) (tag : FTag) (delta : BitVec 16)
    (known : List Nat) : Mach :=
  match m.findGroup core slot uid with
  | none => m
  | some g =>
    if m.tornDown g.id.ctx loc then m.undeliverable g.id.ctx core slot loc va
    else
      let x := m.word32 loc + delta.signExtend 32
      let r := m.writeAt loc (leBytes 4 x.toNat) (some tag) g.id.ctx core (some slot) none 6 (some va)
      if r.mismatch then r.mach.violation g.id.ctx core slot uid .tag va 6 else r.mach.mark loc core g 5 known

/-! ### CWAIT (R256) -/

/-- CWAIT: the group waits until a read at the word's place finds it reached. -/
def bodyCwait : Body := groupWide fun w m g =>
  let k := blockWord g w.f
  let s := g.span ((k 2).toNat % 16)
  let va := s.ptr + (k 0).signExtend 56
  if (k 2).toNat >>> 4 != 0 || k 3 != 0 then .error (.fault .illegal 0)
  else if va.toNat % 4 != 0 then .error (.fault .align va)
  else match s.check va.toNat 4 0 with
    | some e => .error e
    | none =>
      match m.access w.core g va 0 (fun l => l.rd) with
      | .error e => .error e
      | .ok (m, l, _) =>
        .ok ((m.modGroup w.core w.slot (fun g => { g with wait := some (.cwait va (k 1) s.tag false w.len) })).send w.core w.slot g.uid
          l.place 0 false (.waiter va l s.tag 0 47 true))
def execCwait (w : WordA) (s : State) : Host.Outcome State Fault Refusal := issue 4 (fieldsA 0xBF w) bodyCwait s

/-! ### The atomics -/

/-- AADD. -/
def bodyAadd : Body := atomicBody .add 4
def execAadd (w : WordM) (s : State) : Host.Outcome State Fault Refusal := issue 4 (fieldsM 0xB0 w) bodyAadd s
/-- AADD64. -/
def bodyAadd64 : Body := atomicBody .add 8
def execAadd64 (w : WordM) (s : State) : Host.Outcome State Fault Refusal := issue 4 (fieldsM 0xB1 w) bodyAadd64 s
/-- AFADD. -/
def bodyAfadd : Body := atomicBody .fadd 4
def execAfadd (w : WordM) (s : State) : Host.Outcome State Fault Refusal := issue 4 (fieldsM 0xB2 w) bodyAfadd s
/-- AMIN.S. -/
def bodyAminS : Body := atomicBody .minS 4
def execAminS (w : WordM) (s : State) : Host.Outcome State Fault Refusal := issue 4 (fieldsM 0xB3 w) bodyAminS s
/-- AMAX.S. -/
def bodyAmaxS : Body := atomicBody .maxS 4
def execAmaxS (w : WordM) (s : State) : Host.Outcome State Fault Refusal := issue 4 (fieldsM 0xB4 w) bodyAmaxS s
/-- AMIN.N. -/
def bodyAminN : Body := atomicBody .minN 4
def execAminN (w : WordM) (s : State) : Host.Outcome State Fault Refusal := issue 4 (fieldsM 0xB5 w) bodyAminN s
/-- AMAX.N. -/
def bodyAmaxN : Body := atomicBody .maxN 4
def execAmaxN (w : WordM) (s : State) : Host.Outcome State Fault Refusal := issue 4 (fieldsM 0xB6 w) bodyAmaxN s
/-- AAND. -/
def bodyAand : Body := atomicBody .and_ 4
def execAand (w : WordM) (s : State) : Host.Outcome State Fault Refusal := issue 4 (fieldsM 0xB7 w) bodyAand s
/-- AOR. -/
def bodyAor : Body := atomicBody .or_ 4
def execAor (w : WordM) (s : State) : Host.Outcome State Fault Refusal := issue 4 (fieldsM 0xB8 w) bodyAor s
/-- AXOR. -/
def bodyAxor : Body := atomicBody .xor_ 4
def execAxor (w : WordM) (s : State) : Host.Outcome State Fault Refusal := issue 4 (fieldsM 0xB9 w) bodyAxor s
/-- AXCHG. -/
def bodyAxchg : Body := atomicBody .xchg 4
def execAxchg (w : WordM) (s : State) : Host.Outcome State Fault Refusal := issue 4 (fieldsM 0xBA w) bodyAxchg s
/-- ACAS. -/
def bodyAcas : Body := atomicBody .cas 4
def execAcas (w : WordM) (s : State) : Host.Outcome State Fault Refusal := issue 4 (fieldsM 0xBB w) bodyAcas s
/-- ACAS64. -/
def bodyAcas64 : Body := atomicBody .cas 8
def execAcas64 (w : WordM) (s : State) : Host.Outcome State Fault Refusal := issue 4 (fieldsM 0xBC w) bodyAcas64 s

end Sys2Proof.Machine
end

