-- ==== Sys2Proof/Machine/Mesh.lean ====
section
/-! DEFINITION. The mesh (R3, R380 to R383): the sites of cores and home slices, the route of a packet with its turn and its three legs,
the dies it crosses, the parts of the device whose clocks run (R49, R403, R404), and the flits that a message takes (R159, R383). -/

namespace Sys2Proof.Machine

/-! ### Sites (R3, R380) -/

/-- A site of the grid: its column and its row. -/
structure Site where
  x : Nat
  y : Nat
  deriving DecidableEq, Repr

/-- The die of a site (R3). -/
def Site.die (s : Site) : Nat := s.x / 16 + 2 * (s.y / 8)

/-- Full-router sites hold cores, half-router sites hold home slices (R3). -/
def Site.full (s : Site) : Bool := (s.x + s.y) % 2 == 0

/-- The physical cluster and the member index at a full-router site (R380). -/
def Site.cluster (s : Site) : Nat := s.x / 4 + 8 * (s.y / 4)
def Site.member (s : Site) : Nat := 2 * (s.y % 4) + s.x % 4 / 2

/-- The physical core at a full-router site, and the home slice at a half-router site (R380). -/
def Site.core (s : Site) : Nat := 8 * s.cluster + s.member
def Site.slice (s : Site) : Nat := 64 * s.die + 8 * (s.y % 8) + s.x % 16 / 2

/-- The site of a physical core. -/
def coreSite (c : Nat) : Site :=
  let y := 4 * (clusterOf c / 8) + memberOf c / 2
  { x := 4 * (clusterOf c % 8) + 2 * (memberOf c % 2) + y % 2, y }

/-- The site of a home slice. -/
def sliceSite (s : Nat) : Site :=
  let y := 8 * (s / 128) + s % 64 / 8
  { x := 16 * (s / 64 % 2) + 2 * (s % 8) + (y + 1) % 2, y }

/-! ### Routes (R381) -/

/-- The column in which a packet between two rows travels along Y. -/
def turnCol (s d : Site) : Nat :=
  if (d.x + s.y) % 2 = 0 then d.x
  else if d.x < s.x then (if 0 < d.x then d.x - 1 else d.x + 1)
  else if d.x < 31 then d.x + 1 else d.x - 1

/-- A leg of a route: its number, which is the packet's class on it (R382), and its two ends. -/
structure Leg where
  num : Nat
  src : Site
  dst : Site
  deriving DecidableEq, Repr

/-- The hops of a leg, which keeps to one row or one column. -/
def Leg.hops (l : Leg) : Nat := (max l.src.x l.dst.x - min l.src.x l.dst.x) + (max l.src.y l.dst.y - min l.src.y l.dst.y)

/-- The legs of a packet, those of no hops left out (R381). -/
def route (s d : Site) : List Leg :=
  let t := turnCol s d
  let legs : List Leg := if s.y = d.y then [{ num := 1, src := s, dst := d }]
    else [{ num := 1, src := s, dst := { x := t, y := s.y } },
          { num := 2, src := { x := t, y := s.y }, dst := { x := t, y := d.y } },
          { num := 3, src := { x := t, y := d.y }, dst := d }]
  legs.filter (fun l => l.hops != 0)

/-- The dies that a leg touches: a leg keeps to a row or a column, so these are the dies of its two ends. -/
def Leg.dies (l : Leg) : List Nat := [l.src.die, l.dst.die]

/-- The dies that accept a packet on its way from one site to another: those of its source, its turns and its end. -/
def routeDies (s d : Site) : List Nat := (s.die :: d.die :: (route s d).flatMap Leg.dies).eraseDups

/-- The site at which a packet to a place leaves the mesh: a slice's or a core's own, and member 0's for a hub, whose traffic from
outside enters there (R380). The spec gives the ports to the host and to peers no site. -/
def placeSite (place : Nat) : Option Site :=
  if place < 256 then some (sliceSite place)
  else if 1000 ≤ place && place < 1256 then some (coreSite (place - 1000))
  else if 6000 ≤ place && place < 6032 then some (coreSite (8 * (place - 6000)))
  else if 9000 ≤ place && place < 9256 then some (coreSite (place - 9000))
  else none

/-- The site from which a message travels: that of the home or the hub which answers (R380, R381), else its core's. -/
def Msg.origin (x : Msg) : Site := (x.src.bind placeSite).getD (coreSite x.core)

/-- A request that is answered where it is performed, in the same step: its answer goes back to its core by legs of its own. -/
def Msg.answered (x : Msg) : Bool :=
  match x.body with
  | .fetch _ _ _ _ _ => true
  | .atomic _ _ _ _ _ _ _ _ _ => true
  | .tagget _ _ _ => true
  | .object _ _ _ _ _ => true
  | .waiter _ _ _ _ _ _ => true
  | .wake _ _ => true
  | .task _ _ _ => true
  | _ => false

/-! ### Which parts of the device take part (R49, R397, R403, R404) -/

/-- The die of a cluster (R3, R380). -/
def dieOfCluster (cl : Nat) : Nat := cl % 8 / 4 + 2 * (cl / 16)

/-- The clocks of a die run: no thermal trip, and the die is not at level 4 (R403, R404). -/
def Device.dieRuns (d : Device) (die : Nat) : Bool := d.running && d.levels.getD die 2 != 4

/-- The clock of a cluster's cores runs (R49). -/
def Device.awake (d : Device) (cl : Nat) : Bool := d.dieRuns (dieOfCluster cl) && !d.gated.contains cl

/-- What stands at a place takes part: a slice's die runs, a bank's or a hub's cluster is awake, and a peer is reached by a trained
port (R397, R403, R406). -/
def Device.serves (d : Device) (place : Nat) : Bool :=
  if place < 256 then d.dieRuns (place / 64)
  else if place < 2000 then d.awake ((place - 1000) / 8)
  else if place < 3000 then d.running
  else if place < 6000 then d.running && d.ports.contains true
  else if place < 9000 then d.awake (place - 6000)
  else d.awake (clusterOf (place - 9000))

/-- A message gets to its place: every die on its route accepts it, and on the route of an answer given in the same step (R381, R403), and
its end takes part. -/
def Device.reaches (d : Device) (x : Msg) : Bool :=
  d.serves x.place && match placeSite x.place with
    | some site => (routeDies x.origin site).all d.dieRuns && (!x.answered || (routeDies site x.origin).all d.dieRuns)
    | none => d.dieRuns x.origin.die

/-! ### Flits (R159, R383) -/

/-- The sectors of 32 bytes that a mask touches. -/
def maskSectors (mask : BitVec 128) : Nat := ((List.range 4).filter (fun i => (mask >>> (32 * i)).setWidth 32 != 0#32)).length

/-- The flits in which a core sends a request into the mesh: one header flit, and the data flits (R383); operands of atomics, objects
and waiters travel in one data flit (DESIGN CHOICE, log 27). None for an answer, a counter add behind its put, and what stays in
the cluster of the core. -/
def Msg.flits (x : Msg) : Option Nat :=
  match x.body with
  | .writeBack line _ mask _ _ _ _ => if line.isSpad then none else some (1 + maskSectors mask)
  | .put loc _ mask _ _ _ _ => if loc.isSpad then none else some (1 + maskSectors mask)
  | .fetch _ _ _ line _ => if line.isSpad then none else some 1
  | .atomic _ loc _ _ _ _ _ _ _ => if loc.isSpad then none else some 2
  | .fabric _ _ reply => if reply then none else some 2
  | .tagset _ _ => some 1
  | .tagget _ _ _ => some 1
  | .object _ loc _ _ _ => if loc.isSpad then none else some 2
  | .waiter _ loc _ _ _ _ => if loc.isSpad then none else some 2
  | .wake _ _ => some 1
  | .task _ _ _ => if x.place == hubPlace (clusterOf x.core) then none else some 2
  | _ => none

/-- The congestion count of a site's router on a plane (R158). -/
def Mach.routerCount (m : Mach) (s : Site) (plane : Nat) : BitVec 8 :=
  if s.full then (m.core s.core).congestion.getD plane 0 else m.halves.getD (4 * s.slice + plane) 0

/-- The congestion count of a site's router becomes n (R158). -/
def Mach.setCount (m : Mach) (s : Site) (plane : Nat) (n : BitVec 8) : Mach :=
  if s.full then m.modCore s.core (fun c => { c with congestion := c.congestion.set plane n })
  else { m with halves := m.halves.set (4 * s.slice + plane) n }

/-- A lit plane reports congestion at an injection point: the count of its router there reaches the plane's threshold (R158). -/
def Mach.congested (m : Mach) (d : Device) (s : Site) (plane : Nat) : Bool :=
  !(m.routerCount s plane).ult (d.thresholds.getD plane 0)

/-- The plane on which a site injects a packet: the lowest lit one that does not report congestion, else the highest lit one
(R158, R383). -/
def Mach.injectPlane (m : Mach) (d : Device) (s : Site) : Option Nat :=
  let lit := (List.range 4).filter (fun p => d.planes.getD p .dark == .lit)
  match lit.find? (fun p => !m.congested d s p) with
  | some p => some p
  | none => lit.getLast?

/-- A core injects n flits for the group in a slot (R159). -/
def Mach.inject (m : Mach) (d : Device) (core slot n : Nat) : Mach :=
  if n = 0 then m
  else match m.injectPlane d (coreSite core) with
    | some p => m.modCore core (fun c => c.countFor (some slot) (14 + p) n)
    | none => m

/-- The flits of a message are counted where its core injects them (R159; with its arrival, log 27). -/
def Mach.countFlits (m : Mach) (d : Device) (x : Msg) : Mach :=
  match x.flits with
  | some n => m.inject d x.core x.slot n
  | none => m

/-- The flits of an engine's access to n bytes at a home: one header for each line, and a write's data sectors (R159, R383, log 27). -/
def accessFlits (l : Loc) (n : Nat) (write : Bool) : Nat :=
  if l.isSpad || n = 0 then 0
  else (l.off + n + 127) / 128 + (if write then (l.off % 32 + n + 31) / 32 else 0)

end Sys2Proof.Machine
end

