-- ==== Sys2Proof/Machine/Copies.lean ====
section
/-! DEFINITION. Row C of the opcode map, positions 0 to 8: copies, drains, batches and write pointers (R257 to R265), with the
layout cache (R139 to R141), the channels (R124, R125, R156) and the wharf (R103). -/

namespace Sys2Proof.Machine

/-! ### Layout records (R139, R140) -/

/-- A layout record as 64 bytes give it; none when a field breaks R140. -/
def layoutOf (bs : List Byte) : Option Layout :=
  let at' (o n : Nat) : Nat := leNat ((bs.drop o).take n)
  let ndim := at' 1 1
  let tagf := at' 0 1
  let esz := at' 2 1
  if ndim = 0 || 5 < ndim || 3 < esz % 8 || 8 ≤ esz || 16 ≤ tagf || at' 63 1 != 0 then none
  else some
    { base := BitVec.ofNat 56 (at' 56 7), pad := BitVec.ofNat 32 (at' 52 4)
      stride := (List.range (ndim - 1)).map (fun d => sextNat (at' (28 + 6 * d) 6) 48)
      ext := (List.range ndim).map (fun d => at' (8 + 4 * d) 4), box := (List.range ndim).map (fun d => at' (3 + d) 1)
      esize := esz % 8, ndim, tag := BitVec.ofNat 4 tagf }

/-- Use a record of the cluster's layout cache: it becomes the most recent (R140). -/
def Cluster.useLayout (k : Cluster) (e : LayoutEntry) : Cluster :=
  { k with layouts := (e :: k.layouts.filter (fun x => !(x.ctx == e.ctx && x.index == e.index))).take 1024 }

/-- The lookup of a layout handle by a copy (R140). -/
def Mach.layout (m : Mach) (core : Nat) (g : Group) (handle : Word) : Except Trap (Mach × Layout) :=
  let c := m.ctx g.id.ctx
  let cl := clusterOf core
  let i := handle.toNat
  let va := c.laybase + BitVec.ofNat 56 (64 * i)
  if 2 ^ 24 ≤ i || c.laycount ≤ i then .error (.fault .access va)
  else match (m.cluster cl).layouts.find? (fun e => e.ctx == g.id.ctx && e.index == i) with
    | some e => .ok (m.modCluster cl (fun k => k.useLayout e), e.record)
    | none =>
      match m.access core g va 0 (fun l => l.rd) with
      | .error e => .error e
      | .ok (m, l, _) =>
        let m := m.noteRead l 64 none g.id.ctx core (m.seat core 0 g.uid) 0 va.toNat
        if m.anyClass l 64 none SecClass.bad then .error (.fault .access va)
        else match layoutOf (m.bytesAt l 64) with
          | none => .error (.fault .access va)
          | some r => .ok (m.modCluster cl (fun k => k.useLayout { ctx := g.id.ctx, index := i, record := r }), r)

/-! ### The bytes of an entry (R258) -/

/-- The coordinates within a box of position p, dimension 0 fastest. -/
def boxDigits : List Nat → Nat → List Nat
  | [], _ => []
  | b :: bs, p => p % (b + 1) :: boxDigits bs (p / (b + 1))

/-- The box coordinates of position p on the span side: dimension 1 fastest for the transposing forms (R258). -/
def CopyEntry.digits (e : CopyEntry) (p : Nat) : List Nat :=
  let tr : List Nat :=
    let n := e.layout.box.getD 1 0 + 1
    (p / n) :: (if 1 < e.layout.ndim then (p % n) :: List.replicate (e.layout.ndim - 2) 0 else [])
  match e.kind with
  | .tr8 => tr
  | .tr16 => tr
  | _ => boxDigits e.layout.box p

/-- The address that a layout gives to coordinates, in bounds or not (R139). -/
def Layout.place (r : Layout) (cs : List Int) : Va :=
  let strides := (2 ^ r.esize : Int) :: r.stride
  r.base + BitVec.ofInt 56 ((cs.zip strides).foldl (fun a c => a + c.1 * c.2) 0)

/-- Layout coordinates are in bounds (R140). -/
def Layout.holds (r : Layout) (cs : List Int) : Bool := (cs.zip r.ext).all (fun c => decide (0 ≤ c.1 ∧ c.1 < (c.2 : Int)))

/-- The address of layout coordinates; none when they are out of bounds (R139, R140). -/
def Layout.elem (r : Layout) (cs : List Int) : Option Va := if r.holds cs then some (r.place cs) else none

/-- The coordinates of stream byte s on the layout side. -/
def CopyEntry.coords (e : CopyEntry) (s : Nat) : List Int :=
  (e.digits (s / 2 ^ e.layout.esize)).zipIdx.map (fun d => e.origin.getD d.2 0 + (d.1 : Int))

/-- The layout-side address of stream byte s; none for padding. -/
def CopyEntry.layoutByte (e : CopyEntry) (s : Nat) : Option Va :=
  (e.layout.elem (e.coords s)).map (· + BitVec.ofNat 56 (s % 2 ^ e.layout.esize))

/-- The padding byte of stream byte s (R139). -/
def CopyEntry.padByte (e : CopyEntry) (s : Nat) : Byte := e.layout.pad.extractLsb' (8 * (s % 2 ^ e.layout.esize % 4)) 8

/-- The source address of stream byte s of an entry whose source is memory; none for padding. -/
def CopyEntry.src (e : CopyEntry) (s : Nat) : Option Va :=
  match e.kind with
  | .copyl => some (e.span + BitVec.ofNat 56 s)
  | _ => if e.dir then some (e.span + BitVec.ofNat 56 s) else e.layoutByte s

/-- The destination address of stream byte s; none where nothing is written. A COPY.MC's is its offset in the slot. -/
def CopyEntry.dst (e : CopyEntry) (s : Nat) : Option Va :=
  match e.kind with
  | .copyl => some (e.other + BitVec.ofNat 56 s)
  | .mc => some (BitVec.ofNat 56 s)
  | _ => if e.dir then e.layoutByte s else some (e.span + BitVec.ofNat 56 s)

/-- The destination address of stream byte s for the write pointer and the signature: out-of-bounds elements count too, at the
address that the layout gives them (R260; DEDUCED, log 90). -/
def CopyEntry.target (e : CopyEntry) (s : Nat) : Va :=
  match e.kind with
  | .copyl => e.other + BitVec.ofNat 56 s
  | .mc => BitVec.ofNat 56 s
  | _ => if e.dir then e.layout.place (e.coords s) + BitVec.ofNat 56 (s % 2 ^ e.layout.esize) else e.span + BitVec.ofNat 56 s

def CopyEntry.srcTag (e : CopyEntry) : FTag :=
  match e.kind with
  | .copyl => e.spanTag
  | _ => if e.dir then e.spanTag else e.layout.tag

def CopyEntry.dstTag (e : CopyEntry) : FTag :=
  match e.kind with
  | .copyl => e.otherTag
  | _ => if e.dir then e.layout.tag else e.spanTag

/-- Stream byte s of a COPYL lies where its two ranges overlap: it delivers an undefined value (R264, log 22). -/
def CopyEntry.overlaps (e : CopyEntry) (s : Nat) : Bool :=
  e.kind == .copyl && (e.other + BitVec.ofNat 56 s - e.span).toNat < e.len

/-- How many bytes the next delivery carries: up to the destination's next 128-byte boundary (R260). -/
def CopyEntry.chunk (e : CopyEntry) (avail : Nat) : Nat :=
  let left := min (avail - e.done) 128
  if e.dir && e.kind != .copyl && e.kind != .drain then
    let line (i : Nat) : Option Va := (e.dst (e.done + i)).map lineVa
    let first := (List.range left).findSome? line
    ((List.range left).takeWhile (fun i => (line i).isNone || line i == first)).length
  else match e.dst e.done with
    | some a => min left (128 - a.toNat % 128)
    | none => left

/-! ### Channels and batches (R124, R151, R152) -/

def Core.chan (c : Core) (n : Nat) : Channel := c.chans.getD n {}
def Core.modChan (c : Core) (n : Nat) (f : Channel → Channel) : Core := { c with chans := c.chans.set n (f (c.chan n)) }

/-- The first entry of a channel changes. -/
def Channel.modHead (ch : Channel) (f : CopyEntry → CopyEntry) : Channel :=
  match ch.entries with
  | [] => ch
  | e :: es => { ch with entries := f e :: es }

def Mach.modHead (m : Mach) (core chan : Nat) (f : CopyEntry → CopyEntry) : Mach :=
  m.modCore core (fun c => c.modChan chan (fun ch => ch.modHead f))

/-- Sealed batches that are not finished. -/
def Batches.sealed (b : Batches) : Nat := (b.bseq - b.bdone).toNat

/-- Batches complete in order (R152). -/
def Batches.advance (b : Batches) : Nat → Batches
  | 0 => b
  | n + 1 =>
    if b.bseq != b.bdone && b.counts.getD b.bdone.toNat 0 = 0 then
      Batches.advance { b with bdone := b.bdone + 1, counts := b.counts.erase b.bdone.toNat } n
    else b

/-- An entry of a batch is done or cancelled (R152). -/
def Batches.finish (b : Batches) (n : BitVec 8) : Batches :=
  Batches.advance { b with counts := b.counts.set n.toNat (b.counts.getD n.toNat 0 - 1) } 9

/-- A group whose WAITB holds no longer waits (R265). -/
def Group.wakeB (g : Group) : Group :=
  match g.wait with
  | some (.waitb n) => if g.batch.sealed ≤ n then { g with wait := none } else g
  | _ => g

/-- A copy is refused by its batch (R152). -/
def Batches.refuses (b : Batches) : Bool := (b.openn = 0 && 8 ≤ b.sealed) || b.openn = 128

/-- A copy joins the open batch. -/
def Batches.join (b : Batches) : Batches :=
  { b with openn := b.openn + 1, issued := b.issued + 1, counts := b.counts.set b.bseq.toNat (b.counts.getD b.bseq.toNat 0 + 1) }

/-! ### Issue (R257, R259) -/

/-- The fields of a copy control word (R257), or none when a bit that must be zero is set. -/
structure Cw where
  span : Nat
  cred : Bool
  bidx : Nat
  chan : Nat
  ticket : Nat

def cwOf (x : Word) (ticketed : Bool) : Option Cw :=
  let n := x.toNat
  if bitsOf n 28 4 != 0 || bitsOf n 20 3 != 0 || bitsOf n 12 4 != 0 || (!ticketed && n % 256 != 0) then none
  else some { span := bitsOf n 24 4, cred := n.testBit 23, bidx := bitsOf n 16 4, chan := bitsOf n 8 4, ticket := n % 256 }

/-- The block has barrier j in use (R113). -/
def Mach.hasBarrier (m : Mach) (core : Nat) (g : Group) (j : Nat) : Bool :=
  match m.block? core g with | some b => (b.bars.get? j).isSome | none => false

/-- Two kinds of first page are translated at issue (R259): ACC 4 for a source, 5 for a destination. -/
def firstPage (core : Nat) (g : Group) (m : Mach) (va : Option Va) (dest : Bool) : Except Trap Mach :=
  match va with
  | none => .ok m
  | some va =>
    match m.access core g va (if dest then 5 else 4) (fun l => if dest then l.w else l.rd) with
    | .error e => .error e
    | .ok (m, _, _) => .ok m

/-- The first address of a side that has one. -/
def firstOf (f : Nat → Option Va) (len : Nat) : Option Va := (List.range len).findSome? f

/-- An entry joins its channel and its batch, with status OK in D (R124, R259). A copy is one store of the duplex signature, at the
line of its first destination byte; a COPY.MC's is its offset in the slot (R160; DESIGN CHOICE, log 91: R160 names no line for a
copy). -/
def enqueue (w : Who) (m : Mach) (g : Group) (chan : Nat) (e : CopyEntry) : Except Trap Mach :=
  let m := m.modCore w.core (fun c => c.modChan chan (fun ch => { ch with entries := ch.entries ++ [e] }))
  let m := m.modGroup w.core w.slot (fun g => { g with batch := g.batch.join })
  match answerD w m g .ok with
  | .ok m => .ok (m.signStore w.core w.slot g.uid (lineVa (e.target 0)) 0 [])
  | .error t => .error t

/-- The channel has no room, or the batch refuses (R125, R152). -/
def copyFull (w : Who) (m : Mach) (g : Group) (chan : Nat) : Bool :=
  8 ≤ ((m.core w.core).chan chan).entries.length || g.batch.refuses

/-- An entry before its own fields are filled in. -/
def newEntry (w : Who) (g : Group) (k : CopyKind) (cw : Cw) : CopyEntry :=
  { kind := k, slot := w.slot, uid := g.uid, ctx := g.id.ctx, sup := g.id.sup, block := g.id.block, batch := g.batch.bseq
    bar := if cw.cred then some cw.bidx else none
    layout := { base := 0, pad := 0, stride := [], ext := [], box := [], esize := 0, ndim := 0, tag := 0 }, origin := []
    dir := false, span := 0, spanTag := 0, other := 0, otherTag := 0, len := 0, done := 0, state := .queued, ticket := 0
    receiver := 0, wslot := none, token := none, stopping := false, gated := g.id.duplex, silent := false
    started := false, seq := g.batch.issued }

/-- The origin of a box: five signed coordinates (R258). -/
def boxOrigin (k : Nat → Word) : List Int :=
  [(k 1).toInt, (k 2).toInt, sextNat (k 3).toNat 16, sextNat ((k 3).toNat >>> 16) 16, sextNat (k 4).toNat 16]

/-- The identity of a cluster-level unit in its cluster: the unit of its launch, or the block alone (R98, R262). -/
def unitId (g : Group) (b : Block) : Nat :=
  if g.id.clev = 0 then 2 * g.id.block + 1
  else 2 * ((b.launch * 2 ^ 40 + b.unit) * 2 + (if b.copyIndex then 1 else 0))

/-- The identity of a ticket. -/
def ticketId (g : Group) (b : Block) (t : Nat) : Nat := unitId g b * 256 + t

/-- The blocks of a launch's cluster-level unit. -/
def unitBlocks (r : Record) : Nat := ((r.ext.drop r.blev).take (r.clev - r.blev)).foldl (· * ·) 1

/-- The receivers of a COPY.MC that are not gone (R262): bit, and member. None when a bit lies beyond the unit's blocks. -/
def Mach.receivers (m : Mach) (core : Nat) (g : Group) (b : Block) (mask : BitVec 16) (idx : Nat) :
    Option (List (Nat × Member)) :=
  let bits := (List.range 16).filter (fun i => mask.getLsbD i)
  let count := if g.id.clev = 0 then 1 else match m.launches.get? b.launch with
    | some l => unitBlocks l.record | none => 1
  if bits.any (fun i => count ≤ i) then none
  else some (bits.filterMap (fun i =>
    let block := if g.id.clev = 0 then some b
      else ((m.cluster (clusterOf core)).blocks.find? (fun e => e.2.launch == b.launch && e.2.unit == b.unit &&
        e.2.inUnit == i && e.2.copyIndex == b.copyIndex)).map (·.2)
    match block with
    | none => none
    | some b => match b.members.get? idx with
      | some x => if x.gone then none else some (i, x)
      | none => none))

/-- KEY of a wharf share (R127). -/
def shareKey (bit slot : Nat) : Dword := BitVec.ofNat 64 (bit * 64 + slot % 64)

/-- COPY, COPY.TR8, COPY.TR16 and COPY.MC (R258, R259, R262). Two points are the model's choice: bit 16 of kA+4, which R258 gives to COPY
alone, raises ILLEGAL in the other forms as a bit that must be zero (DESIGN CHOICE, log 106), and a full channel or batch is answered
before the receiver mask is looked at, whose ACCESS R259 does not place (DESIGN CHOICE, log 106). -/
def copyBody (kind : CopyKind) : Body := groupWide fun w m g =>
  let k := blockWord g w.f
  let mc := kind == .mc
  match cwOf (k 6) mc with
  | none => .error (.fault .illegal 0)
  | some cw =>
    if (k 4).toNat >>> 17 != 0 || ((k 4).getLsbD 16 && kind != .copy) || (mc && (k 5 != 0 || cw.cred || (k 7).toNat >>> 24 != 0)) ||
      (!mc && k 7 != 0) then .error (.fault .illegal 0)
    else match m.layout w.core g (k 0) with
      | .error e => .error e
      | .ok (m, r) =>
        let len := (r.box.foldl (fun n b => n * (b + 1)) 1) * 2 ^ r.esize
        let trBad := (kind == .tr8 && r.esize != 0) || (kind == .tr16 && r.esize != 1) ||
          ((kind == .tr8 || kind == .tr16) && (r.box.drop 2).any (· != 0))
        let s := g.span cw.span
        let e : CopyEntry := { newEntry w g kind cw with
          layout := r, origin := boxOrigin k, dir := (k 4).getLsbD 16, span := s.ptr + (k 5).signExtend 56, spanTag := s.tag, len }
        if 2 ^ 24 < len || (mc && 16384 < len) || trBad then .error (.fault .access r.base)
        else match (if mc then none else s.check e.span.toNat len (if e.dir then 3 else 4)) with
          | some t => .error t
          | none =>
            match firstPage w.core g m (firstOf e.src len) false with
            | .error t => .error t
            | .ok m =>
              match firstPage w.core g m (if mc then none else firstOf e.dst len) true with
              | .error t => .error t
              | .ok m =>
                if cw.cred && !m.hasBarrier w.core g cw.bidx then .error (.fault .access 0)
                else if g.gated then .error .retry
                else if copyFull w m g cw.chan then answerD w m g .full
                else if !mc then enqueue w m g cw.chan e
                else match m.block? w.core g with
                  | none => .error (.fault .access 0)
                  | some b =>
                    let id := ticketId g b cw.ticket
                    let cl := clusterOf w.core
                    match m.receivers w.core g b ((k 7).setWidth 16) (bitsOf (k 7).toNat 16 8) with
                    | none => .error (.fault .access 0)
                    | some rs =>
                      if (m.cluster cl).tickets.any (fun t => t.id == id) then answerD w m g .mismatch
                      else if !g.id.copyIndex && rs.any (fun x =>
                          (m.core x.2.core).estateFree < (rs.filter (fun y => y.2.core == x.2.core)).length) then
                        .error (.fault .estatefull 0)
                      else
                        let (num, m) := m.fresh
                        let t : Ticket := { id, num, ctx := g.id.ctx, len, slot := none
                                            shares := rs.foldl (fun s x => s ||| (1#16 <<< x.1)) 0
                                            owners := rs.map (fun x => (x.1, x.2.uid)) }
                        let m := if rs = [] then m else m.modCluster cl (fun k => { k with tickets := k.tickets ++ [t] })
                        let m := rs.foldl (fun m x => match m.findGroup x.2.core x.2.slot x.2.uid with
                          | some h => m.acquire x.2.core x.2.slot h 5 (shareKey x.1 0) num
                          | none => m) m
                        enqueue w m g cw.chan { e with ticket := id, num }

/-- COPY. -/
def bodyCopy : Body := copyBody .copy
def execCopy (w : WordA) (s : State) : Host.Outcome State Fault Refusal := issue 4 (fieldsA 0xC0 w) bodyCopy s
/-- COPY.TR8. -/
def bodyCopyTr8 : Body := copyBody .tr8
def execCopyTr8 (w : WordA) (s : State) : Host.Outcome State Fault Refusal := issue 4 (fieldsA 0xC1 w) bodyCopyTr8 s
/-- COPY.TR16. -/
def bodyCopyTr16 : Body := copyBody .tr16
def execCopyTr16 (w : WordA) (s : State) : Host.Outcome State Fault Refusal := issue 4 (fieldsA 0xC2 w) bodyCopyTr16 s
/-- COPY.MC. -/
def bodyCopyMc : Body := copyBody .mc
def execCopyMc (w : WordA) (s : State) : Host.Outcome State Fault Refusal := issue 4 (fieldsA 0xC3 w) bodyCopyMc s

/-- DRAIN (R263). A ticket whose COPY.MC has not taken a slot yet is the caller's all the same, because the share was created when it was
issued (R127): the entry is enqueued and waits for the slot's bytes. R263 gives MISMATCH to a ticket that "names no slot" and does not
speak of this one (DESIGN CHOICE, log 108). -/
def bodyDrain : Body := groupWide fun w m g =>
  let k := blockWord g w.f
  match cwOf (k 1) true with
  | none => .error (.fault .illegal 0)
  | some cw =>
    let s := g.span cw.span
    let dst := s.ptr + (k 0).signExtend 56
    if dst.toNat < Config.localWindow then .error (.fault .access dst)
    else if cw.cred && !m.hasBarrier w.core g cw.bidx then .error (.fault .access 0)
    else match m.block? w.core g with
      | none => .error (.fault .access dst)
      | some b =>
        let id := ticketId g b cw.ticket
        match (m.cluster (clusterOf w.core)).tickets.find? (fun t => t.id == id) with
        | none => answerD w m g .mismatch
        | some t =>
          match t.owners.find? (fun o => o.2 == g.uid && t.shares.getLsbD o.1) with
          | none => answerD w m g .mismatch
          | some (bit, _) =>
            match s.check dst.toNat t.len 4 with
            | some e => .error e
            | none =>
              match firstPage w.core g m (some dst) true with
              | .error e => .error e
              | .ok m =>
                if g.gated then .error .retry
                else if copyFull w m g cw.chan then answerD w m g .full
                else enqueue w m g cw.chan { newEntry w g .drain cw with
                  span := dst, spanTag := s.tag, len := t.len, ticket := id, num := t.num, receiver := bit }
def execDrain (w : WordA) (s : State) : Host.Outcome State Fault Refusal := issue 4 (fieldsA 0xC4 w) bodyDrain s

/-- COPYL (R264). -/
def bodyCopyl : Body := groupWide fun w m g =>
  let k := blockWord g w.f
  match cwOf (k 3) false with
  | none => .error (.fault .illegal 0)
  | some cw =>
    let c := (k 2).toNat
    let s := g.span cw.span
    let d := g.span (c % 16)
    let src := s.ptr + (k 0).signExtend 56
    let dst := d.ptr + (k 1).signExtend 56
    let len := c >>> 8 + 1
    if bitsOf c 4 4 != 0 then .error (.fault .illegal 0)
    else match s.check src.toNat len 3 with
      | some e => .error e
      | none => match d.check dst.toNat len 4 with
        | some e => .error e
        | none => match firstPage w.core g m (some src) false with
          | .error e => .error e
          | .ok m => match firstPage w.core g m (some dst) true with
            | .error e => .error e
            | .ok m =>
              if cw.cred && !m.hasBarrier w.core g cw.bidx then .error (.fault .access 0)
              else if g.gated then .error .retry
              else if copyFull w m g cw.chan then answerD w m g .full
              else enqueue w m g cw.chan { newEntry w g .copyl cw with
                span := src, spanTag := s.tag, other := dst, otherTag := d.tag, len }
def execCopyl (w : WordA) (s : State) : Host.Outcome State Fault Refusal := issue 4 (fieldsA 0xC5 w) bodyCopyl s

/-- SEAL (R152, R265). -/
def bodySeal : Body := groupWide fun w m g =>
  if g.batch.openn = 0 then .ok m
  else .ok (m.setGroup w.core w.slot { g with
    batch := Batches.advance { g.batch with bseq := g.batch.bseq + 1, openn := 0 } 9 })
def execSeal (w : WordA) (s : State) : Host.Outcome State Fault Refusal := issue 4 (fieldsA 0xC6 w) bodySeal s

/-- WAITB (R265). -/
def bodyWaitb : Body := groupWide fun w m g =>
  let n := w.f.imm.toNat
  .ok (if g.batch.sealed ≤ n then m else m.setGroup w.core w.slot { g with wait := some (.waitb n) })
def execWaitb (w : WordI) (s : State) : Host.Outcome State Fault Refusal := issue 4 (fieldsI 0xC7 w) bodyWaitb s

/-- The 64-bit write pointer of a channel (R156). -/
def Channel.pointer (ch : Channel) : Dword := ch.eseq ++ ch.waddr

/-- WPTR (R265). -/
def bodyWptr : Body := fun _ w m => withGroup w m fun g =>
  let ts := g.participants w.f.g
  let x := ((m.core w.core).chan w.f.imm.toNat).pointer
  .ok (commit w m (ts.flatMap (fun t => writeWide w.f.fd t 0 (words64 x)) ++ resultTag ts w.f.fd 2 2))
def execWptr (w : WordI) (s : State) : Host.Outcome State Fault Refusal := issue 4 (fieldsI 0xC8 w) bodyWptr s

/-! ### The wharf (R103) -/

/-- A receiver's share ends: at zero SHARES the slot is FREE, and its ticket is no longer reserved (R103, R262). -/
def Mach.dropShare (m : Mach) (cl num bit : Nat) : Mach :=
  match (m.cluster cl).tickets.find? (fun t => t.num == num) with
  | none => m
  | some t =>
    let t' := { t with shares := t.shares &&& ~~~(1#16 <<< bit), owners := t.owners.erase bit }
    if t'.shares != 0 then m.modCluster cl (fun k => { k with tickets := k.tickets.map (fun x => if x.num == num then t' else x) })
    else
      let m := m.modCluster cl (fun k => { k with
        tickets := k.tickets.filter (fun x => !(x.num == num))
        wharf := match t.slot with | some s => k.wharf.erase s | none => k.wharf })
      (List.range 8).foldl (fun m i => m.modCore (8 * cl + i) (fun c => { c with
        chans := c.chans.mapVals (fun _ ch => { ch with entries := ch.entries.map (fun e =>
          if e.kind == .mc && e.num == num then { e with wslot := none } else e) }) })) m

/-- A share's holding, in any table of the cluster, by the number of its COPY.MC and its receiver bit. -/
def Mach.shareHolding (m : Mach) (cl num bit : Nat) : Option (Nat × Nat) :=
  (List.range 8).findSome? (fun i => ((m.core (8 * cl + i)).estate.find? (fun e =>
    e.2.kind == 5 && e.2.aux == num && e.2.key.toNat / 64 == bit)).map (fun e => (8 * cl + i, e.1)))

/-- A COPY.MC entry takes a wharf slot, and the KEY of each share names it (R103, R127, log 39). -/
def Mach.takeWharf (m : Mach) (cl num ctx slot : Nat) : Mach :=
  let m := m.modCluster cl (fun k => { k with
    wharf := k.wharf.set slot { state := .filling, ctx, ticket := num }
    tickets := k.tickets.map (fun t => if t.num == num then { t with slot := some slot } else t) })
  (List.range 8).foldl (fun m i => m.modCore (8 * cl + i) (fun c => { c with
    estate := c.estate.mapVals (fun _ e =>
      if e.kind == 5 && e.aux == num then { e with key := shareKey (e.key.toNat / 64) slot } else e) })) m

/-! ### What a channel does (R125, R156, R260, R261) -/

/-- A channel starts its next entry: ESEQ rises and WADDR is its first destination byte, in bounds or not (DEDUCED, log 90); a
COPY.MC that finds no free slot is HELD (R103, R156). -/
def Mach.entryStart (m : Mach) (core chan : Nat) : Mach :=
  let ch := (m.core core).chan chan
  match ch.entries with
  | [] => m
  | e :: _ =>
    let cl := clusterOf core
    let start (m : Mach) (e : CopyEntry) : Mach := m.modCore core (fun c => c.modChan chan (fun ch =>
      { ch with eseq := ch.eseq + 1, waddr := e.target 0 }.modHead (fun _ => { e with state := .active, started := true })))
    if e.gated || e.stopping || e.started then m
    else match e.kind with
      | .mc =>
        if !(m.cluster cl).tickets.any (fun t => t.num == e.num && t.shares != 0) then start m e
        else match SMap.freeKey (m.cluster cl).wharf 64 with
          | some s => start (m.takeWharf cl e.num e.ctx s) { e with wslot := some s }
          | none => m.modHead core chan (fun e => { e with state := .held })
      | _ => start m e

/-- What reading one byte of a copy's source, or finding its destination, gives. -/
inductive CopyGot where
  | byte (b : Byte) (bad : Bool)
  | xlat (va : Va) (level : Nat)
  | violation (va : Va)
  | later
  | full
  deriving DecidableEq, Repr

/-- One source byte at its place (R260, R261). -/
def Mach.copyRead (m : Mach) (core : Nat) (g : Group) (va : Va) (tag : FTag) : Mach × CopyGot :=
  match m.translate core g va true with
  | (m, .ok l leaf) =>
    if !leaf.rd then (m, .violation va)
    else match l with
      | .host _ => (m, if m.linkDown then .later else .byte (m.byteAt l) false)
      | _ => match m.classAt l (some tag) with
        | .tagMismatch => (m, .violation va)
        | c => (m, .byte (m.byteAt l) c.bad)
  | (m, .fault level) => (m, .xlat va level)
  | (m, .access) => (m, .violation va)
  | (m, .migrating) => (m, .later)

/-- A sector of a copy's source is read at its home: `prev` is the sector of the byte before (R83, R260). -/
def Mach.noteCopy (m : Mach) (core : Nat) (g : Group) (e : CopyEntry) (va : Va) (prev : Option Nat) : Mach :=
  if prev = some (va.toNat / 32) then m
  else match m.translate core g va true with
    | (m, .ok l _) => m.noteLine l 1 (some e.srcTag) e.ctx core (some e.slot) 4 va.toNat
    | _ => m

/-- The next n source bytes of an entry with their bad marks, or the first reason there are none. -/
def Mach.copyFetch (m : Mach) (core : Nat) (g : Group) (e : CopyEntry) :
    Nat → Nat → Option Nat → Mach × Except CopyGot (List (Byte × Bool))
  | 0, _, _ => (m, .ok [])
  | n + 1, s, prev =>
    let got : Mach × CopyGot :=
      match e.src s with
      | none => (m, .byte (e.padByte s) false)
      | some va =>
        match m.copyRead core g va e.srcTag with
        | (m, .byte b bad) =>
          let m := m.noteCopy core g e va prev
          if e.overlaps s then
            let (d, m) := m.draw
            (m, .byte (Config.freeByte d) bad)
          else (m, .byte b bad)
        | r => r
    match got with
    | (m, .byte b bad) =>
      match m.copyFetch core g e n (s + 1) ((e.src s).map (fun va => va.toNat / 32)) with
      | (m, .ok bs) => (m, .ok ((b, bad) :: bs))
      | r => r
    | (m, r) => (m, .error r)

/-- An entry is HELD: for the replay of a translation, or by a violation (R125, R230, R374). -/
def Mach.copyHold (m : Mach) (core chan : Nat) (e : CopyEntry) (acc : Nat) : CopyGot → Mach
  | .xlat va level =>
    let (token, m) := m.fresh
    (m.modHead core chan (fun e => { e with state := .held, token := some token })).postFq e.ctx 1 acc va.toNat level core
      (some e.slot) [token]
  | .violation va =>
    (m.modHead core chan (fun e => { e with state := .held })).postFq e.ctx 7 acc va.toNat 0 core (some e.slot) []
  | _ => m

/-- n bytes of an entry are delivered: its DONE, the write pointer, which never falls within an entry, and the barrier's credit
(R153, R156, R260). -/
def Mach.delivered (m : Mach) (core chan : Nat) (e : CopyEntry) (n : Nat) : Mach :=
  let last := e.target (e.done + n - 1) + 1
  let m := if e.kind == .mc then m
    else m.touchOperands core e.slot e.uid ((List.range n).map (fun i => e.target (e.done + i)))
  let m := m.modCore core (fun c =>
    let id : Ident := match c.everyone.find? (fun g => g.uid == e.uid) with | some g => g.id | none => { ctx := e.ctx }
    (c.modChan chan (fun ch =>
      { ch with waddr := if ch.waddr.ult last then last else ch.waddr }.modHead
        (fun e => { e with done := e.done + n }))).count 10 n id)
  match e.bar with
  | some j => m.barChange (clusterOf core) e.block j (fun b => b.credit (-(n : Int)))
  | none => m

/-- The bad bytes of a line reach its destination: a poisoned sector, or an uncorrectable word (R261). -/
def badSectors (bs : List (Nat × Byte × Bool)) : BitVec 4 :=
  bs.foldl (fun p e => if e.2.2 then p ||| (1#4 <<< (e.1 / 32)) else p) 0

/-- Bytes with their offsets in one line are written at their place. -/
def Mach.copyWrite (m : Mach) (core : Nat) (e : CopyEntry) (line : Loc) (va : Va) (bs : List (Nat × Byte × Bool)) : Written :=
  let mask := bs.foldl (fun k b => k ||| rangeMask b.1 1) 0
  let data : SMap Byte := bs.foldl (fun d b => SMap.set d b.1 b.2.1) []
  let spad := line.isSpad
  let r := m.writeLine line mask (if spad then 0 else badSectors bs) data (some e.dstTag) e.ctx core (some e.slot) none
    5 (some va)
  match line with
  | .spad c a =>
    let words := (bs.filter (fun b => b.2.2)).map (fun b => (a + b.1) / 4)
    ⟨r.mach.modCluster c (fun k => { k with
      spadBad := words.foldl (fun l x => if l.contains x then l else x :: l) k.spadBad }), false⟩
  | _ => r

/-- The next bytes of a COPY.MC go into its wharf slot. -/
def Mach.wharfWrite (m : Mach) (cl slot : Nat) (o len : Nat) (bs : List (Byte × Bool)) : Mach :=
  m.modCluster cl (fun k => match k.wharf.get? slot with
    | none => k
    | some x => { k with wharf := k.wharf.set slot { x with
        data := bs.zipIdx.foldl (fun d b => d.set (o + b.2) b.1.1) x.data
        bad := (bs.zipIdx.filter (fun b => b.1.2)).foldl (fun l b => (o + b.2) :: l) x.bad
        bytes := o + bs.length
        state := if o + bs.length = len then .full else .filling } })

/-- The wharf bytes that a DRAIN may take now (R263). -/
def Mach.wharfBytes (m : Mach) (cl num : Nat) : Wharf :=
  match (m.cluster cl).tickets.find? (fun t => t.num == num) with
  | some t => match t.slot with
    | some s => (m.cluster cl).wharf.getD s {}
    | none => {}
  | none => {}

/-- The entry of the other copy of a duplex group that a silent entry stands beside has delivered as many bytes (R330). -/
def Mach.twinDelivered (m : Mach) (core : Nat) (e : CopyEntry) (n : Nat) : Bool :=
  match m.findGroup core e.slot e.uid with
  | none => true
  | some g => match m.partner core g with
    | none => true
    | some p => !(m.core p.core).chans.any (fun ch => ch.2.entries.any (fun x => x.uid == p.uid && x.seq == e.seq && x.done < n))

/-- A DRAIN waits for bytes that will not come: the entry that filled its slot has gone, or stops (R263, R125). -/
def Mach.wharfDry (m : Mach) (cl : Nat) (e : CopyEntry) : Bool :=
  e.kind == .drain && (m.wharfBytes cl e.num).bytes ≤ e.done &&
  !(List.range 8).any (fun i => (m.core (8 * cl + i)).chans.any (fun ch =>
    ch.2.entries.any (fun x => x.kind == .mc && x.num == e.num && !x.stopping)))

/-- A stopping entry stands where it stops: it is not ACTIVE any more, or the next byte is the first of 128 at its destination, or no more
bytes come (R125). A copy to a layout stands at such a boundary after each of its deliveries. -/
def Mach.stopsHere (m : Mach) (core : Nat) (e : CopyEntry) : Bool :=
  e.state != .active || e.len ≤ e.done || (e.target e.done).toNat % 128 = 0 || (e.dir && 0 < e.done) ||
  m.wharfDry (clusterOf core) e

/-- The flits that a delivery of n bytes takes: a header for each line of its source outside the scratchpad, and a header and the data
sectors for its destination there (R159, R383, log 27). -/
def CopyEntry.flits (e : CopyEntry) (n : Nat) : Nat :=
  let at' (f : Nat → Option Va) : List Va := ((List.range n).filterMap (fun i => f (e.done + i))).filter (fun a => !inWindows a)
  let src := if e.kind == .drain then [] else at' e.src
  let dst := if e.kind == .mc then [] else at' e.dst
  (src.map lineVa).eraseDups.length +
    (if dst.isEmpty then 0 else 1 + (dst.map (fun a => a.toNat / 32)).eraseDups.length)

/-- An active entry delivers up to its next 128-byte boundary (R125, R260). -/
def Mach.copyDeliver (m : Mach) (d : Device) (core chan : Nat) : Mach :=
  let cl := clusterOf core
  match ((m.core core).chan chan).entries with
  | [] => m
  | e :: _ =>
    if e.state != .active || (e.stopping && m.stopsHere core e) || e.len ≤ e.done then m
    else if e.silent then
      let n := e.chunk e.len
      if m.twinDelivered core e (e.done + n) then m.delivered core chan e n else m
    else match m.findGroup core e.slot e.uid with
      | none => m
      | some g =>
        let wh := m.wharfBytes cl e.num
        let n := e.chunk (if e.kind == .drain then min e.len wh.bytes else e.len)
        if n = 0 then m
        else
          let fetched : Mach × Except CopyGot (List (Byte × Bool)) :=
            if e.kind == .drain then (m, .ok ((List.range n).map (fun i =>
              (wh.data.getD (e.done + i) 0, wh.bad.contains (e.done + i)))))
            else m.copyFetch core g e n e.done none
          match fetched with
          | (m, .error x) => m.copyHold core chan e 4 x
          | (m, .ok bs) =>
            if e.kind == .mc then
              (match e.wslot with
                | some s => (m.inject d core e.slot (e.flits n)).wharfWrite cl s e.done e.len bs
                | none => m.inject d core e.slot (e.flits n)).delivered core chan e n
            else
              let out := (bs.zipIdx.filterMap (fun b => (e.dst (e.done + b.2)).map (fun a => (a, b.1))))
              match out with
              | [] => (m.inject d core e.slot (e.flits n)).delivered core chan e n
              | (a, _) :: _ =>
                match m.translate core g (lineVa a) true with
                | (m, .ok l leaf) =>
                  if !leaf.w then m.copyHold core chan e 5 (.violation a)
                  else if m.noRoom e.ctx l then m.reserveStall e.ctx core (some e.slot)
                  else
                    let r := m.copyWrite core e l (lineVa a) (out.map (fun x => (x.1.toNat % 128, x.2)))
                    if r.mismatch then m.copyHold core chan e 5 (.violation a)
                    else (r.mach.inject d core e.slot (e.flits n)).delivered core chan e n
                | (m, .fault level) => m.copyHold core chan e 5 (.xlat a level)
                | (m, .access) => m.copyHold core chan e 5 (.violation a)
                | (m, .migrating) => m

/-- An entry leaves its channel: its batch count falls while its group lives (R152). -/
def Mach.leaveBatch (m : Mach) (core : Nat) (e : CopyEntry) : Mach :=
  m.modUid core e.slot e.uid (fun g => if g.ending.any (fun x => x.killed) then g
    else { g with batch := g.batch.finish e.batch }.wakeB)

/-- An entry stopped by a kill leaves its channel at a 128-byte boundary, and its undelivered bytes come off the barrier
(R125, R154). -/
def Mach.copyStop (m : Mach) (core chan : Nat) (e : CopyEntry) : Mach :=
  let m := m.modCore core (fun c => c.modChan chan (fun ch => { ch with entries := ch.entries.drop 1 }))
  match e.bar with
  | some j => m.barChange (clusterOf core) e.block j (fun b => b.credit (-((e.len - e.done : Nat) : Int)))
  | none => m

/-- The hub has not yet heard of the end of an entry's group, which comes before its bytes leave the barrier (R154, R370). -/
def Mach.endUnheard (m : Mach) (core uid : Nat) : Bool :=
  m.msgs.any (fun x => x.uid == uid && x.core == core && match x.body with | .groupEnd _ _ _ => true | _ => false)

/-- An entry goes DONE (R152, R263), or stops for a kill (R125). -/
def Mach.copyFinish (m : Mach) (core chan : Nat) : Mach :=
  match ((m.core core).chan chan).entries with
  | [] => m
  | e :: _ =>
    if e.stopping then (if m.endUnheard core e.uid || !m.stopsHere core e then m else m.copyStop core chan e)
    else if e.state != .active || e.done < e.len then m
    else
      let m := m.modCore core (fun c => c.modChan chan (fun ch => { ch with entries := ch.entries.drop 1 }))
      let m := if e.kind == .drain then
          let cl := clusterOf core
          let m := match m.shareHolding cl e.num e.receiver with
            | some (c, i) => m.eraseEstate c i
            | none => m
          m.dropShare cl e.num e.receiver
        else m
      m.leaveBatch core e

end Sys2Proof.Machine
end

