-- ==== Sys2Proof/Machine/Launches.lean ====
section
/-! DEFINITION. Launch queues (R108 to R113): the control block, the entries and the records, their validation, and the taking
of entries. -/

namespace Sys2Proof.Machine

/-! ### The device's own accesses for a context -/

/-- The device reads and writes a context's memory through the context's page table (R108, R110). -/
def ctxView (ctx : Nat) : Group := { uid := 0, id := { ctx }, valloc := 16, pc := 0 }

/-- What a read for a context gives: bytes, a translation fault, no access, or nothing yet. -/
inductive CtxGot where
  | bytes (bs : List Byte)
  | fault (va : Va) (level : Nat)
  | denied
  | wait
  deriving DecidableEq, Repr

/-- The place of an address of a context with its leaf. -/
def Mach.ctxXlate (m : Mach) (ctx : Nat) (va : Va) : Mach × Xlate :=
  if inWindows va then (m, .access) else m.translate 0 (ctxView ctx) va

/-- Read n bytes that lie in one page. A page that cannot be read and a sector that reads poisoned or uncorrectable deny the read
alike (DESIGN CHOICE, log 93: the spec gives no reason code for such a sector). -/
def Mach.ctxPage (m : Mach) (ctx : Nat) (va : Va) (n : Nat) : Mach × CtxGot :=
  match m.ctxXlate ctx va with
  | (m, .ok l leaf) =>
    if m.linkDown && (match l with | .host _ => true | _ => false) then (m, .wait)
    else
      let m := m.noteRead l n none ctx 0 none 0 va.toNat
      if !leaf.rd || m.anyClass l n none SecClass.bad then (m, .denied)
      else (m, .bytes (m.bytesAt l n))
  | (m, .fault level) => (m, .fault va level)
  | (m, .access) => (m, .denied)
  | (m, .migrating) => (m, .wait)

/-- Read n bytes, at most two pages of them. -/
def Mach.ctxRead (m : Mach) (ctx : Nat) (va : Va) (n : Nat) : Mach × CtxGot :=
  let k := min n (65536 - va.toNat % 65536)
  match m.ctxPage ctx va k with
  | (m, .bytes bs) =>
    if k = n then (m, .bytes bs)
    else match m.ctxPage ctx (va + BitVec.ofNat 56 k) (n - k) with
      | (m, .bytes cs) => (m, .bytes (bs ++ cs))
      | r => r
  | r => r

/-! ### Stores of the device's own (R78, R79, R106, R110, R436) -/

/-- How a step of the device's own ends: taken, waiting for a translation, or waiting for a page that migrates, for room in the
host-write reserve, or for the link. -/
inductive OwnEnd where
  | done
  | fault (va : Va) (acc level : Nat)
  | wait
  deriving DecidableEq, Repr

/-- A store to this place cannot be made now: no room for it in the host-write reserve, or, in the viral state, a place outside the
package (R106, R378). -/
def Mach.ownHeld (m : Mach) (ctx : Nat) (l : Loc) : Bool :=
  m.noRoom ctx l || (m.viral && match l with | .host _ => true | .peer _ _ => true | _ => false)

/-- The count of a host waiter's wake line rises (R135, R392). -/
def Mach.countLine (m : Mach) (ctx a : Nat) : Mach :=
  let n := leNat ((List.range 8).map (fun i => m.hostByte ctx (a + i))) + 1
  m.hostStore ctx (a - a % 128) (rangeMask (a % 128) 8) ((leBytes 8 n).mapIdx (fun i b => (a % 128 + i, b)))

def Mach.modLaunch (m : Mach) (id : Nat) (f : Launch → Launch) : Mach :=
  match m.launches.get? id with
  | some l => { m with launches := m.launches.set id (f l) }
  | none => m

/-- The steps that only store or wake: bytes that lie in one line, under the line's own tag (R436), where a page with no place is
left alone; the waiters of a word; a wake line; the end of a launch, whose entry has its last STATE now and whose consumers are ready
(R110, R145, R340). -/
def Mach.storeStep (m : Mach) (ctx : Nat) : OwnStep → Mach × OwnEnd
  | .store va bs =>
    match m.ctxXlate ctx va with
    | (m, .ok l _) =>
      if m.ownHeld ctx l then (m.reserveStall ctx 0 none, .wait)
      else ((m.writeAt l bs none ctx 0 none none 1 (some va)).mach, .done)
    | (m, .fault level) => (m, .fault va 1 level)
    | (m, .access) => (m, .done)
    | (m, .migrating) => (m, .wait)
  | .wake va => (m.wakeKey ctx va, .done)
  | .line a => if m.ownHeld ctx (.host a) then (m, .wait) else (m.countLine ctx a, .done)
  | .finish id => ((m.modLaunch id (fun l => { l with stored := true })).opportunity, .done)
  | _ => (m, .wait)

/-- The steps of a job in their order, each as `step` takes it: the machine, and what is left to do when one must wait. A translation
fault posts its entry, on which the job waits (R123). -/
def Mach.runSteps (step : Mach → Nat → OwnStep → Mach × OwnEnd) (m : Mach) (ctx : Nat) (queue : Option Nat) :
    List OwnStep → Mach × Option OwnJob
  | [] => (m, none)
  | s :: ss =>
    match step m ctx s with
    | (m, .done) => m.runSteps step ctx queue ss
    | (m, .wait) => (m, some { ctx, queue, token := none, steps := s :: ss })
    | (m, .fault va acc level) =>
      let (token, m) := m.fresh
      (m.postFq ctx 1 acc va.toNat level 0 none [token], some { ctx, queue, token := some token, steps := s :: ss })

/-- A job begins, and what is left of it waits. -/
def Mach.beginJob (step : Mach → Nat → OwnStep → Mach × OwnEnd) (m : Mach) (ctx : Nat) (queue : Option Nat) (steps : List OwnStep) :
    Mach :=
  match m.runSteps step ctx queue steps with
  | (m, none) => m
  | (m, some j) => { m with jobs := m.jobs ++ [j] }

/-- Stores and wakes of the device's own, for a launch queue or none. -/
def Mach.ownStores (m : Mach) (ctx : Nat) (queue : Option Nat) (steps : List OwnStep) : Mach :=
  m.beginJob Mach.storeStep ctx queue steps

/-! ### Control blocks, entries and records (R108, R109, R112) -/

/-- A control block (R108). -/
structure ControlBlock where
  base : Va
  gen : Word
  size : Nat
  head : Word
  tail : Word
  deriving DecidableEq, Repr

/-- Bytes o to o + n - 1 as a number. -/
def fieldAt (bs : List Byte) (o n : Nat) : Nat := leNat ((bs.drop o).take n)

def controlBlock (bs : List Byte) : ControlBlock :=
  { base := BitVec.ofNat 56 (fieldAt bs 24 8), gen := BitVec.ofNat 32 (fieldAt bs 20 4), size := fieldAt bs 16 4
    head := BitVec.ofNat 32 (fieldAt bs 4 4), tail := BitVec.ofNat 32 (fieldAt bs 0 4) }

/-- The device takes the block as empty (R108). -/
def ControlBlock.idle (c : ControlBlock) : Bool :=
  c.base.toNat % 64 != 0 || !(List.range 16).any (fun i => c.size == 2 ^ (i + 1)) || c.head == c.tail

/-- The address of the entry at HEAD (R108). -/
def ControlBlock.entry (c : ControlBlock) : Va := c.base + BitVec.ofNat 56 (64 * (c.head.toNat % c.size))

/-- A launch record as its 512 bytes give it (R112); the dictionary words are read apart. -/
def recordOf (bs : List Byte) : Record :=
  let at' (o n : Nat) : Nat := fieldAt bs o n
  { spans := (List.range 8).map (fun j => BitVec.ofNat 192 (at' (320 + 24 * j) 24))
    kargs := (List.range 8).map (fun j => BitVec.ofNat 32 (at' (288 + 4 * j) 4))
    depmap := (bs.drop 256).take 32
    rings := (List.range 16).map (fun j => BitVec.ofNat 32 (at' (192 + 4 * j) 4))
    bars := (List.range 16).map (fun j => BitVec.ofNat 16 (at' (160 + 2 * j) 2))
    ext := (List.range 6).map (fun j => at' (136 + 4 * j) 4 + 1)
    widths := (List.range 6).map (fun j => at' (130 + j) 1)
    clev := at' 129 1, blev := at' 128 1, kid := at' 120 8, entry := at' 112 8, dict := at' 104 8, cpool := at' 96 8
    recov := at' 88 8, spad := at' 84 4, dsize := at' 82 2, valloc := at' 81 1, nvec := at' 80 1, nmat := at' 79 1
    ncopy := at' 78 1, flags := at' 77 1, words := [], reservedSet := at' 0 77 != 0 || at' 77 1 / 4 != 0 }

/-- The product of extents lo to hi - 1 (R33, R34). -/
def Record.volume (r : Record) (lo hi : Nat) : Nat := ((r.ext.take hi).drop lo).foldl (· * ·) 1

/-- Groups of a block (R38), blocks of the launch, and its placement units (R341). -/
def Record.groups (r : Record) : Nat := r.volume 1 r.blev
def Record.blocks (r : Record) : Nat := r.volume r.blev 6
def Record.units (r : Record) : Nat := r.blocks / unitBlocks r

def Record.harvest (r : Record) : Bool := r.flags.testBit 1
def Record.duplex (r : Record) : Bool := r.flags.testBit 0

/-- Pages of a block's allocation (R97). -/
def Record.pages (r : Record) : Nat := (r.spad + 16383) / 16384

/-- A field of DEPMAP (R143). -/
def Record.dep (r : Record) (o n : Nat) : Nat := fieldAt r.depmap o n

/-! ### Validation (R35, R111, R113) -/

/-- The work-identifier fields break R33, R34 or R35. -/
def Record.badFields (r : Record) : Bool :=
  let w (i : Nat) : Nat := r.widths.getD i 0
  w 0 != 5 || r.ext.getD 0 0 != 32 || 64 < r.widths.foldl (· + ·) 0 ||
  (List.range 6).any (fun i => 32 < w i || 2 ^ (min (w i) 33) < r.ext.getD i 0) ||
  r.blev = 0 || 5 < r.blev || (r.clev != 0 && (r.clev < r.blev || 5 < r.clev)) || 8192 < r.volume 0 r.blev

/-- A field number of DEPMAP that breaks R143 for a launch of this block level. -/
def depField (f blev : Nat) : Bool := f != 15 && (f < blev || 5 < f)

/-- DEPMAP breaks R143: `prod` is the producer's record, when validation can read it. -/
def Record.badDep (r : Record) (prod : Option Record) : Bool :=
  depField (r.dep 6 1) r.blev || depField (r.dep 7 1) r.blev || r.dep 20 2 = 0 || r.dep 22 2 = 0 ||
  match prod with
  | some p => depField (r.dep 8 1) p.blev || depField (r.dep 9 1) p.blev
  | none => false

/-- The owner groups of one allocation that a lane's slots and bank hold (R40, R51). -/
def laneRoom (valloc : Nat) : Nat := min Config.ownerSlots (Config.bankBytes / (128 * valloc))

def legalValloc (a : Nat) : Bool := [16, 24, 32, 47].contains a

/-- The ring descriptors break R113. -/
def Record.badRings (r : Record) : Bool :=
  let used := (r.rings.map BitVec.toNat).filter (fun d => d % 128 != 0)
  let range (d : Nat) : Nat × Nat := (d / 256 * 256, d / 256 * 256 + 4 * (d % 128))
  used.any (fun d => d % 128 = 1 || 64 < d % 128 || 16384 * r.pages < (range d).2) ||
  used.zipIdx.any (fun x => used.zipIdx.any (fun y =>
    decide (x.2 < y.2 ∧ (range x.1).1 < (range y.1).2 ∧ (range y.1).1 < (range x.1).2)))

/-- A launch queue entry (R109). -/
structure LaunchEntry where
  record : Nat
  compaddr : Nat
  compseq : Dword
  depseq : Dword
  gen : Word
  cscope : Nat
  track : Bool
  reservedSet : Bool
  deriving DecidableEq, Repr

def launchEntry (bs : List Byte) : LaunchEntry :=
  { record := fieldAt bs 56 8, compaddr := fieldAt bs 48 8, compseq := BitVec.ofNat 64 (fieldAt bs 40 8)
    depseq := BitVec.ofNat 64 (fieldAt bs 32 8), gen := BitVec.ofNat 32 (fieldAt bs 28 4), cscope := fieldAt bs 3 1
    track := (fieldAt bs 4 1).testBit 0
    reservedSet := fieldAt bs 5 23 != 0 || fieldAt bs 4 1 / 2 != 0 || fieldAt bs 2 1 != 0 }

/-- A reserved field of a launch is set (REASON 1). -/
def reservedLaunch (e : LaunchEntry) (r : Record) : Bool :=
  let span (x : BitVec 192) : Bool :=
    x.extractLsb' 185 7 != 0 || x.extractLsb' 60 4 != 0 || x.getLsbD 127 || x.extractLsb' 56 4 == 15#4
  e.reservedSet || r.reservedSet || e.compseq.msb || r.spans.any span || r.rings.any (fun d => d.getLsbD 7) ||
  r.bars.any (fun b => 512 ≤ b.toNat) || (e.depseq != 0 && (r.dep 24 8 != 0 || r.dep 0 6 != 0))

/-- The codes 1 to 9 of R111, the first found; `harvest` says that the launch's context is a harvest context, whose groups have 16, 24
or 32 registers only (R51). -/
def launchReason (e : LaunchEntry) (r : Record) (gen : Word) (prod : Option Record) (harvest : Bool := false) : Option Nat :=
  if reservedLaunch e r then some 1
  else if e.gen != gen then some 2
  else if e.cscope < 3 || 5 < e.cscope then some 3
  else if r.badFields || (e.depseq != 0 && r.badDep prod) then some 4
  else if r.clev != 0 && legalValloc r.valloc && 1024 * laneRoom r.valloc < r.volume 1 r.clev then some 5
  else if !legalValloc r.valloc || ((r.harvest || harvest) && r.valloc = 47) then some 6
  else if r.groups < r.ncopy + r.nmat + r.nvec then some 7
  else if r.badRings || r.bars.any (fun b => r.groups < b.toNat) then some 8
  else if 16777216 < r.spad || 1024 < r.pages * unitBlocks r then some 9
  else if 1024 < r.dsize then some 10
  else none

/-- The launch of a queue that a DEPSEQ names: TAKEN or DONE (R111). -/
def Mach.launchOf (m : Mach) (q : Nat) (seq : Dword) : Option (Nat × Launch) :=
  m.launches.reverse.find? (fun e => e.2.queue == q && e.2.compseq == seq && !e.2.abandoned)

/-- How validation ends. -/
inductive Validity where
  | accept (r : Record)
  | reject (code : Nat)
  | fault (va : Va) (level : Nat)
  | wait
  deriving DecidableEq, Repr

/-- COMPADDR has a valid leaf that grants W; the page may be migrating (R111). -/
def Mach.compOk (m : Mach) (ctx : Nat) (va : Va) : Bool :=
  !inWindows va && match (m.walk ctx va).2 with
    | .leaf l => l.w
    | .fault _ => false

/-- Validation of an entry (R110 step 3, R111); `failed` says that a translation it waited for cannot be resolved. An address is 56
bits, and bits 63:56 of a field that holds one are not looked at (DESIGN CHOICE, log 92: the spec names no check of them). -/
def Mach.validate (m : Mach) (q : Nat) (x : Queue) (e : LaunchEntry) (failed : Bool) : Mach × Validity :=
  if e.record % 512 != 0 || e.compaddr % 8 != 0 then (m, .reject 12)
  else match m.ctxRead x.ctx (BitVec.ofNat 56 e.record) 512 with
    | (m, .denied) => (m, .reject 13)
    | (m, .wait) => (m, .wait)
    | (m, .fault va level) => (m, if failed then .reject 13 else .fault va level)
    | (m, .bytes bs) =>
      let r := recordOf bs
      if r.entry % 2 != 0 then (m, .reject 12)
      else if !m.compOk x.ctx (BitVec.ofNat 56 e.compaddr) then (m, .reject 13)
      else
        let prod := if e.depseq = 0 then none else m.launchOf q e.depseq
        match launchReason e r x.blockGen (prod.map (·.2.record)) (m.ctx x.ctx).harvest with
        | some c => (m, .reject c)
        | none =>
          let orphan := e.depseq != 0 && prod.isNone
          if r.dsize = 0 then (m, if orphan then .reject 11 else .accept r)
          else match m.ctxRead x.ctx (BitVec.ofNat 56 r.dict) (4 * r.dsize) with
            | (m, .denied) => (m, .reject 10)
            | (m, .wait) => (m, .wait)
            | (m, .fault va level) => (m, if failed then .reject 10 else .fault va level)
            | (m, .bytes ds) =>
              let words := (List.range r.dsize).map (fun i => BitVec.ofNat 32 (fieldAt ds (4 * i) 4))
              if words.any (fun w => !w.getLsbD 0) then (m, .reject 10)
              else (m, if orphan then .reject 11 else .accept { r with words })

/-! ### Taking entries (R110) -/

def Mach.modQueue (m : Mach) (q : Nat) (f : Queue → Queue) : Mach := { m with queues := m.queues.set q (f (m.queues.getD q {})) }

/-- A read of the queue waits for the replay of its translation (R123). -/
def Mach.queueFault (m : Mach) (q : Nat) (x : Queue) (va : Va) (level : Nat) : Mach :=
  let (token, m) := m.fresh
  (m.modQueue q (fun x => { x with token := some token })).postFq x.ctx 1 0 va.toNat level 0 none [token]

/-- A store into the queue's memory, or a wake, is still to come: the queue takes nothing more until it is made (R110). -/
def Mach.queueBusy (m : Mach) (q : Nat) : Bool := m.jobs.any (fun j => j.queue == some q)

/-- The completion word of a rejected launch is stored where COMPADDR is aligned and translates with W (R111). -/
def Mach.rejectWord (m : Mach) (ctx : Nat) (e : LaunchEntry) : List OwnStep :=
  let va := BitVec.ofNat 56 e.compaddr
  if e.compaddr % 8 = 0 && m.compOk ctx va then [.store va (leBytes 8 (e.compseq ||| (1#64 <<< 63)).toNat)] else []

/-- An entry that is TAKEN is validated, and accepted or rejected (R110 steps 3 and 4). An accepted launch remembers the launch that
its DEPSEQ names now (R111, R145), and is a placement opportunity (R340). -/
def Mach.judge (m : Mach) (q : Nat) (va : Va) (bs : List Byte) (failed : Bool) : Mach :=
  let x := m.queues.getD q {}
  let e := launchEntry bs
  let hold (m : Mach) : Mach := m.modQueue q (fun x => { x with taking := some (va, bs) })
  match m.validate q x e failed with
  | (m, .wait) => hold m
  | (m, .fault a level) => (hold m).queueFault q x a level
  | (m, .reject code) =>
    (m.modQueue q (fun x => { x with taking := none })).ownStores x.ctx (some q)
      ([.store (va + 1) [BitVec.ofNat 8 code], .store va [3]] ++ m.rejectWord x.ctx e ++ [.wake (BitVec.ofNat 56 e.compaddr)])
  | (m, .accept r) =>
    let (id, m) := m.fresh
    let l : Launch := { queue := q, entryVa := va, ctx := x.ctx, record := r, compaddr := BitVec.ofNat 56 e.compaddr
                        compseq := e.compseq, depseq := e.depseq, track := e.track, cscope := e.cscope
                        producer := if e.depseq = 0 then none else (m.launchOf q e.depseq).map (·.1) }
    ({ m with launches := m.launches.set id l }.modQueue q (fun x => { x with taking := none })).opportunity

/-- Entries of a queue are taken from HEAD on, in at most n steps (R110): an entry goes to TAKEN and HEAD moves, and once both are
stored it is judged. -/
def Mach.takeEntries (m : Mach) (q : Nat) : Nat → Mach
  | 0 => m
  | n + 1 =>
    let x := m.queues.getD q {}
    if (!x.en && x.taking.isNone) || x.enabling || (m.ctx x.ctx).state != .live || x.token.isSome || m.queueBusy q || m.viral then m
    else match x.taking with
      | some (va, bs) =>
        let m := m.judge q va bs false
        if (m.queues.getD q {}).taking.isSome then m else m.takeEntries q n
      | none =>
        match m.ctxRead x.ctx x.qcb 32 with
        | (m, .fault va level) => m.queueFault q x va level
        | (m, .bytes bs) =>
          let c := controlBlock bs
          let m := m.modQueue q (fun x => { x with blockGen := c.gen })
          if c.idle then m
          else match m.ctxRead x.ctx c.entry 64 with
            | (m, .fault va level) => m.queueFault q x va level
            | (m, .bytes es) =>
              if fieldAt es 0 1 != 1 then m
              else ((m.modQueue q (fun x => { x with taking := some (c.entry, es) })).ownStores x.ctx (some q)
                [.store c.entry [2], .store (x.qcb + 4) (leBytes 4 (c.head.toNat + 1))]).takeEntries q n
            | (m, _) => m
        | (m, _) => m

/-- Everything of a queue that can be taken is taken. -/
def Mach.takeQueue (m : Mach) (q : Nat) : Mach := m.takeEntries q 131074

/-- A WAKE of a control block's address: its queue is read again (R108). -/
def Mach.wakeQueues (m : Mach) (ctx : Nat) (va : Va) : Mach :=
  (m.queues.filter (fun e => e.2.en && e.2.ctx == ctx && e.2.qcb == wordVa va)).foldl (fun m e => m.takeQueue e.1) m

/-- EN is set: the control block gives the generation, HEAD is 0, and entries are taken; EN reads 0 when the block is misaligned or
cannot be read, and a page that migrates is waited for (R79, R108, R390). -/
def Mach.enableQueue (m : Mach) (q : Nat) : Mach :=
  let x := m.queues.getD q {}
  let st := (m.ctx x.ctx).state
  let off (m : Mach) : Mach := m.modQueue q (fun x => { x with en := false, enabling := false })
  if x.qcb.toNat % 32 != 0 || !(st == .live || st == .suspended) then off m
  else match m.ctxRead x.ctx x.qcb 32 with
    | (m, .bytes bs) =>
      let gen := (controlBlock bs).gen
      ((m.modQueue q (fun x => { x with en := true, enabling := false, gen, blockGen := gen, token := none })).ownStores x.ctx (some q)
        [.store (x.qcb + 4) [0, 0, 0, 0]]).takeQueue q
    | (m, .wait) => m.modQueue q (fun x => { x with en := true, enabling := true })
    | (m, _) => off m

/-- A queue goes on with what it has waited for. -/
def Mach.resumeQueue (m : Mach) (q : Nat) : Mach :=
  if (m.queues.getD q {}).enabling then m.enableQueue q else m.takeQueue q

/-- Every enabled queue looks again at what it could not read: a page has finished its migration (R79, R401). -/
def Mach.resumeQueues (m : Mach) : Mach := (m.queues.filter (fun e => e.2.en)).foldl (fun m e => m.resumeQueue e.1) m

/-- Queues whose read waited for a translation go on (R123): the read is made again, or it failed for good. -/
def Mach.queueReplay (m : Mach) (tokens : List Nat) (fail : Bool) : Mach :=
  (m.queues.filter (fun e => e.2.token.any tokens.contains)).foldl (fun m e =>
    let m := m.modQueue e.1 (fun x => { x with token := none })
    if !fail then m.takeQueue e.1
    else match e.2.taking with
      | some (va, bs) => (m.judge e.1 va bs true).takeQueue e.1
      | none => m) m

/-! ### Whole launches -/

/-- Every block of a launch is placed. -/
def Launch.wholly (l : Launch) : Bool := l.placed.length == l.record.units

/-- Every block of a launch is complete. -/
def Launch.over (l : Launch) : Bool := l.ended.length == l.record.blocks

end Sys2Proof.Machine
end

