-- ==== Sys2Proof/Machine/Heirs.lean ====
section
/-! DEFINITION. Heirs (R130, R131): which group a holding passes to when its holder ends. -/

namespace Sys2Proof.Machine

/-- The group of index i is gone: its state is ENDING, its slot is free, or it never was (R130). -/
def Block.gone (b : Block) (i : Nat) : Bool := match b.members.get? i with | some x => x.gone | none => true

/-- The next surviving sibling of index g, searching upwards and round (R130). -/
def Block.nextSibling (b : Block) (g : Nat) : Option Nat :=
  let n := b.members.length
  ((List.range (n - 1)).map (fun i => (g + 1 + i) % n)).find? (fun i => !b.gone i)

/-- The group an heir specification of group g names (R130). -/
def Block.resolve (b : Block) (spec idx g : Nat) : Option Nat :=
  match spec with
  | 1 => some idx
  | 2 => b.nextSibling g
  | 3 => some 0
  | _ => none

/-- The default heir of a gone group, as it stood at its end (R129, R131). -/
def Block.defaultHeir (b : Block) (g : Nat) : Nat × Nat := b.defaultHeirs.getD g (0, 0)

/-- Follow the default heirs of gone candidates, n more times (R131). -/
def Block.follow (b : Block) : Nat → Option Nat → Option Nat
  | 0, c => c
  | _, none => none
  | n + 1, some c =>
    if b.gone c then b.follow n (b.resolve (b.defaultHeir c).1 (b.defaultHeir c).2 c) else some c

/-- The heir of a holding of group g with this specification, or none when it is heirless (R131). `b` already counts g as
gone. -/
def Block.heirOf (b : Block) (spec idx g : Nat) : Option Nat :=
  match b.follow 3 (b.resolve spec idx g) with
  | some c => if b.gone c then none else some c
  | none => none

/-- The block as it will be once group g is gone. -/
def Block.without (b : Block) (g : Nat) (heir : Nat × Nat) : Block :=
  { b with
    members := b.members.mapVals (fun i x => if i = g then { x with gone := true } else x)
    defaultHeirs := b.defaultHeirs.set g heir }

/-- EXIT's check (R204): some holding of the group, other than a write claim, would be heirless. -/
def Mach.heirless (m : Mach) (core : Nat) (g : Group) : Bool :=
  match m.block? core g with
  | none => (m.holdings core g.uid).any (fun e => e.2.2.kind != 4)
  | some b =>
    let b := b.without g.id.gindex (g.dspec, g.didx)
    (m.holdings core g.uid).any (fun e =>
      e.2.2.kind != 4 && (b.heirOf e.2.2.heir e.2.2.hidx g.id.gindex).isNone)

end Sys2Proof.Machine
end

