-- ==== Sys2Proof/Machine/Objects.lean ====
section
/-! DEFINITION. Row E of the opcode map, positions 0 to 11: synchronisation objects and fences (R292 to R297, R323, R439),
bindings (R136 to R138), estates (R298 to R301), and waits on words (R302, R303). -/

namespace Sys2Proof.Machine

/-! ### Regions of an object (R137) -/

/-- The entry of a binding table that covers a byte. -/
def Ctx.binding? (c : Ctx) (va : Va) : Option Binding :=
  (c.bindings.find? (fun e => e.2.valid && e.2.base.toNat ≤ va.toNat && va.toNat < e.2.limit.toNat)).map (·.2)

/-- The launch object of a group (R137); the supervisor group belongs to no launch. -/
def Mach.launchObject (m : Mach) (g : Group) : Option Va :=
  if g.id.sup then none else (m.launches.get? g.id.launch).map (·.compaddr)

/-- The object that a byte belongs to, for a group (R137). -/
def Mach.ownerOf (m : Mach) (g : Group) (va : Va) : Option Va :=
  match if inWindows va then none else (m.ctx g.id.ctx).binding? va with
  | some b => some b.obj
  | none => m.launchObject g

/-- The addresses by which a context knows the line of a frame. -/
def Core.frameVas (c : Core) (ctx : Nat) (fr : Frame) : List Va :=
  (if fr.ctx = ctx then [fr.va] else []) ++
  (c.everyone.filter (fun g => g.id.ctx == ctx)).flatMap (fun g => g.lines.flatMap (fun e =>
    (e.2.lines.zip e.2.locs).filterMap (fun x => if x.2 = fr.line then some x.1 else none)))

/-- The frames of a core whose lines lie in a region of an object, for a group. -/
def Mach.framesOf (m : Mach) (core : Nat) (g : Group) (obj : Va) : List Nat :=
  let c := m.core core
  (c.frames.filter (fun e => (c.frameVas g.id.ctx e.2).any (fun va => m.ownerOf g va == some obj))).map (·.1)

/-! ### Refreshing frames (R294, R327) -/

/-- A frame that is fetched again under its own tag: bytes whose DIRTY bit is clear, in sectors whose tag still agrees. -/
def Frame.refetch (fr : Frame) (m : Mach) : Frame :=
  let cs := m.lineClasses fr.line fr.tag
  let ok (i : Nat) : Bool := cs.getD i .clean != .tagMismatch
  { fr with
    data := (List.range 128).map (fun i =>
      (i, if fr.dirty.getLsbD i || !ok (i / 32) then fr.data.getD i 0 else m.byteAt (fr.line.plus i)))
    poison := (List.range 4).foldl (fun p i =>
      if ok i && (fr.dirty >>> (32 * i)).setWidth 32 != BitVec.allOnes 32 then
        if (cs.getD i .clean).bad then p ||| (1#4 <<< i) else p &&& ~~~(1#4 <<< i)
      else p) fr.poison
    stale := (List.range 4).any (fun i => !ok i) }

/-- A frame is refreshed by an ACQ of this scope (R294). -/
def Frame.due (fr : Frame) (scope : Nat) : Bool :=
  fr.stale || match fr.line with
    | .host _ => decide (4 ≤ scope)
    | .peer _ _ => scope == 5
    | _ => false

/-- The refresh of some frames of a core for a group: pinned ones are fetched again, others become FREE; a retagged sector
freezes the group (R294). -/
def Mach.refreshFrames (m : Mach) (core slot : Nat) (g : Group) (scope : Nat) (fs : List Nat) : Mach :=
  fs.foldl (fun m f =>
    let fr := (m.core core).frame f
    if fr.state = .fetching || !fr.due scope then m
    else if fr.state = .pinned then
      let fr' := fr.refetch m
      let m := (m.noteLine fr.line 128 (some fr.tag) g.id.ctx core (some slot) 0 fr.va.toNat).modCore core (fun c => c.setFrame f fr')
      if fr'.stale then m.violation g.id.ctx core slot g.uid .tag fr.va 0 else m
    else m.modCore core (fun c => { c with frames := c.frames.erase f })) m

/-! ### Object words (R293, R439) -/

/-- The checks of an object access (R294): the word's place, or the fault. -/
def objectAim (w : Who) (m : Mach) (g : Group) (s : Span) (va : Va) (perm : Nat) : Except Trap (Mach × Loc) :=
  if va.toNat % 8 != 0 then .error (.fault .align va)
  else match s.check va.toNat 8 perm with
    | some t => .error t
    | none =>
      match m.access w.core g va 2 (fun l => l.a && (l.target != 1 || l.aplace == 1) && l.target != 3) with
      | .error t => .error t
      | .ok (m, l, _) => .ok (m, l)

/-- The tag of a line at its home: an implicit step names no span, and uses this one (R436). -/
def Mach.lineTagAt (m : Mach) (l : Loc) : FTag :=
  match l with
  | .dram a => m.lineTag a
  | .peer d a => m.peerTag d a
  | _ => 0

/-- A 64-bit word at its place. -/
def Mach.word64 (m : Mach) (l : Loc) : Dword := BitVec.ofNat 64 (leNat (m.bytesAt l 8))

/-- LST of an object word. -/
def lstOf (x : Dword) : Nat := bitsOf x.toNat 30 2

def withLst (x : Dword) (l : Nat) : Dword := (x &&& ~~~(3#64 <<< 30)) ||| BitVec.ofNat 64 (l * 2 ^ 30)

/-- The word after one more release (R293). -/
def bumpRseq (x : Dword) : Dword := (x.extractLsb' 32 32 + 1#32) ++ x.extractLsb' 0 32

/-- A word is written at its home, for a context. -/
def Mach.putWord (m : Mach) (l : Loc) (x : Dword) (tag : FTag) (ctx core slot : Nat) (va : Va) : Mach :=
  (m.writeAt l (leBytes 8 x.toNat) (some tag) ctx core (some slot) none 2 (some va)).mach

/-- A group's ACQ, REL, FENCE or estate result arrives: its registers, its status, and what waits for D (R268, R323). -/
def Group.objectDone (g : Group) (kd : RegField) (st : Status) : Group :=
  let items := regItems kd 1
  { applyWrites g (statusWrites kd st) with sb := g.sb &&& ~~~items, acqHold := g.acqHold &&& ~~~items }

/-- The group of a message, and the other copy that takes the same answer. -/
def Msg.parties (x : Msg) : List (Nat × Nat × Nat) :=
  (x.core, x.slot, x.uid) :: (match x.twin with | some t => [t] | none => [])

def Mach.modParties (m : Mach) (x : Msg) (f : Group → Group) : Mach :=
  x.parties.foldl (fun m p => m.modUid p.1 p.2.1 p.2.2 f) m

/-- The context of a group by its identity. -/
def Mach.ctxOf (m : Mach) (x : Msg) : Nat :=
  match m.findGroup x.core x.slot x.uid with | some g => g.id.ctx | none => 0xFFFF

/-- How the word of an object step reads at its home (R83, R439): usable, or the machine after what its error brings. -/
def Mach.objectRead (m : Mach) (x : Msg) (loc : Loc) (va : Va) (tag : FTag) (kd : RegField) : Except Mach Dword :=
  match m.classAt loc (some tag) with
  | .tagMismatch => .error (m.violationD x.core x.slot x.uid .tag va 2 (regItems kd 1))
  | .poisoned => .error (m.consumeUid x.core x.slot x.uid va 2)
  | .uncorrectable => .error (m.consumeUid x.core x.slot x.uid va 2)
  | _ => .ok (m.word64 loc)

/-- The word of an object step is read at its home, and not written (R83). -/
def Mach.noteWord (m : Mach) (x : Msg) (loc : Loc) (va : Va) (tag : FTag) : Mach :=
  m.noteRead loc 8 (some tag) (m.ctxOf x) x.core (some x.slot) 2 va.toNat

/-! ### ACQ (R294) -/

/-- A group that takes a lock is critical (R157). -/
def Group.lockTaken (g : Group) (allow : BitVec 16) : Group :=
  { g with crit := true, callow := if g.crit then g.callow else allow }

/-- The frames of a group's core are made current for an object: every notice on its way is taken first, so that each byte written
before the acquire is found stale (R294, R321, log 88). -/
def Mach.acquireFrames (m : Mach) (core slot : Nat) (g : Group) (scope : Nat) (obj : Va) : Mach :=
  let m := m.takeNotices core
  m.refreshFrames core slot g scope (m.framesOf core g obj)

/-- The end of an ACQ: it meets the releases of its word, the frames of each party's core are refreshed and D is written. -/
def Mach.acqEnd (m : Mach) (x : Msg) (scope : Nat) (kd : RegField) (loc : Loc) (obj : Va) (st : Status) : Mach :=
  x.parties.foldl (fun m p =>
    match m.findGroup p.1 p.2.1 p.2.2 with
    | none => m
    | some g =>
      let m := m.meet loc p.1 p.2.1 p.2.2 scope
      let m := if scope = 0 then m else m.acquireFrames p.1 p.2.1 g scope obj
      m.modUid p.1 p.2.1 p.2.2 (fun g => g.objectDone kd st)) m

/-- An estate entry is kept for an operation of a group until it is decided; the copy of a duplex pair with index 1 records none
(R128, R376). -/
def Mach.reserve (m : Mach) (core : Nat) (g : Group) : Mach :=
  if g.id.copyIndex then m else m.modCore core (fun c => { c with reserved := c.reserved + 1 })

/-- The entry kept for the operation of a message is given back. -/
def Mach.unreserve (m : Mach) (x : Msg) : Mach :=
  if (m.findGroup x.core x.slot x.uid).any (fun g => g.id.copyIndex) then m
  else m.modCore x.core (fun c => { c with reserved := c.reserved - 1 })

/-- A lock is taken (R294): the word is HELD, the holding is created, and the group is critical. -/
def Mach.lockGrant (m : Mach) (x : Msg) (scope : Nat) (kd : RegField) (loc : Loc) (va : Va) (tag : FTag) (old : Dword)
    (st : Status) : Mach :=
  let m := (m.putWord loc (withLst old 1) tag (m.ctxOf x) x.core x.slot va).unreserve x
  let allow := (m.ctx (m.ctxOf x)).callow
  let m := match m.findGroup x.core x.slot x.uid with
    | some g => m.acquire x.core x.slot g 0 (va.setWidth 64)
    | none => m
  (m.modParties x (fun g => g.lockTaken allow)).acqEnd x scope kd loc va st

/-- An ACQ's step at the home of its object; the message has left the queue, and one that must wait joins its end (R270,
R294), unless its group is ENDING, for which it is withdrawn (R370 step 3). -/
def Mach.acqStep (m : Mach) (x : Msg) (mode scope : Nat) (kd : RegField) (loc : Loc) (va : Va) (tag : FTag) : Mach :=
  match m.objectRead x loc va tag kd with
  | .error m => if mode = 0 then m else m.unreserve x
  | .ok w =>
    let fail (st : Status) : Mach := ((m.noteWord x loc va tag).unreserve x).modParties x (fun g => g.objectDone kd st)
    if mode = 0 then (m.noteWord x loc va tag).acqEnd x scope kd loc va .ok
    else match lstOf w with
      | 3 => fail .mismatch
      | 0 => m.lockGrant x scope kd loc va tag w .ok
      | 2 => m.lockGrant x scope kd loc va tag w .orphaned
      | _ =>
        if mode = 2 then fail .claimed
        else if (m.findGroup x.core x.slot x.uid).all (fun g => g.state == .ending) then m.unreserve x
        else { m with msgs := m.msgs ++ [{ x with body := .object (.acq mode scope kd) loc va tag true }] }

/-- The ACQ.LOCKs that wait at the home of an object decide again, in their order of arrival, until one holds it; at most n
of them (R294). -/
def Mach.lockServe (m : Mach) (loc : Loc) : Nat → Mach
  | 0 => m
  | n + 1 =>
    if lstOf (m.word64 loc) = 1 then m
    else
      let waits (x : Msg) : Bool := match x.body with | .object (.acq _ _ _) l _ _ true => l == loc | _ => false
      match m.msgs.find? waits with
      | none => m
      | some x => match x.body with
        | .object (.acq mode scope kd) _ va tag _ =>
          (Mach.acqStep { m with msgs := m.msgs.erase x } x mode scope kd loc va tag).lockServe loc n
        | _ => m

/-! ### REL, implicit releases and FENCE (R295, R297, R304) -/

/-- A store, write-back, atomic, put (data and counter add) or TAGSET that the group issued before this message has not
been performed at its place (R295, R297); one that the other copy of a duplex group makes for both counts too, since the window
of this message has released it (R330). -/
def Mach.outstanding (m : Mach) (core uid id : Nat) : Bool :=
  m.msgs.any (fun x => x.serves core uid && (x.uid != uid || x.id < id) && match x.body with
    | .writeBack _ _ _ _ _ _ _ => true
    | .put _ _ _ _ _ _ _ => true
    | .atomic _ _ _ _ _ _ _ _ _ => true
    | .tagset _ _ => true
    | .counter _ _ _ _ => true
    | _ => false) ||
  m.fabricAtomics.any (fun x => x.performed.isNone && (x.uid == uid && x.core == core ||
    match x.twin with | some (c, _, u) => c == core && u == uid | none => false))

/-- Host-bound writes of a context wait in its reserve (R377). -/
def Mach.hostPending (m : Mach) (ctx scope : Nat) : Bool := 4 ≤ scope && m.linkDown && !(m.ctx ctx).reserve.isEmpty

/-- The dirty frames that a release writes back (R295): bound by a line register of the group, in a region of the object. -/
def Mach.relFrames (m : Mach) (g : Group) (obj : Va) : List Nat :=
  g.lines.flatMap (fun e => (e.2.lines.zip e.2.frames).filterMap (fun x =>
    match x.2 with
    | some f => if m.ownerOf g x.1 = some obj then some f else none
    | none => none))

/-- The write-backs of a release; the other copy's frames are clean with them (R330). -/
def Mach.relFlush (m : Mach) (x : Msg) (obj : Va) : Mach :=
  let m := match m.findGroup x.core x.slot x.uid with
    | some g => (m.relFrames g obj).foldl (fun m f => m.sendDirty x.core x.slot x.uid false .release f) m
    | none => m
  match x.twin with
  | none => m
  | some (c, s, u) => match m.findGroup c s u with
    | some g => (m.relFrames g obj).foldl (fun m f => m.modCore c (fun k => k.modFrame f (fun fr => { fr with dirty := 0 }))) m
    | none => m

/-- A release's write-backs are not all performed, or the end of its group has sent the bytes instead (R295, R328). -/
def Mach.releasing (m : Mach) (x : Msg) : Bool :=
  m.msgs.any (fun y => y.uid == x.uid && y.core == x.core && match y.body with
    | .writeBack _ _ _ _ _ _ .release => true
    | .writeBack _ _ _ _ _ _ .exit => true
    | _ => false)

/-- The parties of a message are not critical once they hold no lock (R295); the group of the message keeps the holdings of both copies of
a duplex pair (R376). -/
def Mach.critOff (m : Mach) (x : Msg) : Mach :=
  if (m.holdings x.core x.uid).any (fun e => e.2.2.kind == 0) then m
  else m.modParties x (fun g => { g with crit := false })

/-- A release's step at the home of its object (R295): the status it gives. An acquire that meets it follows what it follows (R319). -/
def Mach.relStep (m : Mach) (x : Msg) (scope : Nat) (loc : Loc) (va : Va) (tag : FTag) (w : Dword) : Mach × Status :=
  let m := match m.findGroup x.core x.slot x.uid with
    | some g => m.mark loc x.core g scope (g.knows x.id)
    | none => m
  match m.holding? x.core x.uid 0 (va.setWidth 64) with
  | none => ((m.putWord loc (bumpRseq w) tag (m.ctxOf x) x.core x.slot va).critOff x, .ok)
  | some (c, i, e) =>
    let m := ((m.putWord loc (withLst (bumpRseq w) 0) tag (m.ctxOf x) x.core x.slot va).eraseEstate c i).critOff x
    (m.lockServe loc (m.msgs.length + 1), if e.brv then .bereaved else .ok)

/-- The hold that a REL keeps on the group's later memory instructions ends (R323). -/
def Group.unrel (g : Group) : Group := { g with relHold := g.relHold - 1 }

/-- A REL or an implicit release goes on, at the core or at the home; none when it must wait. `kd` is none for an implicit
one, which gives no status and is made under the tag that the word's line then has (R436); `wordless` says that its word has no translation, so that only the step at the word is left out
(R436). -/
def Mach.relArrive (m : Mach) (n : Nat) (x : Msg) (scope : Nat) (kd : Option RegField) (second : Bool) (loc : Loc) (va : Va)
    (tag : FTag) (wordless : Bool := false) : Option Mach :=
  let again : ObjStep := match kd with | some k => .rel scope k true | none => .implicitRel true
  if !second then
    if m.outstanding x.core x.uid x.id then none
    else
      let m := if scope = 0 then m else m.relFlush x va
      some (m.keepMsg n { x with place := loc.place, body := .object again loc va tag wordless })
  else if m.releasing x || m.hostPending (m.ctxOf x) scope then none
  else
    let m := (m.takeMsg n).modParties x Group.unrel
    let tag := if kd.isSome then tag else m.lineTagAt loc
    if wordless then some m
    else match m.objectRead x loc va tag (kd.getD 47) with
    | .error m => some m
    | .ok w =>
      let (m, st) := m.relStep x scope loc va tag w
      some (match kd with | some k => m.modParties x (fun g => g.objectDone k st) | none => m)

/-! ### PROMISE and RELINQ at the home (R298, R299) -/

/-- An implicit release that the group issued before this message is not over. -/
def Mach.implicitPending (m : Mach) (x : Msg) : Bool :=
  m.msgs.any (fun y => y.uid == x.uid && y.core == x.core && y.id < x.id && match y.body with
    | .object (.implicitRel _) _ _ _ _ => true | _ => false)

/-- A PROMISE arrives (R298). -/
def Mach.promiseStep (m : Mach) (x : Msg) (kd : RegField) (loc : Loc) (va : Va) (tag : FTag) : Mach :=
  let m := m.unreserve x
  match m.objectRead x loc va tag kd with
  | .error m => m
  | .ok w =>
    let answer (m : Mach) (st : Status) : Mach := m.modParties x (fun g => g.objectDone kd st)
    match w.toNat % 4 with
    | 1 => answer (m.noteWord x loc va tag) .mismatch
    | 3 => answer (m.noteWord x loc va tag) .broken
    | _ =>
      let m := m.putWord loc 1 tag (m.ctxOf x) x.core x.slot va
      answer (match m.findGroup x.core x.slot x.uid with
        | some g => m.acquire x.core x.slot g 1 (va.setWidth 64)
        | none => m) .ok

/-- A RELINQ of a promise arrives (R299): the promise is kept, if the group still holds it. -/
def Mach.relinqStep (m : Mach) (x : Msg) (value : Word) (kd : RegField) (loc : Loc) (va : Va) (tag : FTag) : Mach :=
  match m.objectRead x loc va tag kd with
  | .error m => m
  | .ok _ =>
    if (m.holding? x.core x.uid 1 (va.setWidth 64)).isNone then (m.noteWord x loc va tag).modParties x (fun g => g.objectDone kd .mismatch)
    else ((m.putWord loc (value ++ 2#32) tag (m.ctxOf x) x.core x.slot va).endHolding x.core x.uid 1 (va.setWidth 64)).modParties x
      (fun g => g.objectDone kd .ok)

/-! ### Bindings (R136 to R138, R296) -/

/-- Two regions overlap. -/
def Binding.meets (b : Binding) (base limit : Va) : Bool := b.base.toNat < limit.toNat && base.toNat < b.limit.toNat

/-- The lowest entry of a binding table that is not VALID. -/
def Ctx.freeBinding (c : Ctx) : Option Nat := (List.range 1024).find? (fun i => !(c.bindings.get? i).any (fun b => b.valid))

/-- BIND's change of a binding table (R137); of the free entries it takes the lowest (DESIGN CHOICE, log 94: R137 does not say
which). -/
def Ctx.bind (c : Ctx) (obj base limit : Va) : Ctx × Status :=
  if inWindows base || Config.peerWindow < limit.toNat || limit.toNat ≤ base.toNat || base.toNat % 128 != 0 || limit.toNat % 128 != 0 then (c, .mismatch)
  else if c.bindings.any (fun e => e.2.valid && e.2.meets base limit) then (c, .mismatch)
  else match c.freeBinding with
    | none => (c, .full)
    | some i => ({ c with bindings := c.bindings.set i { obj, limit, base } }, .ok)

/-- UNBIND's change of a binding table (R136, R137): the entry is found by its region alone, and only its VALID changes. -/
def Ctx.unbind (c : Ctx) (base limit : Va) : Ctx × Status :=
  match c.bindings.find? (fun e => e.2.valid && e.2.base == base && e.2.limit == limit) with
  | some (i, b) => ({ c with bindings := c.bindings.set i { b with valid := false } }, .ok)
  | none => (c, .mismatch)

/-- BIND or UNBIND is performed (R138). -/
def Mach.bindStep (m : Mach) (x : Msg) (add : Bool) (obj base limit : Va) (kd : RegField) : Mach :=
  let ctx := m.ctxOf x
  let (c, st) := if add then (m.ctx ctx).bind obj base limit else (m.ctx ctx).unbind base limit
  (m.modCtx ctx (fun _ => c)).modParties x (fun g => g.objectDone kd st)

/-! ### What arrives -/

/-- An object message goes on; none when it must wait (R270, R294 to R299). -/
def Mach.objectArrive (m : Mach) (n : Nat) (x : Msg) (step : ObjStep) (loc : Loc) (va : Va) (tag : FTag)
    (waiting : Bool) : Option Mach :=
  match step with
  | .acq mode scope kd =>
    if waiting || (m.linkDown && 4 ≤ scope) then none else some ((m.takeMsg n).acqStep x mode scope kd loc va tag)
  | .rel scope kd second => m.relArrive n x scope (some kd) second loc va tag
  | .implicitRel second => m.relArrive n x 3 none second loc va tag waiting
  | .promise kd => some ((m.takeMsg n).promiseStep x kd loc va tag)
  | .relinq value kd => if m.implicitPending x then none else some ((m.takeMsg n).relinqStep x value kd loc va tag)
  | .fence scope kd =>
    if m.outstanding x.core x.uid x.id || m.hostPending (m.ctxOf x) scope then none
    else some ((m.takeMsg n).modParties x (fun g => g.objectDone kd .ok))
  | .bind base limit add kd => some ((m.takeMsg n).bindStep x add va base limit kd)

/-! ### Issue -/

/-- The address of a block that names a span in bits 3:0 of its second word. -/
def blockAddr (g : Group) (f : Fields) : Span × Va :=
  let s := g.span ((blockWord g f 1).toNat % 16)
  (s, s.ptr + (blockWord g f 0).signExtend 56)

/-- ACQ (R294). -/
def bodyAcq : Body := groupWide fun w m g =>
  let k1 := (blockWord g w.f 1).toNat
  let scope := bitsOf k1 4 3
  let mode := bitsOf k1 8 2
  let (s, va) := blockAddr g w.f
  let items := regItems w.f.fd 1
  if k1 >>> 10 != 0 || k1.testBit 7 || 6 ≤ scope || mode = 3 then .error (.fault .illegal 0)
  else if inWindows va && va.toNat % 8 = 0 && (s.check va.toNat 8 2).isNone then .error (.fault .access va)
  else match objectAim w m g s va 2 with
    | .error t => .error t
    | .ok (m, l) =>
      if mode != 0 && (m.holds? w.core g 0 (va.setWidth 64)).isSome then
        answerD w (m.modGroup w.core w.slot (fun g => { g with acqHold := g.acqHold ||| items })) g .mismatch
      else if mode != 0 && !g.id.copyIndex && (m.core w.core).estateFree = 0 then .error (.fault .estatefull 0)
      else if g.gated then .error .retry
      else
        let m := if mode = 0 then m else m.reserve w.core g
        let m := m.modGroup w.core w.slot (fun g => { g with sb := g.sb ||| items, acqHold := g.acqHold ||| items })
        .ok (m.send w.core w.slot g.uid l.place 0 g.id.duplex (.object (.acq mode scope w.f.fd) l va s.tag false))
def execAcq (w : WordA) (s : State) : Host.Outcome State Fault Refusal := issue 4 (fieldsA 0xE0 w) bodyAcq s

/-- REL (R295): the window of a duplex group closes with it (R376). -/
def bodyRel : Body := groupWide fun w m g =>
  let k1 := (blockWord g w.f 1).toNat
  let scope := bitsOf k1 4 3
  let (s, va) := blockAddr g w.f
  if k1 >>> 7 != 0 || 6 ≤ scope then .error (.fault .illegal 0)
  else if inWindows va && va.toNat % 8 = 0 && (s.check va.toNat 8 2).isNone then .error (.fault .access va)
  else match objectAim w m g s va 2 with
    | .error t => .error t
    | .ok (m, l) =>
      if g.gated then .error .retry
      else
        let m := m.modGroup w.core w.slot (fun g => { g with sb := g.sb ||| regItems w.f.fd 1, relHold := g.relHold + 1 })
        let m := m.send w.core w.slot g.uid (9000 + w.core) 0 g.id.duplex (.object (.rel scope w.f.fd false) l va s.tag false)
        .ok (m.closeWindow w.core w.slot g.uid)
def execRel (w : WordA) (s : State) : Host.Outcome State Fault Refusal := issue 4 (fieldsA 0xE1 w) bodyRel s

/-- FENCE (R297): the window of a duplex group closes with it (R376). -/
def bodyFence : Body := groupWide fun w m g =>
  let items := regItems w.f.fd 1
  if g.gated then .error .retry
  else
    let m := m.modGroup w.core w.slot (fun g => { g with sb := g.sb ||| items, acqHold := g.acqHold ||| items })
    let m := m.send w.core w.slot g.uid (9000 + w.core) 0 false
      (.object (.fence (w.f.imm.toNat % 8) w.f.fd) (.dram 0) 0 0 false)
    .ok (m.closeWindow w.core w.slot g.uid)
def execFence (w : WordI) (s : State) : Host.Outcome State Fault Refusal := issue 4 (fieldsI 0xE4 w) bodyFence s

/-- A span is VALID and holds n bytes at a (R60), whatever its permissions. -/
def Span.bounds (s : Span) (a n : Nat) : Option Trap :=
  if !s.valid || a < s.base.toNat then some (.fault .span (BitVec.ofNat 56 a))
  else if s.limit.toNat < a + n then some (.fault .span (BitVec.ofNat 56 (max a s.limit.toNat)))
  else none

/-- The physical address of the first line of a context's binding table (R138, R389). -/
def bindingHome (c : Ctx) : Nat := c.sabase + 0x200000

/-- BIND and UNBIND (R296). -/
def bindBody (add : Bool) : Body := groupWide fun w m g =>
  let k := blockWord g w.f
  let so := g.span ((k 3).toNat % 16)
  let sr := g.span (bitsOf (k 3).toNat 4 4)
  let obj := so.ptr + (k 0).signExtend 56
  let base := sr.ptr + (k 1).signExtend 56
  let n := (k 2).toNat
  if (k 3).toNat >>> 8 != 0 then .error (.fault .illegal 0)
  else if obj.toNat % 8 != 0 then .error (.fault .align obj)
  else match so.check obj.toNat 8 2 with
    | some t => .error t
    | none => match sr.bounds base.toNat n with
      | some t => .error t
      | none =>
        if g.gated then .error .retry
        else
          let m := m.modGroup w.core w.slot (fun g => { g with sb := g.sb ||| regItems w.f.fd 1 })
          .ok (m.send w.core w.slot g.uid (sliceOf (bindingHome (m.ctx g.id.ctx))) 0 g.id.duplex
            (.object (.bind base (base + BitVec.ofNat 56 n) add w.f.fd) (.dram 0) obj so.tag false))

/-- BIND. -/
def bodyBind : Body := bindBody true
def execBind (w : WordA) (s : State) : Host.Outcome State Fault Refusal := issue 4 (fieldsA 0xE2 w) bodyBind s
/-- UNBIND. -/
def bodyUnbind : Body := bindBody false
def execUnbind (w : WordA) (s : State) : Host.Outcome State Fault Refusal := issue 4 (fieldsA 0xE3 w) bodyUnbind s

/-- PROMISE (R298). -/
def bodyPromise : Body := groupWide fun w m g =>
  let (s, va) := blockAddr g w.f
  if (blockWord g w.f 1).toNat >>> 4 != 0 then .error (.fault .illegal 0)
  else match objectAim w m g s va 2 with
    | .error t => .error t
    | .ok (m, l) =>
      if !g.id.copyIndex && (m.core w.core).estateFree = 0 then .error (.fault .estatefull 0)
      else if g.gated then .error .retry
      else
        let m := (m.reserve w.core g).modGroup w.core w.slot (fun g => { g with sb := g.sb ||| regItems w.f.fd 1 })
        .ok (m.send w.core w.slot g.uid l.place 0 g.id.duplex (.object (.promise w.f.fd) l va s.tag false))
def execPromise (w : WordA) (s : State) : Host.Outcome State Fault Refusal := issue 4 (fieldsA 0xE5 w) bodyPromise s

/-- The group holds an object by HOLD (R299): by its estate entry, or, for the copy of a duplex pair with index 1, by its own list
(R376, log 18). -/
def Mach.holdsObject (m : Mach) (core : Nat) (g : Group) (key : Dword) : Bool :=
  if g.id.copyIndex then g.objects.contains key else (m.holding? core g.uid 6 key).isSome

/-- The group's holding of an object ends. -/
def Mach.dropObject (m : Mach) (core slot : Nat) (g : Group) (key : Dword) : Mach :=
  if g.id.copyIndex then m.modGroup core slot (fun g => { g with objects := g.objects.erase key })
  else m.endHolding core g.uid 6 key

/-- HOLD (R299). -/
def bodyHold : Body := groupWide fun w m g =>
  let (s, va) := blockAddr g w.f
  if (blockWord g w.f 1).toNat >>> 4 != 0 then .error (.fault .illegal 0)
  else if va.toNat % 8 != 0 then .error (.fault .align va)
  else match s.bounds va.toNat 8 with
    | some t => .error t
    | none =>
      if m.holdsObject w.core g (va.setWidth 64) then answerD w m g .mismatch
      else if g.id.copyIndex then
        answerD w (m.modGroup w.core w.slot (fun g => { g with objects := va.setWidth 64 :: g.objects })) g .ok
      else if !g.id.copyIndex && (m.core w.core).estateFree = 0 then .error (.fault .estatefull 0)
      else answerD w (m.acquire w.core w.slot g 6 (va.setWidth 64)) g .ok
def execHold (w : WordA) (s : State) : Host.Outcome State Fault Refusal := issue 4 (fieldsA 0xE7 w) bodyHold s

/-- The implicit release of an object at DEVICE scope leaves before what the instruction sends (R299, R304). Its word is translated
first: a fault waits and is replayed, and a word that has no translation is left out of the release (R436). A group of no launch
makes none. -/
def implicitRelease (w : Who) (m : Mach) (g : Group) (obj : Option Va) : Except Trap Mach :=
  let leave (m : Mach) (l : Loc) (va : Va) (wordless : Bool) : Except Trap Mach :=
    .ok ((m.modGroup w.core w.slot (fun g => { g with relHold := g.relHold + 1, skipImplicit := false })).send w.core w.slot g.uid
      (9000 + w.core) 0 g.id.duplex (.object (.implicitRel false) l va (m.lineTagAt l) wordless))
  match obj with
  | none => .ok m
  | some va =>
    if g.skipImplicit then leave m (.dram 0) va true
    else match m.access w.core g va 2 (fun _ => true) with
      | .ok (m, l, _) => leave m l va false
      | .error (.fault _ _) => leave m (.dram 0) va true
      | .error (.xlat a acc level _) => .error (.xlat a acc level true)
      | .error t => .error t

/-- The claim of this group on the line of an address, in any claim table of its cluster: core and index (R127, R299). -/
def Mach.claimOn (m : Mach) (core : Nat) (g : Group) (line : Loc) : Option (Nat × Nat) :=
  ((m.holdings core g.uid).find? (fun e => e.2.2.kind == 4 && match (m.core e.1).claims.get? e.2.2.key.toNat with
    | some c => c.line == line && c.uid == g.uid | none => false)).map (fun e => (e.1, e.2.2.key.toNat))

/-- RELINQ (R299). -/
def bodyRelinq : Body := groupWide fun w m g =>
  let k1 := (blockWord g w.f 1).toNat
  let kind := bitsOf k1 4 3
  let (s, va) := blockAddr g w.f
  let value := g.reg w.f.fb 0
  if k1 >>> 7 != 0 || !(kind = 1 || kind = 4 || kind = 6) then .error (.fault .illegal 0)
  else if va.toNat % 8 != 0 then .error (.fault .align va)
  else if kind = 6 then
    if m.holdsObject w.core g (va.setWidth 64) then answerD w (m.dropObject w.core w.slot g (va.setWidth 64)) g .ok
    else answerD w m g .mismatch
  else if kind = 4 then
    match m.access w.core g va 1 (fun _ => true) with
    | .error t => .error t
    | .ok (m, l, _) => match m.claimOn w.core g l.line with
      | some (c, i) =>
        if g.writesLine 8 l.line then answerD w m g .mismatch else answerD w (m.dropClaim c i) g .ok
      | none => answerD w m g .mismatch
  else if (m.holds? w.core g 1 (va.setWidth 64)).isNone then answerD w m g .mismatch
  else if g.gated then .error .retry
  else match m.access w.core g va 2 (fun _ => true) with
    | .error t => .error t
    | .ok (m, l, _) => match implicitRelease w m g (m.ownerOf g va) with
      | .error t => .error t
      | .ok m =>
        let m := m.modGroup w.core w.slot (fun g => { g with sb := g.sb ||| regItems w.f.fd 1 })
        .ok (m.send w.core w.slot g.uid l.place 0 g.id.duplex (.object (.relinq value w.f.fd) l va s.tag false))
def execRelinq (w : WordA) (s : State) : Host.Outcome State Fault Refusal := issue 4 (fieldsA 0xE8 w) bodyRelinq s

/-! ### HEIR and ESTAT (R300, R301) -/

/-- A holding of KIND with the key that HEIR's block names (R300). -/
def Mach.heirMatch (m : Mach) (core : Nat) (g : Group) (kind : Nat) (sp : Nat) (k2 : Word) (e : Nat × Nat × Estate) : Bool :=
  let va := (g.span sp).ptr + k2.signExtend 56
  e.2.2.kind == kind && match kind with
    | 2 => e.2.2.key.toNat == bitsOf k2.toNat 16 12 * 16 + k2.toNat % 16 && memberOf e.1 == bitsOf k2.toNat 8 3
    | 3 => e.2.2.key == k2.setWidth 64
    | 4 => match m.access core g va 1 (fun _ => true) with
      | .ok (m, l, _) => (match (m.core e.1).claims.get? e.2.2.key.toNat with | some c => c.line == l.line | none => false)
      | .error _ => false
    | 5 => false
    | _ => e.2.2.key == va.setWidth 64

/-- The address that HEIR names a claim by is translated first: it waits for a fault's replay (R78, R300). -/
def Mach.heirAim (m : Mach) (core : Nat) (g : Group) (kind sp : Nat) (k2 : Word) : Except Trap Mach :=
  if kind != 4 then .ok m
  else match m.access core g ((g.span sp).ptr + k2.signExtend 56) 1 (fun _ => true) with
    | .ok (m, _, _) => .ok m
    | .error (.fault _ _) => .ok m
    | .error t => .error t

/-- HEIR (R300), on the entries that stand for the group's holdings (R376). For kind 5 the second word of the key is zero, whatever SPEC says (R228). -/
def bodyHeir : Body := groupWide fun w m g =>
  let k0 := (blockWord g w.f 0).toNat
  let k1 := (blockWord g w.f 1).toNat
  let k2 := blockWord g w.f 2
  let spec := k0 % 8
  let idx := if spec = 1 then bitsOf k0 8 8 else 0
  let answer (m : Mach) (st : Status) : Except Trap Mach := .ok (commit w m (statusWrites w.f.fd st))
  let groups := match m.block? w.core g with | some b => b.members.length | none => 0
  if bitsOf k0 16 14 != 0 || bitsOf k0 3 5 != 0 || k1 >>> 8 != 0 || blockWord g w.f 3 != 0 ||
    (k0.testBit 31 && (k1 != 0 || k2 != 0)) || (!k0.testBit 30 && k1 % 16 = 5 && k2 != 0) then .error (.fault .illegal 0)
  else if 4 ≤ spec || (spec = 1 && (groups ≤ idx || idx == g.id.gindex)) then answer m .mismatch
  else if k0.testBit 31 then answer (m.setGroup w.core w.slot { g with dspec := spec, didx := idx }) .ok
  else match (if k0.testBit 30 then .ok m else m.heirAim w.core g (k1 % 16) (k1 / 16) k2) with
  | .error t => .error t
  | .ok m =>
    let keep := m.keeper w.core g
    let hs := (m.holdings keep.1 keep.2).filter (fun e =>
      k0.testBit 30 || m.heirMatch w.core g (k1 % 16) (k1 / 16) k2 e)
    if hs = [] then answer m .mismatch
    else answer (hs.foldl (fun m e => m.modCore e.1 (fun c => { c with
      estate := c.estate.set e.2.1 { e.2.2 with heir := spec, hidx := idx } })) m) .ok
def execHeir (w : WordA) (s : State) : Host.Outcome State Fault Refusal := issue 4 (fieldsA 0xE6 w) bodyHeir s

/-- An estate entry as its 128 bits (R126). -/
def Estate.bits (e : Estate) : BitVec 128 :=
  BitVec.ofNat 128 (2 ^ 127 + e.kind * 2 ^ 123 + e.hmem * 2 ^ 120 + e.hslot * 2 ^ 109 + e.heir * 2 ^ 106 + e.hidx * 2 ^ 98 +
    (if e.brv then 2 ^ 97 else 0) + e.order.toNat * 2 ^ 64 + e.key.toNat)

/-- A group's holdings in reverse acquisition order (R129, R301). -/
def Mach.estateOrder (m : Mach) (core : Nat) (g : Group) : List (Nat × Nat × Estate) :=
  (m.holdings core g.uid).mergeSort (fun a b => (g.eseq - a.2.2.order).toNat ≤ (g.eseq - b.2.2.order).toNat)

/-- ESTAT (R301), of the entries that stand for the group's holdings (R376). -/
def bodyEstat : Body := fun _ w m => withGroup w m fun g =>
  let ts := g.participants w.f.g
  let keep := m.keeper w.core g
  let hs := m.estateOrder keep.1 ((m.findGroup keep.1 w.slot keep.2).getD g)
  let entry (r : Nat) : BitVec 128 := match hs[r]? with | some e => e.2.2.bits | none => 0
  .ok (commit w m ((passes (fun g t => writeWide w.f.fd t 0
    ((List.range 4).map (fun i => (entry (g.reg w.f.fa t).toNat).extractLsb' (32 * i) 32))) g ts).2 ++ resultTag ts w.f.fd 4 2))
def execEstat (w : WordA) (s : State) : Host.Outcome State Fault Refusal := issue 4 (fieldsA 0xE9 w) bodyEstat s

/-! ### WAITW and WAKE (R302, R303) -/

/-- The checks of a word that WAITW or WAKE names. -/
def wordAim (w : Who) (m : Mach) (g : Group) (perm acc : Nat) (leaf : Leaf → Bool) : Except Trap (Mach × Span × Va × Loc) :=
  let (s, va) := blockAddr g w.f
  if (blockWord g w.f 1).toNat >>> 4 != 0 then .error (.fault .illegal 0)
  else if va.toNat % 4 != 0 then .error (.fault .align va)
  else match s.check va.toNat 4 perm with
    | some t => .error t
    | none =>
      if inWindows va then .error (.fault .access va)
      else match m.access w.core g va acc leaf with
        | .error t => .error t
        | .ok (m, l, _) => .ok (m, s, va, l)

/-- WAITW (R302). -/
def bodyWaitw : Body := groupWide fun w m g =>
  match wordAim w m g 0 0 (fun l => l.rd) with
  | .error t => .error t
  | .ok (m, s, va, l) =>
    .ok ((m.modGroup w.core w.slot (fun g => { g with wait := some (.waitw va w.f.fd) })).send w.core w.slot g.uid l.place 0
      false (.waiter va l s.tag (g.reg w.f.fb 0) w.f.fd false))
def execWaitw (w : WordA) (s : State) : Host.Outcome State Fault Refusal := issue 4 (fieldsA 0xEA w) bodyWaitw s

/-- WAKE (R303). -/
def bodyWake : Body := groupWide fun w m g =>
  match wordAim w m g 1 1 (fun l => l.w) with
  | .error t => .error t
  | .ok (m, _, va, l) =>
    if g.gated then .error .retry
    else
      let m := m.modGroup w.core w.slot (fun g => { g with sb := g.sb ||| regItems w.f.fd 1 })
      .ok (m.send w.core w.slot g.uid l.place 0 g.id.duplex (.wake va w.f.fd))
def execWake (w : WordA) (s : State) : Host.Outcome State Fault Refusal := issue 4 (fieldsA 0xEB w) bodyWake s

/-- A WAKE arrives (R303). -/
def Mach.wakeArrive (m : Mach) (x : Msg) (va : Va) (ks : RegField) : Mach :=
  ((m.wakeKey (m.ctxOf x) va).wakeQueues (m.ctxOf x) va).modParties x (fun g => g.objectDone ks .ok)

end Sys2Proof.Machine
end

