-- ==== Sys2Proof/Machine/Own.lean ====
section
/-! DEFINITION. What the device does on its own in a context's memory and may have to wait for (R78, R79, R106, R123, R436, R439): the
settlement of heirless locks and promises, the implicit acquire of a DEQ, and how a waiting job goes on. -/

namespace Sys2Proof.Machine

/-- A host page, while the link is down, is not reached by a read (R377). -/
def Mach.hostAway (m : Mach) (l : Loc) : Bool := m.linkDown && match l with | .host _ => true | _ => false

/-- The word of a heirless lock or promise is changed at its home, under its line's own tag (R127, R436). One that reads
uncorrectable stays as it is (R439). -/
def Mach.settleWord (m : Mach) (ctx : Nat) (va : Va) (l : Loc) (f : Dword → Dword) : Mach :=
  if m.anyClass l 8 none SecClass.bad then m
  else (m.writeAt l (leBytes 8 (f (m.word64 l)).toNat) none ctx 0 none none 1 (some va)).mach

/-- A heirless lock is ORPHANED, and the ACQ.LOCKs that wait for it decide again (R127, R294). -/
def Mach.orphanWord (m : Mach) (ctx : Nat) (va : Va) (l : Loc) : Mach :=
  (m.settleWord ctx va l (fun x => withLst x 2)).lockServe l (m.msgs.length + 1)

/-- A heirless promise is BROKEN (R127, R298). -/
def Mach.breakWord (m : Mach) (ctx : Nat) (va : Va) (l : Loc) : Mach := m.settleWord ctx va l (fun x => x ||| 3)

/-- A settlement: it waits for its translation, for a page that migrates and for the link (R78, R79, R436). -/
def Mach.settleStep (m : Mach) (ctx : Nat) (va : Va) (settle : Mach → Loc → Mach) : Mach × OwnEnd :=
  match m.ctxXlate ctx va with
  | (m, .ok l _) => if m.hostAway l then (m, .wait) else (settle m l, .done)
  | (m, .fault level) => (m, .fault va 1 level)
  | (m, .access) => (m, .done)
  | (m, .migrating) => (m, .wait)

/-- An implicit acquire is over: the frames are current, and the answer of its instruction is written (R294, R305). -/
def Mach.acquireOver (m : Mach) (core slot uid : Nat) (va : Va) (writes : List RegWrite) (clears : BitVec 96) : Mach :=
  match m.findGroup core slot uid with
  | none => m
  | some g => (m.acquireFrames core slot g 3 va).modUid core slot uid (fun g =>
      { applyWrites g writes with sb := g.sb &&& ~~~clears })

/-- The implicit acquire of a DEQ (R305): its word is read at its home; an uncorrectable one is consumed instead, which for a group that is
ENDING only posts its entry (R439). Such a group acquires nothing else. -/
def Mach.acquireStep (m : Mach) (ctx core slot uid : Nat) (va : Va) (writes : List RegWrite) (clears : BitVec 96) : Mach × OwnEnd :=
  let ended (m : Mach) : Mach :=
    if (m.findGroup core slot uid).all (fun g => g.state == .ending) then m else m.acquireOver core slot uid va writes clears
  if (m.findGroup core slot uid).isNone then (m, .done)
  else match m.ctxXlate ctx va with
  | (m, .ok l _) =>
    if m.hostAway l then (m, .wait)
    else
      let m := m.noteRead l 8 none ctx core (some slot) 2 va.toNat
      if m.anyClass l 8 none SecClass.bad then (m.consumeUid core slot uid va 2, .done)
      else (ended (m.meet l core slot uid 3), .done)
  | (m, .fault level) => (m, .fault va 2 level)
  | (m, .access) => (ended m, .done)
  | (m, .migrating) => (m, .wait)

/-- One step of the device's own. -/
def Mach.ownStep (m : Mach) (ctx : Nat) : OwnStep → Mach × OwnEnd
  | .orphan _ _ va => m.settleStep ctx va (fun m l => m.orphanWord ctx va l)
  | .broken _ _ va => m.settleStep ctx va (fun m l => m.breakWord ctx va l)
  | .acquire core slot uid va ws cs => m.acquireStep ctx core slot uid va ws cs
  | .look q => (m.resumeQueue q, .done)
  | s => m.storeStep ctx s

/-- A step whose translation can never be made (R436): an implicit acquire ends as though it had been performed, and anything else
is left out. -/
def Mach.failStep (m : Mach) : OwnStep → Mach
  | .acquire core slot uid va ws cs =>
    if (m.findGroup core slot uid).all (fun g => g.state == .ending) then m else m.acquireOver core slot uid va ws cs
  | _ => m

/-- Steps of the device's own begin, for no queue. -/
def Mach.ownSteps (m : Mach) (ctx : Nat) (steps : List OwnStep) : Mach := m.beginJob Mach.ownStep ctx none steps

/-- The steps that are left of a job go on; once they are all taken, its queue does (R110). -/
def Mach.jobOn (m : Mach) (j : OwnJob) (steps : List OwnStep) : Mach :=
  match m.runSteps Mach.ownStep j.ctx j.queue steps with
  | (m, some j') => { m with jobs := m.jobs ++ [j'] }
  | (m, none) => match j.queue with
    | some q => m.resumeQueue q
    | none => m

/-- Jobs that wait for no translation try again, in their order (R79, R106). -/
def Mach.serveJobs (m : Mach) : Mach :=
  (m.jobs.filter (fun j => j.token.isNone)).foldl (fun m j => m.jobOn j j.steps)
    { m with jobs := m.jobs.filter (fun j => j.token.isSome) }

/-- What waited for a migrating page goes on: the device's own steps and the reads of launch queues (R79, R401). -/
def Mach.serveOwn (m : Mach) : Mach := m.serveJobs.resumeQueues

/-- Jobs that wait on a popped entry are replayed, or their step fails for good (R123, R312, R436). -/
def Mach.replayJobs (m : Mach) (tokens : List Nat) (fail : Bool) : Mach :=
  let hit (j : OwnJob) : Bool := j.token.any tokens.contains
  (m.jobs.filter hit).foldl (fun m j => match fail, j.steps with
    | true, s :: ss => (m.failStep s).jobOn j ss
    | _, ss => m.jobOn j ss) { m with jobs := m.jobs.filter (fun j => !hit j) }

end Sys2Proof.Machine
end

