-- ==== Sys2Proof/Machine/Identity.lean ====
section
/-! DEFINITION. What a group can read of itself: its threads' work identifiers (R33) and its status word (R69). -/

namespace Sys2Proof.Machine

/-- The work identifier of thread t: field 0 is the thread's number (R33). -/
def Group.widOf (g : Group) (t : Nat) : Dword := if g.id.sup then 0 else g.id.wid + BitVec.ofNat 64 t

/-- Field i of thread t's work identifier, zero-extended (R33). -/
def Group.widField (g : Group) (i t : Nat) : Word :=
  if g.id.sup then 0
  else BitVec.ofNat 32 (bitsOf (g.widOf t).toNat ((g.id.widths.take i).sum) (g.id.widths.getD i 0))

/-- The group is waiting by R28: its WAITING bit. The wait of an access for its translation (R78), the hold in a latch and a fault
that is still to be taken (R281) are no waits of R28. -/
def Group.waiting (g : Group) : Bool := match g.wait with
  | none => false
  | some (.xlat _ _ _ _) => false
  | some .latch => false
  | some (.owed _) => false
  | some _ => true

/-- The group status register with a given STATE (R69). -/
def Group.statusWord (g : Group) (st : GState) : Word :=
  BitVec.ofNat 32 (st.num + 64 * g.cause.num + (if g.crit then 512 else 0) + (if g.waiting then 1024 else 0) +
    2048 * fcodeNum g.fcode + 65536 * g.lsts.code)

end Sys2Proof.Machine
end

