-- ==== Sys2Proof/Machine/Control.lean ====
section
/-! DEFINITION. Row 0 of the opcode map: control (R199 to R207). -/

namespace Sys2Proof.Machine

/-- The program counter of the issuing group. -/
def setPc (w : Who) (m : Mach) (pc : Va) : Mach := m.modGroup w.core w.slot (fun g => { g with pc })

/-- The relative target of BRA, BRANY and CALL (R187, R200). -/
def relTarget (w : Who) : Va := w.addr + ((w.f.off ++ 0#1).signExtend 56)

/-- The target of BRX and RET (R200). -/
def entryTarget (g : Group) (x : Word) : Va := g.id.entry + x.setWidth 56

/-- NOP (R199). -/
def bodyNop : Body := fun _ _ m => .ok m
def execNop (w : WordA) (s : State) : Host.Outcome State Fault Refusal :=
  issue 4 (fieldsA 0x00 w) bodyNop s

/-- BRA (R200, R22): taken when the guard holds in every active thread. -/
def bodyBra : Body := fun _ w m => withGroup w m fun g =>
  .ok (if g.active.all (g.guard w.f.g) then setPc w m (relTarget w) else m)
def execBra (w : WordJ) (s : State) : Host.Outcome State Fault Refusal :=
  issue 4 (fieldsJ 0x01 w) bodyBra s

/-- BRANY (R200, R22): taken when the guard holds in some active thread. -/
def bodyBrany : Body := fun _ w m => withGroup w m fun g =>
  .ok (if g.active.any (g.guard w.f.g) then setPc w m (relTarget w) else m)
def execBrany (w : WordJ) (s : State) : Host.Outcome State Fault Refusal :=
  issue 4 (fieldsJ 0x02 w) bodyBrany s

/-- A jump to an offset from ENTRY; an odd target raises ALIGN (R200). -/
def jumpEntry (w : Who) (m : Mach) (g : Group) : Except Trap Mach :=
  let t := entryTarget g (g.reg w.f.fa 0)
  if t.getLsbD 0 then .error (.fault .align t) else .ok (setPc w m t)

/-- BRX (R200). -/
def bodyBrx : Body := fun _ w m => withGroup w m fun g => jumpEntry w m g
def execBrx (w : WordA) (s : State) : Host.Outcome State Fault Refusal :=
  issue 4 (fieldsA 0x03 w) bodyBrx s

/-- CALL (R200): k15 takes the return offset. -/
def bodyCall : Body := fun _ w m => withGroup w m fun g =>
  .ok (setPc w (commit w m [.k 15 ((w.addr + BitVec.ofNat 56 w.len - g.id.entry).setWidth 32)]) (relTarget w))
def execCall (w : WordJ) (s : State) : Host.Outcome State Fault Refusal :=
  issue 4 (fieldsJ 0x04 w) bodyCall s

/-- RET (R200). -/
def bodyRet : Body := fun _ w m => withGroup w m fun g => jumpEntry w m g
def execRet (w : WordA) (s : State) : Host.Outcome State Fault Refusal :=
  issue 4 (fieldsA 0x05 w) bodyRet s

/-! ### The mask instructions (R201)

R185 leaves a guard on them legal, and the steps of R201 do not read one: its value has no effect (DEDUCED, log 96). -/

/-- The active threads in which the predicate of PUSHM or BREAKM holds, negated when CC is 1. -/
def Group.maskPred (g : Group) (f : Fields) : Mask :=
  maskOf (g.active.filter (fun t => g.pred f.p.toNat t != (f.cc == 1)))

/-- PUSHM (R20, R201; its guard, log 96). -/
def bodyPushm : Body := fun _ w m => withGroup w m fun g =>
  if g.depth = 16 then .error (.fault .illegal 0)
  else .ok (m.setGroup w.core w.slot { g with
    stack := g.stack.set g.depth g.amask, depth := g.depth + 1, amask := g.amask &&& g.maskPred w.f })
def execPushm (w : WordC) (s : State) : Host.Outcome State Fault Refusal :=
  issue 4 (fieldsC 0x06 w) bodyPushm s

/-- FLIPM (R20, R201; its guard, log 96). -/
def bodyFlipm : Body := fun _ w m => withGroup w m fun g =>
  if g.depth = 0 then .error (.fault .illegal 0)
  else .ok (m.setGroup w.core w.slot { g with amask := g.stack.getD (g.depth - 1) 0 &&& ~~~g.amask })
def execFlipm (w : WordA) (s : State) : Host.Outcome State Fault Refusal :=
  issue 4 (fieldsA 0x07 w) bodyFlipm s

/-- POPM (R20, R201; its guard, log 96). -/
def bodyPopm : Body := fun _ w m => withGroup w m fun g =>
  if g.depth = 0 then .error (.fault .illegal 0)
  else .ok (m.setGroup w.core w.slot { g with depth := g.depth - 1, amask := g.stack.getD (g.depth - 1) 0 })
def execPopm (w : WordA) (s : State) : Host.Outcome State Fault Refusal :=
  issue 4 (fieldsA 0x08 w) bodyPopm s

/-- BREAKM (R201; its guard, log 96). -/
def bodyBreakm : Body := fun _ w m => withGroup w m fun g =>
  .ok (m.setGroup w.core w.slot { g with amask := g.amask &&& ~~~g.maskPred w.f })
def execBreakm (w : WordC) (s : State) : Host.Outcome State Fault Refusal :=
  issue 4 (fieldsC 0x09 w) bodyBreakm s

/-! ### Safe points and yielding (R42, R43, R202, R203) -/

/-- The scoreboard items of a safe point's live state (R42): the live v registers, k registers, predicates and lines. -/
def liveItems (live : BitVec 16) : BitVec 96 := live.setWidth 96 ||| (0xFFFFFFFF#96 <<< 48)

/-- A group at a safe point goes to PREEMPTED once nothing of its live state is pending (R43, R354, R355): its slot frees,
and its saved state keeps the registers of R42; the dead v registers are free values on resumption. -/
def Mach.tryPreempt (m : Mach) (core slot : Nat) : Mach :=
  match m.group? core slot with
  | none => m
  | some g =>
    if !g.atSafe || (g.sb &&& liveItems g.live) != 0 then m
    else (m.modCore core (fun c =>
      let c := c.releaseLane slot
      let c := c.count 13 1 g.id
      { c with
        groups := c.groups.erase slot
        saved := c.saved.set g.uid { g with state := .preempted, home := slot, runCount := 0, atSafe := false } })).growServe
          core (laneOf slot) 16

/-- SAFEPT (R202, R354): a pending pre-emption of a group that is not critical takes effect here. -/
def bodySafept : Body := fun _ w m => withGroup w m fun g =>
  if g.preempt.isNone || g.id.sup || g.id.harvest || g.critical then .ok m
  else .ok ((m.setGroup w.core w.slot { g with live := w.f.off.setWidth 16, atSafe := true }).tryPreempt w.core w.slot)
def execSafept (w : WordJ) (s : State) : Host.Outcome State Fault Refusal :=
  issue 4 (fieldsJ 0x0A w) bodySafept s

/-- YIELD (R203, R348): the next arbitration ranks the group last of its class. -/
def bodyYield : Body := fun _ w m => withGroup w m fun g =>
  .ok (m.setGroup w.core w.slot { g with arb := { g.arb with ymark := true } })
def execYield (w : WordA) (s : State) : Host.Outcome State Fault Refusal :=
  issue 4 (fieldsA 0x0C w) bodyYield s

/-! ### EXIT (R204) -/

/-- The threads of a mask leave the group for good (R21). -/
def Group.leave (g : Group) (x : Mask) : Group :=
  { g with exited := g.exited ||| x, amask := g.amask &&& ~~~x, stack := g.stack.mapVals (fun _ e => e &&& ~~~x) }

/-- EXIT (R21, R204): the participants leave; the last ones end the group, unless a holding would be heirless. -/
def bodyExit : Body := fun _ w m => withGroup w m fun g =>
  let x := maskOf (g.participants w.f.g)
  if x = 0 then .ok m
  else if ~~~g.exited &&& ~~~x = 0 then
    if m.heirless w.core g then .error (.fault .heirless 0)
    else .ok (m.enterEnding w.core w.slot g.uid false)
  else .ok (m.setGroup w.core w.slot (g.leave x))
def execExit (w : WordA) (s : State) : Host.Outcome State Fault Refusal :=
  issue 4 (fieldsA 0x0B w) bodyExit s

/-! ### TRAP, SYSCALL and ERET (R205 to R207) -/

/-- TRAP (R205). -/
def bodyTrap : Body := fun _ w m => withGroup w m fun g =>
  if g.participants w.f.g = [] then .ok m else .error (.fault .trap 0)
def execTrap (w : WordI) (s : State) : Host.Outcome State Fault Refusal :=
  issue 4 (fieldsI 0x0D w) bodyTrap s

/-- SYSCALL (R206): the group stops with CAUSE 2 and a KIND 0 record; it will resume at the next instruction (R308). -/
def bodySyscall : Body := fun _ w m => withGroup w m fun g =>
  if g.participants w.f.g = [] then .ok m
  else
    let r := stopRecord g w.slot 0 (w.f.imm.toNat % 256) w.addr 0 (syscallRange w.f).1 (syscallRange w.f).2
    .ok ((m.setGroup w.core w.slot (g.stop .syscall none)).modCore w.core (fun c =>
      (c.releaseLane w.slot).postStop r))
def execSyscall (w : WordI) (s : State) : Host.Outcome State Fault Refusal :=
  issue 4 (fieldsI 0x0E w) bodySyscall s

/-- The length of the form at a group's program counter, if its halfword can be read (R207). A page that is being migrated answers as
one whose translation faults (DEDUCED, log 97: R207 does not name it). -/
def Mach.formLength (m : Mach) (core : Nat) (g : Group) : Option Nat :=
  match m.translate core g g.pc with
  | (m, .ok l leaf) => if leaf.x then some (if (m.byteAt l).getLsbD 0 then 4 else 2) else none
  | _ => none

/-- A STOPPED group resumes (R207, R308, R310, R357, R364): its mailbox entry frees, and its run begins anew; a mark found
meanwhile stops it again at once. -/
def Mach.resumeGroup (m : Mach) (core slot : Nat) (g : Group) : Mach :=
  ((m.setGroup core slot g.recover.resume).modCore core (fun c => c.freeMailbox slot)).atBoundary core slot

/-- LEASELOST resumes at the recovery entry, whatever the mode (R364). -/
def Group.recovers (g : Group) : Bool := g.cause == .fault && g.id.harvest && g.id.recov != 0 && g.fcode == some .leaselost

/-- ERET (R207). -/
def bodyEret : Body := fun _ w m => withGroup w m fun g0 =>
  let slot := (g0.reg w.f.fa 0).toNat % 2048
  let mode := g0.reg w.f.fb 0
  let answer (m : Mach) (st : Status) : Except Trap Mach := .ok (commit w m (writeField w.f.fd 0 st.word ++ [.lsts st]))
  match m.group? w.core slot with
  | none => answer m .mismatch
  | some g =>
    if g.state != .stopped || g.cause == .syscall || 1 < mode.toNat then answer m .mismatch
    else if mode = 0 || g.recovers then answer (m.resumeGroup w.core slot g) .ok
    else match m.formLength w.core g with
      | none => answer m .mismatch
      | some n => answer (m.resumeGroup w.core slot { g with pc := g.pc + BitVec.ofNat 56 n }) .ok
def execEret (w : WordA) (s : State) : Host.Outcome State Fault Refusal :=
  issue 4 (fieldsA 0x0F w) bodyEret s

end Sys2Proof.Machine
end

