-- ==== Sys2Proof/Machine/Matrix.lean ====
section
/-! DEFINITION. Row D of the opcode map: gangs and the rendezvous (R280, R281), accumulator slots and handles (R102, R282,
R289, R290), engine operations (R283 to R288) and the operand fence (R291). -/

namespace Sys2Proof.Machine

/-! ### Accumulator slots and handles -/

/-- The handle of a slot (R282). -/
def handleOf (core : Nat) (gen : BitVec 12) (slot : Nat) : Word :=
  BitVec.ofNat 32 (gen.toNat * 65536 + memberOf core * 256 + slot)

/-- The handle NEW (R282). -/
def handleNew : Word := 0x80000000#32

/-- The slot of a handle whose zero bits are zero, which names core c of the cluster and is LIVE with its GEN (R282). -/
def Mach.handleSlot (m : Mach) (c : Nat) (h : Word) : Option Nat :=
  let n := h.toNat
  let s := (m.core c).slot (n % 16)
  if bitsOf n 28 4 = 0 ∧ bitsOf n 11 5 = 0 ∧ bitsOf n 4 4 = 0 ∧ bitsOf n 8 3 = memberOf c ∧ s.live ∧
    s.gen.toNat = bitsOf n 16 12 then some (n % 16) else none

/-- KEY of a slot holding (R127). -/
def slotKey (gen : BitVec 12) (slot : Nat) : Dword := BitVec.ofNat 64 (gen.toNat * 16 + slot)

/-- The lowest free slot a context may take: a harvest group leaves 8 free for the owner (R102). -/
def Core.freeSlot (c : Core) (harvest : Bool) : Option Nat :=
  let free := (List.range 16).filter (fun i => !(c.slot i).live)
  if harvest && free.length < 8 then none else free.head?

/-- Slot i is allocated with a tag, for a holder (R102, R284): the copy of a duplex pair with index 1 is named in the slot itself
(R376, log 18). -/
def Mach.allocSlot (m : Mach) (core i : Nat) (tag : FTag) (slot : Nat) (g : Group) : Mach :=
  let s := (m.core core).slot i
  let s : AccSlot := { gen := s.gen + 1, ftag := tag, sat := false, live := true, elems := [], bad := []
                       twin := if g.id.copyIndex then some g.uid else none }
  (m.modCore core (fun c => c.setSlot i s)).acquire core slot g 2 (slotKey s.gen i)

/-- Slot i joins the free list (R102, R289). -/
def Mach.freeSlot (m : Mach) (core i : Nat) : Mach :=
  m.modCore core (fun c => c.setSlot i { c.slot i with live := false, elems := [], bad := [], twin := none })

/-- The estate entry of a slot that a group of this core's cluster holds, as core and index (R289). -/
def Mach.slotEntry (m : Mach) (core c i uid : Nat) : Option (Nat × Nat) :=
  ((m.holdings core uid).find? (fun e =>
    e.1 == c && e.2.2.kind == 2 && e.2.2.key == slotKey ((m.core c).slot i).gen i)).map (fun e => (e.1, e.2.1))

/-- An outstanding operation names the slot. -/
def Core.slotInUse (c : Core) (i : Nat) : Bool :=
  c.engine.any (fun o => (o.kind == .mma || o.kind == .mmaSc) && o.slot == i && o.gen == (c.slot i).gen)

/-- ACCZ (R289). -/
def bodyAccz : Body := groupWide fun w m g =>
  let tag := g.reg w.f.fa 0
  let c := m.core w.core
  let ts := g.participants w.f.g
  let answer (m : Mach) (st : Status) (ws : List RegWrite) : Except Trap Mach :=
    .ok (defer w m g 0 (ws ++ statusWrites w.f.fb st) (regItems w.f.fd 1 ||| regItems w.f.fb 1))
  if tag != 1 && tag != 3 then answer m .mismatch []
  else if !g.id.copyIndex && c.estateFree = 0 then .error (.fault .estatefull 0)
  else match c.freeSlot g.id.harvest with
    | none => answer m .noslot []
    | some i =>
      answer (m.allocSlot w.core i (tag.setWidth 4) w.slot g) .ok
        (writeAll w.f.fd ts (handleOf w.core ((c.slot i).gen + 1) i) ++ resultTag ts w.f.fd 1 0)
def execAccz (w : WordA) (s : State) : Host.Outcome State Fault Refusal := issue 4 (fieldsA 0xD8 w) bodyAccz s

/-- MREL (R289): the core that a handle names lies in the caller's cluster. A copy with duplex index 1 holds what its slot names
it for (R376, log 18). -/
def bodyMrel : Body := groupWide fun w m g =>
  let h := g.reg w.f.fa ((g.participants w.f.g).head?.getD 0)
  let c := 8 * clusterOf w.core + bitsOf h.toNat 8 3
  match m.handleSlot c h with
  | none => answerD w m g .mismatch
  | some i =>
    let entry := m.slotEntry w.core c i g.uid
    if (entry.isNone && ((m.core c).slot i).twin != some g.uid) || (m.core c).slotInUse i then answerD w m g .mismatch
    else answerD w (match entry with
      | some (c', e) => (m.freeSlot c i).eraseEstate c' e
      | none => m.freeSlot c i) g .ok
def execMrel (w : WordA) (s : State) : Host.Outcome State Fault Refusal := issue 4 (fieldsA 0xD5 w) bodyMrel s

/-! ### Accumulator access (R290) -/

/-- What the group may not touch yet: a slot whose operation is outstanding, or is covered by no MWAIT of the group and by no chain that
starts at another member's (R284, R429), reads undefined values. -/
def Mach.accUnsure (m : Mach) (core : Nat) (g : Group) (i : Nat) : Bool :=
  (m.core core).slotInUse i || g.eng.unsure.any (fun o => o.slot == i && o.gen == ((m.core core).slot i).gen)

/-- The element numbers of thread t: one of ACCRD and ACCWR, four of ACCLD and ACCST. -/
def accElems (g : Group) (f : Fields) (n t : Nat) : List Nat :=
  let k1 := (blockWord g f 1).toNat
  let row := (k1 % 128 + (g.reg f.fb t).toNat) % 128
  let col := if n = 1 then 32 * bitsOf k1 8 2 + t else 4 * t
  (List.range n).map (fun i => row * 128 + col + i)

/-- The slot that an access names, after its block checks. -/
def accAim (w : Who) (m : Mach) (g : Group) (n : Nat) : Except Trap Nat :=
  let k1 := (blockWord g w.f 1).toNat
  if k1 >>> 10 != 0 || k1.testBit 7 || (n == 4 && bitsOf k1 8 2 != 0) then .error (.fault .illegal 0)
  else match m.handleSlot w.core (blockWord g w.f 0) with
    | none => .error (.fault .access 0)
    | some i => .ok i

/-- Undefined words, one for each listed element (R11, log 2). -/
def Mach.freeWords (m : Mach) (es : List Nat) : Mach × List (Nat × Word) :=
  es.foldl (fun (r : Mach × List (Nat × Word)) e =>
    let (d, m) := r.1.draw
    (m, r.2 ++ [(e, Config.freeWord d)])) (m, [])

/-- ACCRD and ACCLD (R290). -/
def accReadBody (n : Nat) : Body := fun _ w m => withGroup w m fun g =>
  let ts := g.participants w.f.g
  if ts = [] then .ok m
  else match accAim w m g n with
    | .error t => .error t
    | .ok i =>
      let s := (m.core w.core).slot i
      let es := ts.flatMap (accElems g w.f n)
      if es.any (fun e => s.bad.contains e) then .error (.kill 0)
      else
        let (m, vals) := if m.accUnsure w.core g i then m.freeWords es else (m, es.map (fun e => (e, s.elems.getD e 0)))
        let ws := ts.flatMap (fun t => writeWide w.f.fd t 0 ((accElems g w.f n t).map (fun e =>
          match vals.find? (fun x => x.1 == e) with | some x => x.2 | none => 0)))
        .ok (defer w m g 0 (ws ++ writeTag w.f.fd n s.ftag) (regItems w.f.fd n) (some (accPlace w.core)))

/-- FORMAT of ACCWR and ACCST (R180, R192): a v source is RAW or has the tag of the slot that the handle names. -/
def accFormat (w : Who) (m : Mach) (g : Group) (n : Nat) : Bool :=
  match m.handleSlot w.core (blockWord g w.f 0) with
  | none => false
  | some i =>
    let tags := if isV w.f.fd then (List.range n).map (fun j => g.tagV (w.f.fd.toNat + j)) else []
    tags.any (fun t => t != 0 && t != ((m.core w.core).slot i).ftag)

/-- The members' operations on a slot compute undefined values for elements that are written before MWAIT (R284). -/
def Mach.wildSlot (m : Mach) (core i : Nat) (es : List Nat) : Mach :=
  m.modCore core (fun c => { c with engine := c.engine.map (fun o =>
    if o.kind.isMma && o.slot == i && o.gen == (c.slot i).gen then { o with wild := o.wild ++ es.filter (fun e => !o.wild.contains e) }
    else o) })

/-- ACCWR and ACCST (R290): FORMAT comes first, whatever the guard (R181). -/
def accWriteBody (n : Nat) : Body := fun _ w m => withGroup w m fun g =>
  let ts := g.participants w.f.g
  if accFormat w m g n then .error (.fault .format 0)
  else if ts = [] then .ok m
  else match accAim w m g n with
    | .error t => .error t
    | .ok i =>
      let s := (m.core w.core).slot i
      let vals := ts.flatMap (fun t => (accElems g w.f n t).mapIdx (fun j e => (e, g.regAt w.f.fd j t)))
      let (m, vals) := if m.accUnsure w.core g i then (m.wildSlot w.core i (vals.map (·.1))).freeWords (vals.map (·.1)) else (m, vals)
      .ok (m.modCore w.core (fun c => c.setSlot i { s with
        elems := vals.foldl (fun e x => e.set x.1 x.2) s.elems
        bad := s.bad.filter (fun e => !vals.any (fun x => x.1 == e)) }))

/-- ACCRD. -/
def bodyAccrd : Body := accReadBody 1
def execAccrd (w : WordA) (s : State) : Host.Outcome State Fault Refusal := issue 4 (fieldsA 0xD6 w) bodyAccrd s
/-- ACCWR. -/
def bodyAccwr : Body := accWriteBody 1
def execAccwr (w : WordA) (s : State) : Host.Outcome State Fault Refusal := issue 4 (fieldsA 0xD7 w) bodyAccwr s
/-- ACCLD. -/
def bodyAccld : Body := accReadBody 4
def execAccld (w : WordA) (s : State) : Host.Outcome State Fault Refusal := issue 4 (fieldsA 0xDE w) bodyAccld s
/-- ACCST. -/
def bodyAccst : Body := accWriteBody 4
def execAccst (w : WordA) (s : State) : Host.Outcome State Fault Refusal := issue 4 (fieldsA 0xDB w) bodyAccst s

/-! ### Gangs (R66, R280) -/

/-- CNT and the members of a gang register. -/
def gangCount (gang : BitVec 64) : Nat := gang.toNat % 8
def gangMember (gang : BitVec 64) (j : Nat) : Nat := (gang.toNat >>> (8 + 8 * j)) % 256
def gangMembers (gang : BitVec 64) : List Nat := (List.range (gangCount gang)).map (gangMember gang)

/-- GANG (R280). -/
def bodyGang : Body := groupWide fun w m g =>
  let k0 := (blockWord g w.f 0).toNat
  let k1 := (blockWord g w.f 1).toNat
  let cnt := bitsOf k1 16 3
  let all := (List.range 6).map (fun j => bitsOf (k0 + (k1 % 65536) * 2 ^ 32) (8 * j) 8)
  let ids := all.take cnt
  let answer (m : Mach) (st : Status) : Except Trap Mach := .ok (commit w m (statusWrites w.f.fd st))
  if k1 >>> 19 != 0 then .error (.fault .illegal 0)
  else match m.block? w.core g with
    | none => answer m .mismatch
    | some b =>
      let bad (i : Nat) : Bool := match b.members.get? i with | some x => x.role != .matrix | none => true
      if cnt < 2 || 6 < cnt || (all.drop cnt).any (· != 0) || !decide ids.Nodup || !ids.contains g.id.gindex || ids.any bad
        then answer m .mismatch
      else
        let gone := ids.any b.gone
        let gang := BitVec.ofNat 64 ((k0 + (k1 % 65536) * 2 ^ 32) * 256 + (if gone then 16 else 0) + cnt)
        answer (m.setGroup w.core w.slot { g with gang }) (if gone then .gangbroken else .ok)
def execGang (w : WordA) (s : State) : Host.Outcome State Fault Refusal := issue 4 (fieldsA 0xD9 w) bodyGang s

/-! ### Descriptor checks (R283, R286, R287) -/

/-- The pairings of R173. -/
def pairing (a b : Nat) : Bool := (a < 2 && b < 2) || (a == 2 && b == 2) || (a == 3 && b == 3) || (4 ≤ a && a < 6 && 4 ≤ b && b < 6)

/-- The slot tag and the window of a pairing (R173). -/
def pairTag (a : Nat) : FTag := if a < 4 then 3 else 1
def pairWindow (a : Nat) : Nat := if a < 2 then 38 else 47

/-- The checks of R60 over several ranges: span, start, bytes, permission. -/
def spanChecks : List (Span × Va × Nat × Nat) → Option Trap
  | [] => none
  | (s, a, n, p) :: r => match s.check a.toNat n p with
    | some t => some t
    | none => spanChecks r

/-- The first start whose offset is not a multiple of 16, as an ALIGN fault. -/
def alignCheck (offs : List (Va × Word)) (strides : List Word) : Option Trap :=
  match offs.find? (fun o => o.2.toNat % 16 != 0) with
  | some o => some (.fault .align o.1)
  | none => if strides.any (fun x => x.toNat % 16 != 0) then some (.fault .align 0) else none

/-- The operands of an operation: start addresses and tags. -/
abbrev Aim := List Va × List FTag

/-- The start of an operand: a signed offset from a span's PTR. -/
def startOf (g : Group) (sp : Nat) (off : Word) : Va := (g.span sp).ptr + off.signExtend 56

/-- MMA and MMA.SC (R283, R284). -/
def mmaAim (sc : Bool) (g : Group) (k : Nat → Word) : Except Trap Aim :=
  let k4 := (k 4).toNat
  let fa := bitsOf k4 8 4
  let fb := bitsOf k4 12 4
  let kk := 32 * (bitsOf k4 16 4 + 1)
  let sa := k4 % 16
  let sb := bitsOf k4 4 4
  let ss := (k 7).toNat % 16
  let a := startOf g sa (k 0)
  let b := startOf g sb (k 1)
  let pa := startOf g ss (k 5)
  let pb := startOf g ss (k 6)
  if k4 >>> 20 != 0 || (k 7).toNat >>> 4 != 0 || (!sc && (k 5 != 0 || k 6 != 0 || k 7 != 0)) || !pairing fa fb then
    .error (.fault .illegal 0)
  else match alignCheck [(a, k 0), (b, k 1)] [k 2, k 3] with
    | some t => .error t
    | none =>
      let rows := [(g.span sa, a, 127 * (k 2).toNat + kk * fmtBits fa / 8, 0),
                   (g.span sb, b, 127 * (k 3).toNat + kk * fmtBits fb / 8, 0)]
      match spanChecks (if sc then rows ++ [(g.span ss, pa, 8 * kk, 0), (g.span ss, pb, 8 * kk, 0)] else rows) with
      | some t => .error t
      | none => .ok ([a, b, pa, pb], [(g.span sa).tag, (g.span sb).tag, (g.span ss).tag, (g.span ss).tag])

/-- The bits of MHAD's and MQNT's memory formats: F32, BF, HF (R286). -/
def srcBits (fmt : Nat) : Nat := if fmt = 0 then 32 else 16

/-- MHAD (R286). -/
def mhadAim (g : Group) (k : Nat → Word) : Except Trap Aim :=
  let c := (k 2).toNat
  let fmt := bitsOf c 12 2
  let size := bitsOf c 8 2
  let len := 32 * (bitsOf c 16 4 + 1)
  let s := g.span (c % 16)
  let a := startOf g (c % 16) (k 0)
  let n := 127 * (k 1).toNat + len * srcBits fmt / 8
  if c >>> 20 != 0 || bitsOf c 14 2 != 0 || bitsOf c 10 2 != 0 || bitsOf c 4 4 != 0 || k 3 != 0 || fmt = 3 || size = 3 ||
    len % (16 * 2 ^ size) != 0 then .error (.fault .illegal 0)
  else match alignCheck [(a, k 0)] [k 1] with
    | some t => .error t
    | none => match spanChecks [(s, a, n, 0), (s, a, n, 1)] with
      | some t => .error t
      | none => .ok ([a], [s.tag])

/-- The bits of MQNT's targets (R287). -/
def dstBits (target : Nat) : Nat := if target % 2 = 0 then 8 else 4

/-- MQNT (R287). -/
def mqntAim (g : Group) (k : Nat → Word) : Except Trap Aim :=
  let c := (k 5).toNat
  let fmt := bitsOf c 12 2
  let len := 32 * (bitsOf c 20 4 + 1)
  let sx := c % 16
  let sd := bitsOf c 4 4
  let ss := bitsOf c 8 4
  let a := startOf g sx (k 0)
  let d := startOf g sd (k 2)
  let p := startOf g ss (k 4)
  if c >>> 24 != 0 || bitsOf c 18 2 != 0 || bitsOf c 14 2 != 0 || k 6 != 0 || k 7 != 0 || fmt = 3 then
    .error (.fault .illegal 0)
  else match alignCheck [(a, k 0), (d, k 2), (p, k 4)] [k 1, k 3] with
    | some t => .error t
    | none =>
      match spanChecks [(g.span sx, a, 127 * (k 1).toNat + len * srcBits fmt / 8, 0),
          (g.span sd, d, 127 * (k 3).toNat + len * dstBits (bitsOf c 16 2) / 8, 1), (g.span ss, p, 8 * len, 1)] with
      | some t => .error t
      | none => .ok ([a, d, p], [(g.span sx).tag, (g.span sd).tag, (g.span ss).tag])

/-! ### The rendezvous (R281, R430) -/

/-- Every member has entered. -/
def Latch.complete (la : Latch) : Bool := la.single || la.held.length == gangCount la.gang

/-- A store, write-back, put (its counter's add too) or atomic (one that the switches hold too) that the group issued before its
FENCE.OPND has not been performed (R291, R320); what the store gate has released once for both copies of a duplex pair counts for
both (R330). -/
def Mach.opndPending (m : Mach) (core : Nat) (h : LatchHold) : Bool :=
  match h.opnd with
  | none => false
  | some mark =>
    m.msgs.any (fun x => x.serves core h.uid && (x.uid != h.uid || x.id < mark) && match x.body with
      | .writeBack _ _ _ _ _ _ .engine => false
      | .writeBack _ _ _ _ _ _ _ => true
      | .put _ _ _ _ _ _ _ => true
      | .atomic _ _ _ _ _ _ _ _ _ => true
      | .counter _ _ _ _ => true
      | .fabric dev rid _ => (m.fabricAtomics.any (fun a => a.dev == dev && a.rid == rid && a.performed.isNone))
      | _ => false) ||
    m.fabricAtomics.any (fun a => a.performed.isNone && (a.uid == h.uid && a.core == core && a.id < mark ||
      match a.twin with | some (c, _, u) => c == core && u == h.uid | none => false))

/-- The operation may be accepted (R281, R291). -/
def Mach.acceptable (m : Mach) (core : Nat) (la : Latch) : Bool :=
  la.complete && (m.core core).engine.length < 8 && !la.held.any (m.opndPending core)

/-- The operation joins the engine queue: each member has one more outstanding (R284). -/
def Mach.enqueueOp (m : Mach) (core : Nat) (la : Latch) (id : Ident) (slot : Nat) (gen : BitVec 12) : Mach :=
  let (n, m) := m.fresh
  let issuer := la.held.head?.bind (fun h => m.findGroup core h.slot h.uid)
  let op : EngineOp := { id := n, kind := la.kind, members := la.held.map (fun h => (h.slot, h.uid)), ident := id
                         uid := (la.held.map (·.uid)).head?.getD 0, slot, gen, block := la.block, ptrs := la.ptrs
                         tags := la.tags, window := match issuer with | some g => g.dup.windows | none => 0 }
  la.held.foldl (fun m h => m.modUid core h.slot h.uid (fun g => { g with eng := { g.eng with
      out := g.eng.out + 1
      unsure := if la.kind.isMma then g.eng.unsure ++ [op] else g.eng.unsure } }))
    (m.modCore core (fun c => { c with engine := c.engine ++ [op] }))

/-- The group that will hold a slot: the one in member slot 0, or the issuer alone (R280, R281). -/
def Mach.slotHolder (m : Mach) (core : Nat) (la : Latch) (h0 : LatchHold) : Option (Nat × Group) :=
  let direct := (m.findGroup core h0.slot h0.uid).map (fun g => (h0.slot, g))
  if la.single then direct
  else match (m.cluster (clusterOf core)).blocks.get? la.blockId with
    | none => direct
    | some b => match b.members.get? (gangMember la.gang 0) with
      | none => direct
      | some x => (m.findGroup x.core x.slot x.uid).map (fun g => (x.slot, g))

/-- A precise fault of one held member at its instruction (R281); one that is stopped, parked or pre-empted takes it as soon as it is
READY again (DESIGN CHOICE, log 109). -/
def Mach.latchFault (m : Mach) (core : Nat) (code : Code) (h : LatchHold) : Mach :=
  (m.modUid core h.slot h.uid (fun g => { g with
    wait := some (.owed code), sb := g.sb &&& ~~~(regItems h.d 1 ||| regItems h.b 1), eng := { g.eng with opnd := h.opnd } })).atBoundary
      core ((m.seat core h.slot h.uid).getD h.slot)

/-- The held members of a latch take a precise fault, the lower slots first (R121, R281). -/
def Mach.latchFaults (m : Mach) (core : Nat) (code : Code) (hs : List LatchHold) : Mach :=
  (hs.mergeSort (fun x y => x.slot ≤ y.slot)).foldl (fun m h => m.latchFault core code h) m

/-- A complete latch is accepted (R284, R286). Where the estate table has no room for the slot of a NEW handle any more, every held
member takes the precise fault (R128, R284; log 43). -/
def Mach.acceptLatch (m : Mach) (core : Nat) (la : Latch) : Mach :=
  match la.held with
  | [] => m.freeLatch core la
  | h0 :: _ =>
    match m.findGroup core h0.slot h0.uid with
    | none => m.freeLatch core la
    | some g0 =>
      let fa := bitsOf (la.block.getD 4 0).toNat 8 4
      if !la.kind.isMma then (m.latchDone core la .ok (fun _ => [])).enqueueOp core la g0.id 0 0
      else if la.handle = handleNew then
        match (m.core core).freeSlot g0.id.harvest, m.slotHolder core la h0 with
        | some i, some (slot, h) =>
          if !h.id.copyIndex && (m.core core).estateFree = 0 then
            (m.freeLatch core la).latchFaults core .estatefull la.held
          else
          let gen := ((m.core core).slot i).gen + 1
          ((m.allocSlot core i (pairTag fa) slot h).latchDone core la .ok
            (fun x => writeField x.d 0 (handleOf core gen i))).enqueueOp core la g0.id i gen
        | _, _ => m.latchFail core la .noslot
      else match m.handleSlot core la.handle with
        | none => m.latchFail core la .mismatch
        | some i =>
          let s := (m.core core).slot i
          if s.ftag != pairTag fa then m.latchFail core la .mismatch
          else (m.latchDone core la .ok (fun x => writeField x.d 0 la.handle)).enqueueOp core la g0.id i s.gen

/-- Accept every latch that may be accepted, oldest first, at most n of them. -/
def Mach.acceptAll (m : Mach) (core : Nat) : Nat → Mach
  | 0 => m
  | n + 1 =>
    match (m.core core).latches.find? (m.acceptable core) with
    | none => m
    | some la => (m.acceptLatch core la).acceptAll core n

/-- The group is held at its instruction: its run ends there (R281). -/
def Group.holdLatch (g : Group) (w : Who) (items : BitVec 96) : Group :=
  { g with pc := w.addr, state := .ready, runCount := 0, wait := some .latch, sb := g.sb ||| items }

/-- The issue of an engine operation whose own checks have passed (R281). BRK completes it, and every member that its gang's latch
holds, with GANGBROKEN. A gang register that WRG has given BRK = 1 with CNT = 0 names no gang: the group issues alone, as R281 says,
and its BRK is ignored, though R66 names no CNT (DEDUCED, log 95). -/
def enterLatch (w : Who) (m : Mach) (g : Group) (kind : OpKind) (n : Nat) (a : Aim) : Except Trap Mach :=
  let mma := kind.isMma
  let single := !mma || gangCount g.gang == 0
  let block := (List.range n).map (blockWord g w.f)
  let handle := if mma then g.reg w.f.fd 0 else 0
  let h : LatchHold := { slot := w.slot, uid := g.uid, d := if mma then w.f.fd else 47, b := w.f.fb, len := w.len
                         opnd := g.eng.opnd }
  let c := m.core w.core
  let mine := if single then none else c.latches.find? (fun la =>
    !la.single && la.blockId == g.id.block && (gangMembers la.gang).contains g.id.gindex &&
    !la.held.any (fun x => x.uid == g.uid))
  if !single && g.gang.getLsbD 4 then
    let m := match mine with
      | some la => m.latchFail w.core la .gangbroken
      | none => m
    .ok ((commit w m (statusWrites w.f.fb .gangbroken)).modUid w.core w.slot g.uid
      (fun g => { g with eng := { g.eng with opnd := none } }))
  else
    let m := m.modCore w.core (fun c => c.releaseLane w.slot)
    let hold (m : Mach) : Mach := m.setGroup w.core w.slot
      { g.holdLatch w (regItems h.d 1 ||| regItems h.b 1) with eng := { g.eng with opnd := none } }
    let put (m : Mach) (ls : List Latch) : Except Trap Mach :=
      .ok ((((hold m).modCore w.core (fun c => { c with latches := ls })).acceptAll w.core 65).atBoundary w.core w.slot)
    match mine with
    | none =>
      if 64 ≤ c.latches.length then .ok ((m.setGroup w.core w.slot (g.holdLatch w 0)).atBoundary w.core w.slot)
      else put m (c.latches ++ [{ kind, single, blockId := g.id.block, gang := g.gang, block, handle, ptrs := a.1, tags := a.2
                                  held := [h] }])
    | some la =>
      if la.kind = kind ∧ la.block = block ∧ la.handle = handle ∧ la.gang = g.gang then
        put m (c.latches.map (fun x => if x = la then { la with held := la.held ++ [h] } else x))
      else
        .ok (((hold m).freeLatch w.core la).latchFaults w.core .gang (la.held ++ [h]))

/-- MMA and MMA.SC (R283, R284). -/
def mmaBody (kind : OpKind) : Body := groupWide fun w m g =>
  match mmaAim (kind == .mmaSc) g (blockWord g w.f) with
  | .error t => .error t
  | .ok a =>
    if g.reg w.f.fd 0 = handleNew ∧ !g.id.copyIndex ∧ (m.core w.core).estateFree = 0 then .error (.fault .estatefull 0)
    else enterLatch w m g kind 8 a

/-- MMA. -/
def bodyMma : Body := mmaBody .mma
def execMma (w : WordA) (s : State) : Host.Outcome State Fault Refusal := issue 4 (fieldsA 0xD0 w) bodyMma s
/-- MMA.SC. -/
def bodyMmaSc : Body := mmaBody .mmaSc
def execMmaSc (w : WordA) (s : State) : Host.Outcome State Fault Refusal := issue 4 (fieldsA 0xD1 w) bodyMmaSc s

/-- MHAD (R286). -/
def bodyMhad : Body := groupWide fun w m g =>
  match mhadAim g (blockWord g w.f) with
  | .error t => .error t
  | .ok a => enterLatch w m g .mhad 4 a
def execMhad (w : WordA) (s : State) : Host.Outcome State Fault Refusal := issue 4 (fieldsA 0xD2 w) bodyMhad s

/-- MQNT (R287). -/
def bodyMqnt : Body := groupWide fun w m g =>
  match mqntAim g (blockWord g w.f) with
  | .error t => .error t
  | .ok a => enterLatch w m g .mqnt 8 a
def execMqnt (w : WordA) (s : State) : Host.Outcome State Fault Refusal := issue 4 (fieldsA 0xD3 w) bodyMqnt s

/-! ### The engine's reads and writes (R279, R285, R271) -/

/-- The issuer's view of memory, which an accepted operation keeps when the issuer ends (R285). -/
def EngineOp.view (o : EngineOp) : Group := { uid := o.uid, id := o.ident, valloc := 16, pc := 0 }

/-- The engine of a core injects n flits for an operation (R159). -/
def Mach.engineInject (m : Mach) (d : Device) (core : Nat) (id : Ident) (n : Nat) : Mach :=
  match if n = 0 then none else m.injectPlane d (coreSite core) with
  | some p => m.modCore core (fun c => c.count (14 + p) n id)
  | none => m

/-- Bytes at their home within one page, with the marks of those that are uncorrectable. -/
def Mach.engineChunk (d : Device) (m : Mach) (core : Nat) (g : Group) (va : Va) (n : Nat) (tag : FTag) :
    Mach × Except CopyGot (List (Byte × Bool)) :=
  match m.translate core g va with
  | (m, .ok l leaf) =>
    if !leaf.rd || m.anyClass l n (some tag) (fun c => c == .tagMismatch) then (m, .error (.violation va))
    else match l with
      | .host _ => if m.linkDown then (m, .error .later)
        else (m.engineInject d core g.id (accessFlits l n false), .ok ((m.bytesAt l n).map (fun b => (b, false))))
      | _ => ((m.noteRead l n (some tag) g.id.ctx core none 7 va.toNat).engineInject d core g.id (accessFlits l n false), .ok ((List.range n).map (fun i => (m.byteAt (l.plus i), (m.classAt (l.plus i) (some tag)).bad))))
  | (m, .fault level) => (m, .error (.xlat va level))
  | (m, .access) => (m, .error (.violation va))
  | (m, .migrating) => (m, .error .later)

/-- Bytes at their homes. -/
def Mach.engineRead (d : Device) (m : Mach) (core : Nat) (g : Group) (va : Va) (n : Nat) (tag : FTag) :
    Mach × Except CopyGot (List (Byte × Bool)) :=
  let k := pageRoom va n
  match m.engineChunk d core g va k tag with
  | (m, .error e) => (m, .error e)
  | (m, .ok bs) =>
    if k = n then (m, .ok bs)
    else match m.engineChunk d core g (va + BitVec.ofNat 56 k) (n - k) tag with
      | (m, .error e) => (m, .error e)
      | (m, .ok cs) => (m, .ok (bs ++ cs))

/-- n bytes at offset o of each listed row. -/
def Mach.engineRows (d : Device) (m : Mach) (core : Nat) (g : Group) (base : Va) (stride : Word) (o n : Nat) (tag : FTag) :
    List Nat → Mach × Except CopyGot (List (List (Byte × Bool)))
  | [] => (m, .ok [])
  | i :: is =>
    match m.engineRead d core g (base + BitVec.ofNat 56 (i * stride.toNat + o)) n tag with
    | (m, .error e) => (m, .error e)
    | (m, .ok r) => match m.engineRows d core g base stride o n tag is with
      | (m, .error e) => (m, .error e)
      | (m, .ok rs) => (m, .ok (r :: rs))

/-- A write of an operation: its address, its bytes, its tag, and whether it depends on uncorrectable input. -/
structure EngineWrite where
  va : Va
  bytes : List Byte
  tag : FTag
  bad : Bool

/-- Cut a write at the end of its line. -/
def EngineWrite.split (w : EngineWrite) : Nat → List EngineWrite
  | 0 => []
  | n + 1 =>
    let k := min w.bytes.length (128 - w.va.toNat % 128)
    if w.bytes = [] then []
    else { w with bytes := w.bytes.take k } ::
      EngineWrite.split { w with va := w.va + BitVec.ofNat 56 k, bytes := w.bytes.drop k } n

/-- The places of writes, each within one line; the first that cannot be made stops them all (R279, R285). -/
def Mach.engineAim (m : Mach) (core : Nat) (g : Group) : List EngineWrite → Mach × Except CopyGot (List (Loc × EngineWrite))
  | [] => (m, .ok [])
  | w :: ws =>
    match m.translate core g w.va with
    | (m, .ok l leaf) =>
      if !leaf.w || m.anyClass l w.bytes.length (some w.tag) (fun c => c == .tagMismatch) then (m, .error (.violation w.va))
      else match m.engineAim core g ws with
        | (m, .ok ls) => (m, .ok ((l, w) :: ls))
        | r => r
    | (m, .fault level) => (m, .error (.xlat w.va level))
    | (m, .access) => (m, .error (.violation w.va))
    | (m, .migrating) => (m, .error .later)

/-- What the store gate of a duplex launch makes of an operation's writes (R269, R330): `make` where there is none, or the window of
the instruction has closed with matching signatures; `hold` while that window is open; `wait` while it is closed and its partner's is
not; `drop` where it came to nothing. -/
inductive OpGate where
  | make | hold | wait | drop
  deriving DecidableEq, Repr

def Mach.opGate (m : Mach) (core : Nat) (o : EngineOp) : OpGate :=
  if !o.ident.duplex then .make
  else if o.silent then .drop
  else match m.findGroup core ((o.members.map (·.1)).head?.getD 0) o.uid with
    | none => .make
    | some g =>
      if g.dup.windows ≤ o.window then .hold
      else if g.dup.closedSig.isSome && g.dup.windows == o.window + 1 then .wait
      else .make

/-- One write within a line is made: poisoned, or with uncorrectable words, when it depends on bad input (R271). Every memory write of
a duplex launch waits at its store gate (R269); once that is open, what the copy with index 1 writes outside its own scratchpad
is made by its partner alone (R330). -/
def Mach.engineWrite (d : Device) (m : Mach) (core : Nat) (o : EngineOp) (gate : OpGate) (e : Loc × EngineWrite) : Mach :=
  let (l, w) := e
  let off := l.off
  let mask := rangeMask off w.bytes.length
  let data : SMap Byte := w.bytes.mapIdx (fun i b => (off + i, b))
  let slot := (o.members.map (·.1)).head?.getD 0
  let poison : BitVec 4 := if w.bad then badSectors (w.bytes.mapIdx (fun i b => (off + i, b, true))) else 0
  if gate == .drop || (gate == .make && o.ident.copyIndex && !l.isSpad) then m
  else if gate == .hold then
    m.send core slot o.uid l.place 0 true (.writeBack l.line (lineVa w.va) mask poison data w.tag .engine)
  else
    let m := ((m.writeLine l.line mask (if l.isSpad then 0 else poison) data (some w.tag) o.ident.ctx core (some slot) none 7
      (some (lineVa w.va))).mach).engineInject d core o.ident (accessFlits l w.bytes.length true)
    match l with
    | .spad c a => if w.bad then m.modCluster c (fun k => { k with
        spadBad := (List.range w.bytes.length).foldl (fun bs i =>
          if bs.contains ((a + i) / 4) then bs else ((a + i) / 4) :: bs) k.spadBad }) else m
    | _ => m

/-- While the link is down, the host-write reserve has no room for this many records more (R106). -/
def Mach.reserveShort (m : Mach) (ctx n : Nat) : Bool :=
  m.linkDown && 0 < n && Config.reserveRecords < (m.ctx ctx).reserve.length + n

/-- All the writes of a K-block, or none (R284): those bound for the host go to the reserve while the link is down, and wait for its
room (R106, R377). -/
def Mach.engineWrites (d : Device) (m : Mach) (core : Nat) (o : EngineOp) (ws : List EngineWrite) : Mach × Except CopyGot Unit :=
  match m.engineAim core o.view (ws.flatMap (fun w => w.split 8)) with
  | (m, .error e) => (m, .error e)
  | (m, .ok ls) =>
    if m.reserveShort o.ident.ctx (ls.filter (fun e => match e.1 with | .host _ => true | _ => false)).length then (m, .error .full)
    else (ls.foldl (fun m e => m.engineWrite d core o (m.opGate core o) e) m, .ok ())

/-! ### What one K-block computes -/

/-- A row of a K-block: its 32 element codes and whether some byte is bad. -/
structure KRow where
  codes : List Nat
  bad : Bool

def kRow (bits : Nat) (bs : List (Byte × Bool)) : KRow :=
  let n := leNat (bs.map (·.1))
  { codes := (List.range 32).map (fun i => bitsOf n (bits * i) bits), bad := bs.any (·.2) }

/-- The value of a code (R283). -/
def codeVal (fmt c : Nat) : FVal :=
  match fmt with
  | 0 => m8Val c
  | 1 => m4Val c
  | 2 => bf16.decode c
  | _ => hf16.decode c

/-- One element of one K-block (R174 to R176): its new value, and whether it clamped. -/
def mmaElem (fa fb : Nat) (a b : KRow) (sa sb : Option Int) (c : Word) : Word × Bool :=
  if fa < 4 then
    let ps := List.zipWith (fun x y => (codeVal fa x).mul (codeVal fb y)) a.codes b.codes
    let sc := match sa, sb with | some x, some y => some (x + y) | _, _ => none
    (BitVec.ofNat 32 (blockUpdate (pairWindow fa) c.toNat ps (sc.getD 0) sc.isNone), false)
  else
    satAdd c ((List.zipWith (fun x y => sextNat x (fmtBits fa) * sextNat y (fmtBits fb)) a.codes b.codes).foldl (· + ·) 0)

/-- The scales of a K-block: 128 containers (R283); with no scales S is 256 (R172). -/
def scalesOf (bs : List (Byte × Bool)) : List (Option Int × Bool) :=
  (List.range 128).map (fun i =>
    (scaleExp (leNat ((bs.drop (2 * i)).take 2 |>.map (·.1))), ((bs.drop (2 * i)).take 2).any (·.2)))

/-- A slot after one K-block over these rows and scales (R174 to R176, R271). -/
def AccSlot.update (s : AccSlot) (fa fb : Nat) (as bs : List KRow) (sa sb : List (Option Int × Bool)) : AccSlot × Bool :=
  let none32 : KRow := { codes := [], bad := false }
  let cell (e : Nat) : Word × Bool :=
    mmaElem fa fb (as.getD (e / 128) none32) (bs.getD (e % 128) none32) (sa.getD (e / 128) (some 0, false)).1
      (sb.getD (e % 128) (some 0, false)).1 (s.elems.getD e 0)
  let cells := (List.range 16384).map (fun e => (e, cell e))
  let bad (e : Nat) : Bool := (as.getD (e / 128) none32).bad || (bs.getD (e % 128) none32).bad ||
    (sa.getD (e / 128) (none, false)).2 || (sb.getD (e % 128) (none, false)).2 || s.bad.contains e
  let clamped := cells.any (fun c => c.2.2)
  ({ s with elems := cells.map (fun c => (c.1, c.2.1)), bad := (List.range 16384).filter bad, sat := s.sat || clamped }, clamped)

/-- K-block kb of an MMA or MMA.SC: the slot changes, unless it has been freed meanwhile. Elements whose operands a member has written
since the issue are undefined (R284). -/
def Mach.mmaBlock (d : Device) (m : Mach) (core : Nat) (o : EngineOp) (kb : Nat) : Mach × Except CopyGot Bool :=
  let k4 := (o.block.getD 4 0).toNat
  let fa := bitsOf k4 8 4
  let fb := bitsOf k4 12 4
  let rows := List.range 128
  let g := o.view
  let ptr (i : Nat) : Va := o.ptrs.getD i 0
  let tag (i : Nat) : FTag := o.tags.getD i 0
  match m.engineRows d core g (ptr 0) (o.block.getD 2 0) (kb * 4 * fmtBits fa) (4 * fmtBits fa) (tag 0) rows with
  | (m, .error e) => (m, .error e)
  | (m, .ok as) =>
    match m.engineRows d core g (ptr 1) (o.block.getD 3 0) (kb * 4 * fmtBits fb) (4 * fmtBits fb) (tag 1) rows with
    | (m, .error e) => (m, .error e)
    | (m, .ok bs) =>
      let scales : Mach × Except CopyGot (List (Option Int × Bool) × List (Option Int × Bool)) :=
        if o.kind = .mma then (m, .ok (List.replicate 128 (some 0, false), List.replicate 128 (some 0, false)))
        else match m.engineRead d core g (ptr 2 + BitVec.ofNat 56 (256 * kb)) 256 (tag 2) with
          | (m, .error e) => (m, .error e)
          | (m, .ok xs) => match m.engineRead d core g (ptr 3 + BitVec.ofNat 56 (256 * kb)) 256 (tag 3) with
            | (m, .error e) => (m, .error e)
            | (m, .ok ys) => (m, .ok (scalesOf xs, scalesOf ys))
      match scales with
      | (m, .error e) => (m, .error e)
      | (m, .ok (sa, sb)) =>
        let s := (m.core core).slot o.slot
        if !s.live || s.gen != o.gen then (m, .ok false)
        else
          let r := s.update fa fb (as.map (kRow (fmtBits fa))) (bs.map (kRow (fmtBits fb))) sa sb
          ((m.modCore core (fun c => c.setSlot o.slot r.1)).freeElems core o.slot o.wild, .ok r.2)

/-- An element of a memory format as F32 bits: F32, BF or HF (R178). -/
def widenF32 (fmt code : Nat) : Nat :=
  match fmt with
  | 0 => code
  | 1 => f32.encode (bf16.decode code)
  | _ => f32.encode (hf16.decode code)

/-- F32 bits in a memory format (R286). -/
def narrowF32 (fmt bits : Nat) : Nat :=
  match fmt with
  | 0 => bits
  | 1 => bf16.encode (f32.decode bits)
  | _ => hf16.encode (f32.decode bits)

/-- The vectors of a row that end in K-block kb, for vectors of n elements. -/
def vectorsIn (n kb : Nat) : List Nat := (List.range (32 * (kb + 1) / n)).filter (fun v => 32 * kb < (v + 1) * n)

/-- K-block kb of an MHAD (R178, R286). -/
def Mach.mhadBlock (d : Device) (m : Mach) (core : Nat) (o : EngineOp) (kb : Nat) : Mach × Except CopyGot Bool :=
  let c := (o.block.getD 2 0).toNat
  let fmt := bitsOf c 12 2
  let size := bitsOf c 8 2
  let n := 16 * 2 ^ size
  let es := srcBits fmt / 8
  let vs := vectorsIn n kb
  let lo := (vs.head?.getD 0) * n * es
  let len := vs.length * n * es
  if vs = [] then (m, .ok false)
  else match m.engineRows d core o.view (o.ptrs.getD 0 0) (o.block.getD 1 0) lo len (o.tags.getD 0 0) (List.range 128) with
    | (m, .error e) => (m, .error e)
    | (m, .ok rows) =>
      let ws := rows.zipIdx.flatMap (fun r => (List.range vs.length).map (fun v =>
        let bs := (r.1.drop (v * n * es)).take (n * es)
        let x := leNat (bs.map (·.1))
        let ys := hadamard (4 + size) ((List.range n).map (fun i => widenF32 fmt (bitsOf x (8 * es * i) (8 * es))))
        ({ va := o.ptrs.getD 0 0 + BitVec.ofNat 56 (r.2 * (o.block.getD 1 0).toNat + lo + v * n * es)
           bytes := ys.flatMap (fun y => leBytes es (narrowF32 fmt y)), tag := o.tags.getD 0 0
           bad := bs.any (·.2) } : EngineWrite)))
      match m.engineWrites d core o ws with
      | (m, .ok _) => (m, .ok false)
      | (m, .error e) => (m, .error e)

/-- An address of MQNT's destination lies in its source: its byte holds an undefined value (R287, log 23). -/
def EngineOp.overlap (o : EngineOp) (a : Va) : Bool :=
  let c := (o.block.getD 5 0).toNat
  let len := 32 * o.kBlocks * srcBits (bitsOf c 12 2) / 8
  (List.range 128).any (fun i =>
    (a - (o.ptrs.getD 0 0 + BitVec.ofNat 56 (i * (o.block.getD 1 0).toNat))).toNat < len)

/-- The bytes of a write, those that overlap the source drawn anew. -/
def Mach.smudge (m : Mach) (o : EngineOp) (w : EngineWrite) : Mach × EngineWrite :=
  let r := w.bytes.zipIdx.foldl (fun (r : Mach × List Byte) b =>
    if o.overlap (w.va + BitVec.ofNat 56 b.2) then
      let (d, m) := r.1.draw
      (m, r.2 ++ [Config.freeByte d])
    else (r.1, r.2 ++ [b.1])) (m, [])
  (r.1, { w with bytes := r.2 })

def Mach.smudgeAll (m : Mach) (o : EngineOp) : List EngineWrite → Mach × List EngineWrite
  | [] => (m, [])
  | w :: ws =>
    let (m, w) := m.smudge o w
    let (m, ws) := m.smudgeAll o ws
    (m, w :: ws)

/-- Codes of these bits packed into bytes, the lowest first (R165). -/
def packCodes (bits : Nat) (cs : List Nat) : List Byte :=
  leBytes (cs.length * bits / 8) (cs.foldr (fun c n => c + n * 2 ^ bits) 0)

/-- K-block kb of an MQNT (R179, R287). -/
def Mach.mqntBlock (d : Device) (m : Mach) (core : Nat) (o : EngineOp) (kb : Nat) : Mach × Except CopyGot Bool :=
  let c := (o.block.getD 5 0).toNat
  let fmt := bitsOf c 12 2
  let target := bitsOf c 16 2
  let es := srcBits fmt / 8
  let db := 4 * dstBits target
  match m.engineRows d core o.view (o.ptrs.getD 0 0) (o.block.getD 1 0) (kb * 32 * es) (32 * es) (o.tags.getD 0 0)
      (List.range 128) with
  | (m, .error e) => (m, .error e)
  | (m, .ok rows) =>
    let ws := rows.zipIdx.flatMap (fun r =>
      let x := leNat (r.1.map (·.1))
      let q := quantise target ((List.range 32).map (fun i => f32.decode (widenF32 fmt (bitsOf x (8 * es * i) (8 * es)))))
      let bad := r.1.any (·.2)
      [({ va := o.ptrs.getD 1 0 + BitVec.ofNat 56 (r.2 * (o.block.getD 3 0).toNat + kb * db)
          bytes := packCodes (dstBits target) q.2, tag := o.tags.getD 1 0, bad } : EngineWrite),
       { va := o.ptrs.getD 2 0 + BitVec.ofNat 56 (2 * (128 * kb + r.2)), bytes := leBytes 2 q.1, tag := o.tags.getD 2 0, bad }])
    let (m', ws) := m.smudgeAll o ws
    match m'.engineWrites d core o ws with
    | (m, .ok _) => (m, .ok false)
    | (_, .error e) => (m, .error e)

/-! ### What the engine does (R279, R285) -/

/-- The operation at the head of the queue changes. -/
def Mach.modOp (m : Mach) (core : Nat) (f : EngineOp → EngineOp) : Mach :=
  m.modCore core (fun c => match c.engine with
    | [] => c
    | o :: os => { c with engine := f o :: os })

/-- Writes of an earlier operation of this engine have not been performed: the next operation reads nothing yet (R279). They wait at a
store gate, or on their way to their homes, or are those of a duplex partner that makes them for both copies (R269, R330). -/
def Mach.engineGated (m : Mach) (core : Nat) (o : EngineOp) : Bool :=
  m.msgs.any (fun x => (x.core == core || x.twin.any (fun t => t.1 == core)) && match x.body with
    | .writeBack _ _ _ _ _ _ .engine => true | _ => false) ||
  (o.ident.copyIndex && match m.partner core o.view with
    | some p => (m.core p.core).engine.any (fun x => x.uid == p.uid && !x.kind.isMma)
    | none => false)

/-- An operation that writes memory waits while its window is closed and its partner's is not (R269). -/
def Mach.engineWaits (m : Mach) (core : Nat) (o : EngineOp) : Bool := !o.kind.isMma && m.opGate core o == .wait

/-- The operation at the head of the queue applies its next K-block, after the latches that can be accepted have been
(R284, R285). One that must wait for a migrating page, the link or room in the reserve does nothing yet (R79, R106). -/
def Mach.kBlock (d : Device) (m : Mach) (core : Nat) : Mach :=
  let m := m.acceptAll core 65
  match (m.core core).engine with
  | [] => m
  | o :: _ =>
    let kb := o.prog / 32
    if o.state == .parked || o.state == .held || o.kBlocks ≤ kb || (kb == 0 && m.engineGated core o) || m.engineWaits core o then m
    else
      let m0 := m
      let r := match o.kind with
        | .mhad => m.mhadBlock d core o kb
        | .mqnt => m.mqntBlock d core o kb
        | _ => m.mmaBlock d core o kb
      let slot := (o.members.map (·.1)).head?.getD 0
      match r with
      | (m, .ok clamped) =>
        m.modOp core (fun o => { o with prog := 32 * (kb + 1), state := .running, clamped := o.clamped || clamped })
      | (m, .error (.xlat va level)) =>
        let (token, m) := m.fresh
        (m.modOp core (fun o => { o with state := .parked, token := some token })).postFq o.ident.ctx 1 7 va.toNat level core
          (some slot) [token]
      | (m, .error (.violation va)) =>
        (m.modOp core (fun o => { o with state := .held })).postFq o.ident.ctx 7 7 va.toNat 0 core (some slot) []
      | (_, .error .full) => m0.reserveStall o.ident.ctx core (some slot)
      | (_, .error _) => m0

/-- MWAIT holds: what it covers, the operations that are no longer outstanding, happens before the group's next instruction, which is
issued from message number `now` on (R284, R288, R320). -/
def Core.waited (c : Core) (now : Nat) (g : Group) : Group :=
  g.learn now ((g.eng.unsure.filter (fun o => !c.engine.any (fun x => x.id == o.id))).map (·.id))

/-- A group whose MWAIT holds no longer waits (R288). -/
def Core.wakeM (c : Core) (now : Nat) (g : Group) : Group :=
  match g.wait with
  | some (.mwait n) => if g.eng.out ≤ n then { c.waited now g with wait := none } else g
  | _ => g

/-- An operation leaves the queue with a last status (R284, R288). -/
def Mach.leaveEngine (m : Mach) (core : Nat) (o : EngineOp) (st : Status) : Mach :=
  let m := m.modCore core (fun c => { c with engine := c.engine.erase o })
  o.members.foldl (fun m x => m.modUid core x.1 x.2 (fun g =>
    (m.core core).wakeM m.nextUid { g with eng := { g.eng with out := g.eng.out - 1, last := st, prog := o.prog } })) m

/-- The operation at the head of the queue is DONE (R284, R285), and a latch held for a place may be accepted. -/
def Mach.operationDone (m : Mach) (core : Nat) : Mach :=
  match (m.core core).engine with
  | [] => m
  | o :: _ =>
    if o.prog < 32 * o.kBlocks then m
    else
      let m := m.modCore core (fun c => if o.kind.isMma then c.count 11 1 o.ident else c)
      (m.leaveEngine core o (if o.clamped then .saturated else .ok)).acceptAll core 65

/-! ### MWAIT, MPROG, MSTAT, MCANCEL and FENCE.OPND (R288, R291) -/

/-- MWAIT. -/
def bodyMwait : Body := groupWide fun w m g =>
  let n := w.f.imm.toNat
  .ok (m.setGroup w.core w.slot (if g.eng.out ≤ n then (m.core w.core).waited m.nextUid g else { g with wait := some (.mwait n) }))
def execMwait (w : WordI) (s : State) : Host.Outcome State Fault Refusal := issue 4 (fieldsI 0xD4 w) bodyMwait s

/-- The group's oldest outstanding operation. -/
def Core.oldestOp (c : Core) (uid : Nat) : Option EngineOp :=
  c.engine.find? (fun o => o.members.any (fun x => x.2 == uid))

/-- PROG of R288: the oldest outstanding operation's, or the most recent one's last. -/
def Mach.progOf (m : Mach) (core : Nat) (g : Group) : Nat :=
  match (m.core core).oldestOp g.uid with
  | some o => o.prog
  | none => g.eng.prog

def OpState.num : OpState → Nat
  | .queued => 1 | .running => 2 | .parked => 3 | .held => 4

/-- MPROG. -/
def bodyMprog : Body := groupWide fun w m g =>
  let ts := g.participants w.f.g
  .ok (commit w m (writeAll w.f.fd ts (BitVec.ofNat 32 (m.progOf w.core g)) ++ resultTag ts w.f.fd 1 2))
def execMprog (w : WordA) (s : State) : Host.Outcome State Fault Refusal := issue 4 (fieldsA 0xDA w) bodyMprog s

/-- The word of MSTAT: PROG is that of the oldest outstanding operation. -/
def Mach.mstat (m : Mach) (core : Nat) (g : Group) : Word :=
  let o := (m.core core).oldestOp g.uid
  BitVec.ofNat 32 (g.eng.last.code * 2 ^ 24 + g.eng.out * 2 ^ 20 +
    (match o with | some o => o.state.num | none => 0) * 2 ^ 17 + (match o with | some o => o.prog | none => 0))

/-- MSTAT. -/
def bodyMstat : Body := groupWide fun w m g =>
  let ts := g.participants w.f.g
  .ok (commit w m (writeAll w.f.fd ts (m.mstat w.core g) ++ resultTag ts w.f.fd 1 2))
def execMstat (w : WordA) (s : State) : Host.Outcome State Fault Refusal := issue 4 (fieldsA 0xDD w) bodyMstat s

/-- Every outstanding operation of a group is cancelled, in every member (R288). -/
def Mach.cancelOps (m : Mach) (core uid : Nat) : Mach :=
  ((m.core core).engine.filter (fun o => o.members.any (fun x => x.2 == uid))).foldl
    (fun m o => m.leaveEngine core o .gangbroken) m

/-- MCANCEL. -/
def bodyMcancel : Body := groupWide fun w m g =>
  answerD w ((m.cancelOps w.core g.uid).acceptAll w.core 65) g .ok
def execMcancel (w : WordA) (s : State) : Host.Outcome State Fault Refusal := issue 4 (fieldsA 0xDF w) bodyMcancel s

/-- FENCE.OPND (R291): it marks what the group has issued before it. -/
def bodyFenceOpnd : Body := groupWide fun w m g =>
  .ok (m.setGroup w.core w.slot { g with eng := { g.eng with opnd := some m.nextUid } })
def execFenceOpnd (w : WordA) (s : State) : Host.Outcome State Fault Refusal := issue 4 (fieldsA 0xDC w) bodyFenceOpnd s

end Sys2Proof.Machine
end

