-- ==== Sys2Proof/Machine/Swap.lean ====
section
/-! DEFINITION. Pre-emption asked for, context save and restore on a core (R75, R100, R315, R354 to R356), and the seat a
group takes on a core (R343, R344). -/

namespace Sys2Proof.Machine

/-! ### Seats (R343, R344) -/

/-- Resident owner groups of a lane. -/
def Core.owners (c : Core) (lane : Nat) : Nat :=
  (c.groups.filter (fun e => laneOf e.1 == lane && e.1 < Config.harvestBase)).length

/-- The lowest free owner slot of a lane. -/
def Core.freeSeat (c : Core) (lane : Nat) : Option Nat :=
  ((List.range Config.ownerSlots).map (holderOf lane)).find? (fun s => (c.groups.get? s).isNone)

/-- A lane can take an owner group with this v allocation: a free owner slot, and bytes that no owner group has allocated
(R343). -/
def Core.takes (c : Core) (valloc lane : Nat) : Bool :=
  (c.freeSeat lane).isSome && c.ownerBytes lane + 128 * valloc ≤ Config.bankBytes

/-- The least of a list by a measure, ties to the earlier. -/
def leastBy (f : Nat → Nat) : List Nat → Option Nat
  | [] => none
  | x :: xs => some (xs.foldl (fun b y => if f y < f b then y else b) x)

/-- The lane of R344: the fewest resident owner groups among those that can take it, ties to the lowest. -/
def Core.laneFor (c : Core) (valloc : Nat) : Option Nat :=
  leastBy c.owners ((List.range 128).filter (c.takes valloc))

/-- The slot a group resumes in: its old one if it is free and its bytes are, or the lowest free slot of the lane of R344
(R355). -/
def Core.seatFor (c : Core) (home valloc : Nat) : Option Nat :=
  if (c.groups.get? home).isNone && c.ownerBytes (laneOf home) + 128 * valloc ≤ Config.bankBytes then some home
  else (c.laneFor valloc).bind c.freeSeat

/-- The bytes of a lane that harvest groups still hold of what an owner group needs (R344). -/
def Core.bytesReady (c : Core) (lane valloc : Nat) : Bool :=
  c.ownerBytes lane + c.harvestBytes lane false + 128 * valloc ≤ Config.bankBytes

/-! ### Pre-emption (R354, R355) -/

/-- The reasons for which a pre-emption is asked. -/
def askSave : Nat := 0
def askRemap : Nat := 1
def askTest : Nat := 2

/-- The owner groups of a context; every owner group when there is none. -/
def Group.ownedBy (g : Group) (ctx : Option Nat) : Bool :=
  !g.id.sup && !g.id.harvest && match ctx with | some n => g.id.ctx == n | none => true

/-- Pre-emption is asked of the owner groups of a context on a core (R354). -/
def Core.askPreempt (c : Core) (ctx : Option Nat) (why : Nat) : Core :=
  { c with groups := c.groups.mapVals (fun _ g =>
      if g.ownedBy ctx && g.preempt.isNone && g.state != .ending then { g with preempt := some why, testRuns := 0 } else g) }

/-- A v register is dead in a pre-empted group (R42). -/
def Group.dead (g : Group) (r : Nat) : Bool := 16 ≤ r || !g.live.getLsbD r

/-- A pre-empted group as it resumes: every dead register, and its tag, holds an undefined value (R42, R75, log 34); d
numbers the free values. -/
def Group.revive (g : Group) (d : Nat) : Group :=
  let row (r : Nat) : SMap Word :=
    if g.dead r then (List.range 32).map (fun t => (32 * r + t, Config.freeWord (d + 32 * r + t)))
    else g.v.filter (fun e => e.1 / 32 == r)
  let tag (r : Nat) : SMap FTag :=
    if g.dead r then [(r, BitVec.ofNat 4 ((Config.freeWord (d + 1504 + r)).toNat % 10))]
    else g.vtag.filter (fun e => e.1 == r)
  { g with v := (List.range g.valloc).flatMap row, vtag := (List.range g.valloc).flatMap tag, state := .ready
           preempt := none }

/-- The members list of a group's block names its seat. -/
def Mach.moveMember (m : Mach) (core slot : Nat) (g : Group) : Mach :=
  m.modBlock (clusterOf core) g.id.block (fun b => { b with
    members := b.members.mapVals (fun i x => if i = g.id.gindex then { x with core, slot } else x) })

/-- A pre-empted group resumes, if a seat with its bytes is there for it; an owner's need revokes harvest groups (R355,
R357). -/
def Mach.reseat (m : Mach) (core uid : Nat) : Mach :=
  match (m.core core).saved.get? uid with
  | none => m
  | some g =>
    if g.state != .preempted then m
    else match (m.core core).seatFor g.home g.valloc with
      | none => m
      | some s =>
        let ln := laneOf s
        let m := if (m.core core).bytesReady ln g.valloc then m else m.revokeFor core ln (128 * g.valloc)
        if !(m.core core).bytesReady ln g.valloc then m
        else
          let (d, m) := m.drawMany 1600
          let m := m.modCore core (fun c => { c with
            saved := c.saved.erase uid, groups := c.groups.set s (g.revive d) })
          (m.moveMember core s g).atBoundary core s

/-- Every pre-empted group of a core that these hold of resumes, in the order of their old slots. -/
def Mach.reseatAll (m : Mach) (core : Nat) (p : Group → Bool) : Mach :=
  (((m.core core).saved.filter (fun e => p e.2)).mergeSort (fun x y => x.2.home ≤ y.2.home)).foldl
    (fun m e => m.reseat core e.1) m

/-! ### Save and restore (R315, R356) -/

/-- The group that holds accumulator slot i: the one of its estate entry, or the copy with duplex index 1 that the slot names (R102,
R127, R376). -/
def Core.slotUid (c : Core) (i : Nat) : Option Nat :=
  let s := c.slot i
  if !s.live then none
  else match c.estate.find? (fun e => e.2.kind == 2 && e.2.key == slotKey s.gen i) with
    | some (_, e) => some e.uid
    | none => s.twin

/-- The context of the group that holds accumulator slot i. -/
def Mach.slotCtx (m : Mach) (core i : Nat) : Option Nat :=
  ((m.core core).slotUid i).bind (fun uid => ((List.range 8).findSome? (fun j =>
    (m.core (8 * clusterOf core + j)).everyone.find? (fun g => g.uid == uid))).map (fun g => g.id.ctx))

/-- The pages of the blocks of a context with a group on a core take a state (R100). -/
def Mach.ctxPages (m : Mach) (core ctx : Nat) (old new : PageState) : Mach :=
  m.modCluster (clusterOf core) (fun k =>
    let ps := (k.blocks.filter (fun e => e.2.ctx == ctx && e.2.members.any (fun x => x.2.core == core))).flatMap (·.2.pages)
    { k with pages := ps.foldl (fun t p =>
        let x := t.getD p {}
        if x.state = old then t.set p { x with state := new } else t) k.pages })

/-- Copies and engine operations of a context on a core are all DONE (R356). -/
def Core.drained (c : Core) (ctx : Nat) : Bool :=
  c.chans.all (fun ch => ch.2.entries.all (fun e => e.ctx != ctx)) && c.engine.all (fun o => o.ident.ctx != ctx)

/-- The LIVE slots of a context go to the save area (R356). -/
def Mach.saveSlots (m : Mach) (core ctx : Nat) : Mach :=
  (List.range 16).foldl (fun m i =>
    if m.slotCtx core i = some ctx then
      (m.modCore core (fun c => { c with savedAcc := c.savedAcc.set i (c.slot i) })).freeSlot core i
    else m) m

/-- Saved slots come back under their numbers, each once its number is free (R356). -/
def Mach.restoreSlots (m : Mach) (core : Nat) : Mach :=
  m.modCore core (fun c => c.savedAcc.foldl (fun c e =>
    if (c.slot e.1).live then c else { c.setSlot e.1 e.2 with savedAcc := c.savedAcc.erase e.1 }) c)

/-- A core operation is over: its status goes to the group that asked, if one did (R315). -/
def Mach.opOver (m : Mach) (core : Nat) (o : CoreOp) (st : Status) : Mach :=
  let m := m.modCore core (fun c => { c with ops := c.ops.erase o })
  match m.findGroup core o.slot o.uid with
  | some _ => m.opStatus core o st
  | none => m

/-- A save goes on: it is complete once every owner group of the context is saved and nothing of it runs (R356). -/
def Mach.serveSave (m : Mach) (core : Nat) (o : CoreOp) : Mach :=
  let c := m.core core
  if c.groups.any (fun e => e.2.ownedBy (some o.ctx)) || !c.drained o.ctx then m
  else ((m.saveSlots core o.ctx).ctxPages core o.ctx .alloc .saved).opOver core o .ok

/-- A restore goes on: it is complete once every slot and every group of the context is back (R355, R356). -/
def Mach.serveRestore (m : Mach) (core : Nat) (o : CoreOp) : Mach :=
  let m := m.restoreSlots core
  let m := m.reseatAll core (fun g => g.ownedBy (some o.ctx))
  let c := m.core core
  if !c.savedAcc.isEmpty || c.saved.any (fun e => e.2.ownedBy (some o.ctx) && e.2.state == .preempted) then m
  else m.opOver core o .ok

/-- The harvest groups of the core are all out of its lanes' banks (R358). -/
def Core.allParked (c : Core) : Bool :=
  c.groups.all (fun e => !e.2.id.harvest || e.2.inReserve || e.2.state == .ending)

/-- The core operations under way go on (R314, R315). -/
def Mach.serveOps (m : Mach) (core : Nat) : Mach :=
  (m.core core).ops.foldl (fun m o =>
    if o.op = opSave then m.serveSave core o
    else if o.op = opRestore then m.serveRestore core o
    else if o.op = opRevoke && (m.core core).allParked then m.opOver core o .ok
    else m) m

/-- CTXSW SAVE of a context starts on a core: pre-emption is asked of its owner groups (R315, R354). -/
def Mach.startSave (m : Mach) (core : Nat) (o : CoreOp) : Mach :=
  (m.modCore core (fun c => { c.askPreempt (some o.ctx) askSave with ops := c.ops ++ [o] })).serveOps core

/-- CTXSW RESTORE of a context starts on a core: its pages come back (R100, R315). -/
def Mach.startRestore (m : Mach) (core : Nat) (o : CoreOp) : Mach :=
  ((m.modCore core (fun c => { c with ops := c.ops ++ [o] })).ctxPages core o.ctx .saved .alloc).serveOps core

end Sys2Proof.Machine
end

