-- ==== Sys2Proof/Machine/Supervisor.lean ====
section
/-! DEFINITION. Row F of the opcode map: the mailbox, other groups' registers, stopping, resuming and killing groups, cached
translations, the fault queue, counters, and the supervisor's core operations (R307 to R316). -/

namespace Sys2Proof.Machine

/-- The slot that an operand names; none when a bit beyond 10:0 is set. -/
def slotOperand (x : Word) : Option Nat := if x.toNat < 2048 then some x.toNat else none

/-- The group that a slot operand names, unless it is the supervisor slot's or ENDING (R310). -/
def Mach.target (m : Mach) (core : Nat) (x : Word) : Option (Nat × Group) :=
  match slotOperand x with
  | none => none
  | some s => match m.slotGroup? core s with
    | some g => if g.id.sup || g.state == .ending then none else some (s, g)
    | none => none

/-- Per-thread words in D, arriving together. -/
def deferWords (w : Who) (m : Mach) (g : Group) (ws : List (Nat × Word)) (sts : List RegWrite) : Except Trap Mach :=
  .ok (defer w m g 0 (ws.flatMap (fun x => writeField w.f.fd x.1 x.2) ++ resultTag (ws.map (·.1)) w.f.fd 1 2 ++ sts)
    (regItems w.f.fd 1))

/-! ### The mailbox (R120, R307, R308) -/

/-- A 56-bit address as its two words. -/
def vaWords (a : Va) : List Word := [a.setWidth 32, (a.extractLsb' 32 24).setWidth 32]

/-- The 16 words of a record (R120), taken. -/
def MboxRec.words (r : MboxRec) : List Word :=
  [0, 0, 0, BitVec.ofNat 32 (2 + r.kind * 2 ^ 8 + r.vcount * 2 ^ 16 + r.vfirst * 2 ^ 24),
   BitVec.ofNat 32 (r.ctx + r.slot * 2 ^ 16), r.seq, BitVec.ofNat 32 r.code, r.amask] ++ vaWords r.addr ++ vaWords r.pc ++ r.kw

/-- The POSTED record with the lowest SEQ. -/
def Core.posted (c : Core) : Option (Nat × MboxRec) :=
  match c.mbox.filter (fun e => !e.2.taken) with
  | [] => none
  | e :: es => some (es.foldl (fun b x => if x.2.seq.ult b.2.seq then x else b) e)

/-- MBOXRD (R307). -/
def bodyMboxrd : Body := groupWide fun w m g =>
  let ts := g.participants w.f.g
  match (m.core w.core).posted with
  | none => deferWords w m g (ts.map (fun t => (t, if t = 16 then BitVec.allOnes 32 else 0))) []
  | some (i, r) =>
    let m := m.modCore w.core (fun c => { c with mbox := c.mbox.set i { r with taken := true } })
    deferWords w m g (ts.map (fun t => (t, if t = 16 then BitVec.ofNat 32 i else r.words.getD t 0))) []
def execMboxrd (w : WordA) (s : State) : Host.Outcome State Fault Refusal := issue 4 (fieldsA 0xF0 w) bodyMboxrd s

/-- MBOXWR (R308). -/
def bodyMboxwr : Body := groupWide fun w m g =>
  let t := (g.participants w.f.g).head?.getD 0
  let i := (opA g w.f t).toNat
  let mode := opB g w.f t
  match (m.core w.core).mbox.get? i with
  | none => answerD w m g .mismatch
  | some r =>
    if !r.taken || 1 < mode.toNat then answerD w m g .mismatch
    else
      let m := m.modCore w.core (fun c => Core.fillMailbox { c with mbox := c.mbox.erase i })
      let m := if mode = 0 then m
        else match m.group? w.core r.slot with
          | some x => if x.state == .stopped then m.resumeGroup w.core r.slot x else m
          | none => m
      answerD w m g .ok
def execMboxwr (w : WordA) (s : State) : Host.Outcome State Fault Refusal := issue 4 (fieldsA 0xF1 w) bodyMboxwr s

/-! ### RDG and WRG (R74, R309) -/

/-- The group part of a line register as a number (R62): the LINE fields of ways beyond NWAY are free values once an open has bound the
register, and 0 before that. -/
def LineReg.groupPart (r : LineReg) (d : Nat) : Nat :=
  let line (i : Nat) : Nat := match r.lines[i]? with
    | some a => a.toNat / 128
    | none => if i = 0 || r.lines.isEmpty then 0 else
      (Config.freeWord (d + 2 * i)).toNat + ((Config.freeWord (d + 2 * i + 1)).toNat % 2 ^ 17) * 2 ^ 32
  r.state.num + (if r.w then 8 else 0) + (if r.spad then 16 else 0) + ((r.lines.length - 1) % 4) * 32 + line 0 * 2 ^ 8 +
    line 1 * 2 ^ 57 + line 2 * 2 ^ 106 + line 3 * 2 ^ 155 + r.tag.toNat * 2 ^ 204

/-- The per-thread part of a line register (R63). -/
def LineReg.threadPart (r : LineReg) (t : Nat) : Nat :=
  (if r.bound.getLsbD t then 512 else 0) + (r.way.getD t 0).toNat * 128 + (r.off.getD t 0).toNat

/-- The predicates of a thread as one word (R309). -/
def Group.predWord (g : Group) (t : Nat) : Nat :=
  (List.range 8).foldl (fun n p => n + (if g.pred p t then 2 ^ p else 0)) 0

/-- Bits lo to lo + n - 1 of the scoreboard. -/
def Group.sbBits (g : Group) (lo n : Nat) : Nat := bitsOf g.sb.toNat lo n

/-- The batch state (R151). -/
def Batches.word (b : Batches) : Nat := b.bseq.toNat * 2 ^ 24 + b.bdone.toNat * 2 ^ 16 + b.openn * 2 ^ 8

/-- A v register that the group does not hold, or that is dead while it is pre-empted, has no defined value (R42, R249,
log 34). -/
def Group.undefV (g : Group) (r : Nat) : Bool := g.valloc ≤ r || (g.state == .preempted && g.dead r)

/-- The word that RDG gives for a class, an index and a thread; d numbers free values. None for what the table of R309 does
not hold. -/
def rdgWord (g : Group) (cls idx t d : Nat) : Option Word :=
  let n (x : Nat) : Option Word := some (BitVec.ofNat 32 x)
  match cls with
  | 0 => if idx < 47 then some (if g.undefV idx then Config.freeWord d else g.readV idx t) else none
  | 1 => if idx < 16 then some (g.readK idx) else none
  | 2 => if idx = 0 then n (g.predWord t) else none
  | 3 => if idx < 47 then n (if g.undefV idx then (Config.freeWord d).toNat % 10 else (g.tagV idx).toNat) else none
  | 4 => if idx < 128 && idx % 8 < 6 then some ((g.span (idx / 8)).image.extractLsb' (32 * (idx % 8)) 32) else none
  | 5 => if idx < 64 then n (if idx % 8 = 7 then (g.line (idx / 8)).threadPart t
      else bitsOf ((g.line (idx / 8)).groupPart d) (32 * (idx % 8)) 32) else none
  | 6 => if idx < 2 then some (g.gang.extractLsb' (32 * idx) 32) else none
  | 7 => if idx = 0 then some (g.statusWord g.state) else none
  | 8 => if idx = 0 then some g.bereave else none
  | 9 => if idx < 2 then some ((vaWords g.pc).getD idx 0) else none
  | 10 => if idx = 0 then some g.amask else if idx = 1 then n g.depth
    else if idx < 18 then some (g.stack.getD (idx - 2) 0) else none
  | 11 => match idx with
    | 0 => n (g.sbBits 0 32)
    | 1 => n (g.sbBits 32 15 + g.sbBits 48 16 * 2 ^ 16)
    | 2 => n (g.sbBits 64 8 + g.sbBits 72 8 * 2 ^ 8 + g.sbBits 80 16 * 2 ^ 16)
    | _ => none
  | 12 => match idx with
    | 0 => n g.batch.word
    | 1 => some g.tokens
    | 2 => some g.eseq
    | 3 => n (g.dspec * 256 + g.didx)
    | _ => none
  | _ => none

/-- What WRG makes of a group; none when the register cannot be written so (R57, R59, R66, R74). -/
def wrgGroup (g : Group) (cls idx t : Nat) (x : Word) : Option Group :=
  let free (items : BitVec 96) (h : Group) : Option Group := if g.sb &&& items != 0 then none else some h
  match cls with
  | 0 => if idx < 47 then free (itemBit idx) (if idx < g.valloc then g.setV idx t x else g) else none
  | 1 => if idx < 16 then free (itemBit (48 + idx)) (g.setK idx x) else none
  | 2 => if idx = 0 then free (0xFF#96 <<< 64) ((List.range 8).foldl (fun h p => h.setPred p t (x.getLsbD p)) g) else none
  | 3 => if idx < 47 && x.toNat % 16 < 10 then
      free (itemBit idx) (if idx < g.valloc then g.setTag idx (x.setWidth 4) else g) else none
  | 4 => if idx < 128 && idx % 8 < 6 then
      let lo := 32 * (idx % 8)
      let old := (g.span (idx / 8)).image
      let new := (old &&& ~~~((0xFFFFFFFF#192) <<< lo)) ||| (x.setWidth 192 <<< lo)
      some (g.setSpan (idx / 8) (.ofImage new)) else none
  | 6 => if idx < 2 then
      let lo := 32 * idx
      let new := (g.gang &&& ~~~((0xFFFFFFFF#64) <<< lo)) ||| (x.setWidth 64 <<< lo)
      some { g with gang := new &&& 0x00FFFFFFFFFFFF17 } else none
  | _ => none

/-- A bit of kA+1 that R309 calls zero is set: ILLEGAL (R228, R266). -/
def regIllegal (k1 : Word) : Bool := k1.toNat >>> 21 != 0 || bitsOf k1.toNat 12 4 != 0

/-- RDG reads a word of a register in which the check finds two errors (R85, R369). -/
def rdgBad (g : Group) (cls idx t : Nat) : Bool :=
  match cls with
  | 0 => g.bad.contains (32 * idx + t)
  | 1 => g.bad.contains (32 * (48 + idx))
  | 2 => (List.range 8).any (fun p => g.bad.contains (32 * (64 + p)))
  | _ => false

/-- A register word that WRG writes is good again (R85). -/
def wrgGood (g : Group) (cls idx t : Nat) : Group :=
  match cls with
  | 0 => { g with bad := g.bad.filter (· != 32 * idx + t) }
  | 1 => { g with bad := g.bad.filter (· != 32 * (48 + idx)) }
  | 2 => { g with bad := g.bad.filter (fun n => n / 32 < 64) }
  | _ => g

/-- The group that RDG or WRG reaches, with the class, the index and the thread (R74, R309). -/
def Mach.regAim (m : Mach) (core : Nat) (k0 k1 : Word) : Option (Nat × Group × Nat × Nat × Nat) :=
  let n := k1.toNat
  match m.target core k0 with
  | none => none
  | some (s, g) =>
    if g.state == .stopped || g.state == .preempted || g.state == .parked then
      some (s, g, n % 16, bitsOf n 4 8, bitsOf n 16 5)
    else none

/-- The answer of RDG and WRG: the status in B, and what RDG read in D. -/
def regAnswer (w : Who) (m : Mach) (g : Group) (read : Option Word) (st : Status) : Except Trap Mach :=
  let ws := match read with | some x => writeField w.f.fd 0 x | none => []
  .ok (defer w m g 0 (ws ++ statusWrites w.f.fb st)
    (regItems w.f.fb 1 ||| (if w.f.op == 0xF2 then regItems w.f.fd 1 else 0)))

/-- RDG (R309). -/
def bodyRdg : Body := groupWide fun w m g =>
  if regIllegal (blockWord g w.f 1) then .error (.fault .illegal 0)
  else match m.regAim w.core (blockWord g w.f 0) (blockWord g w.f 1) with
  | none => regAnswer w m g none .mismatch
  | some (_, x, cls, idx, t) =>
    let (d, m) := m.drawMany 8
    if rdgBad x cls idx t then .error (.kill 0)
    else match rdgWord x cls idx t d with
    | some v => regAnswer w m g (some v) .ok
    | none => regAnswer w m g none .mismatch
def execRdg (w : WordA) (s : State) : Host.Outcome State Fault Refusal := issue 4 (fieldsA 0xF2 w) bodyRdg s

/-- WRG (R309). -/
def bodyWrg : Body := groupWide fun w m g =>
  if regIllegal (blockWord g w.f 1) then .error (.fault .illegal 0)
  else match m.regAim w.core (blockWord g w.f 0) (blockWord g w.f 1) with
  | none => regAnswer w m g none .mismatch
  | some (s, x, cls, idx, t) =>
    match wrgGroup x cls idx t (opD g w.f ((g.participants w.f.g).head?.getD 0)) with
    | some x' => regAnswer w (m.modUid w.core s x.uid (fun _ => wrgGood x' cls idx t)) g none .ok
    | none => regAnswer w m g none .mismatch
def execWrg (w : WordA) (s : State) : Host.Outcome State Fault Refusal := issue 4 (fieldsA 0xF3 w) bodyWrg s

/-! ### GSTOP, GRESUME and GKILL (R310) -/

/-- GSTOP of a group: none when it is not a target. -/
def Mach.gstop (m : Mach) (core slot : Nat) (g : Group) : Option Mach :=
  match g.state with
  | .ready => if g.atSafe then some (m.modUid core slot g.uid (fun g => { g with stopMark := true }))
      else some (m.stopGroup core slot g)
  | .stopped => none
  | .ending => none
  | _ => some (m.modUid core slot g.uid (fun g => { g with stopMark := true }))

/-- GSTOP. -/
def bodyGstop : Body := groupWide fun w m g =>
  match m.target w.core (opA g w.f ((g.participants w.f.g).head?.getD 0)) with
  | none => answerD w m g .mismatch
  | some (s, x) => match m.gstop w.core s x with
    | some m => answerD w m g .ok
    | none => answerD w m g .mismatch
def execGstop (w : WordA) (s : State) : Host.Outcome State Fault Refusal := issue 4 (fieldsA 0xF4 w) bodyGstop s

/-- The HELD entry of a channel goes on from its boundary (R310 mode 1). -/
def CopyEntry.release (e : CopyEntry) : CopyEntry :=
  { e with state := if e.started then .active else .queued, token := none }

/-- GRESUME mode 1: none when the channel has no HELD entry. -/
def Mach.releaseCopy (m : Mach) (core chan : Nat) : Option Mach :=
  match ((m.core core).chan chan).entries with
  | e :: _ => if e.state == .held then some (m.modHead core chan CopyEntry.release) else none
  | [] => none

/-- GRESUME mode 2: the entry stops at its boundary, and counts as finished for its batch. -/
def Mach.cancelCopy (m : Mach) (core chan : Nat) : Option Mach :=
  match ((m.core core).chan chan).entries with
  | e :: _ => if e.state == .held then some ((m.copyStop core chan e).leaveBatch core e) else none
  | [] => none

/-- GRESUME modes 3 and 4. -/
def Mach.releaseOp (m : Mach) (core : Nat) (cancel : Bool) : Option Mach :=
  match (m.core core).engine with
  | o :: _ =>
    if o.state != .held then none
    else if cancel then some ((m.leaveEngine core o .gangbroken).acceptAll core 65)
    else some (m.modOp core (fun o => { o with state := .running, token := none }))
  | [] => none

/-- GRESUME mode 0. -/
def Mach.gresume (m : Mach) (core : Nat) (x : Word) : Option Mach :=
  match m.target core x with
  | some (s, g) =>
    if g.state == .stopped && (g.cause == .gstop || g.cause == .freeze) then some (m.resumeGroup core s g) else none
  | none => none

/-- GRESUME. -/
def bodyGresume : Body := groupWide fun w m g =>
  let t := (g.participants w.f.g).head?.getD 0
  let a := opA g w.f t
  let r := match (opB g w.f t).toNat with
    | 0 => m.gresume w.core a
    | 1 => m.releaseCopy w.core (a.toNat % 16)
    | 2 => m.cancelCopy w.core (a.toNat % 16)
    | 3 => m.releaseOp w.core false
    | 4 => m.releaseOp w.core true
    | _ => none
  match r with
  | some m => answerD w m g .ok
  | none => answerD w m g .mismatch
def execGresume (w : WordA) (s : State) : Host.Outcome State Fault Refusal := issue 4 (fieldsA 0xF5 w) bodyGresume s

/-- GKILL (R310, R370). -/
def bodyGkill : Body := groupWide fun w m g =>
  match m.target w.core (opA g w.f ((g.participants w.f.g).head?.getD 0)) with
  | none => answerD w m g .mismatch
  | some (s, x) => answerD w (m.kill w.core s x.uid none) g .ok
def execGkill (w : WordA) (s : State) : Host.Outcome State Fault Refusal := issue 4 (fieldsA 0xF6 w) bodyGkill s

/-! ### Cached translations and layouts (R311) -/

/-- The pages of a range: all of a context when the count is 0. -/
def inRange (start : Va) (pages page : Nat) : Bool :=
  pages == 0 || (start.toNat / 65536 ≤ page && page < start.toNat / 65536 + pages)

/-- Every cached translation of a range is dropped, and the context's layout records when the range meets its layout area
(R141, R311); what waits for a page that migrated is tried again (R79). -/
def Mach.xlinv (m : Mach) (ctx : Nat) (start : Va) (pages : Nat) : Mach :=
  let c := m.ctx ctx
  let first := c.laybase.toNat / 65536
  let last := (c.laybase.toNat + 64 * c.laycount - 1) / 65536
  let meets := pages == 0 || (c.laycount != 0 && start.toNat / 65536 ≤ last && first < start.toNat / 65536 + pages)
  let m := { m with walker := m.walker.filter (fun e => !(e.ctx == ctx && inRange start pages e.page)) }
  (if meets then { m with clusters := m.clusters.mapVals (fun _ k => { k with
      layouts := k.layouts.filter (fun e => e.ctx != ctx) }) }
  else m).serveOwn

/-- XLINV. -/
def bodyXlinv : Body := groupWide fun w m g =>
  let k := blockWord g w.f
  answerD w (m.xlinv ((k 0).toNat % 65536) (vaOfWords (k 1) (k 2)) (k 3).toNat) g .ok
def execXlinv (w : WordA) (s : State) : Host.Outcome State Fault Refusal := issue 4 (fieldsA 0xF7 w) bodyXlinv s

/-! ### The fault queue (R122, R123, R312) -/

/-- The eight words of an entry (R122). -/
def FqEntry.words (e : FqEntry) : List Word :=
  [e.seq, BitVec.ofNat 32 (e.acc * 2 ^ 24),
   BitVec.ofNat 32 (e.kind + e.pcore * 2 ^ 8 + (match e.slot with | some s => (0x8000 + s % 2048) * 2 ^ 16 | none => 0)),
   e.count, BitVec.ofNat 32 e.aux, BitVec.ofNat 32 (e.aux >>> 32), BitVec.ofNat 32 e.vaddr, BitVec.ofNat 32 (e.vaddr >>> 32)]

/-- The oldest entry leaves the queue; a popped translation fault waits for its replay, and unposted ones post (R123). -/
def Ctx.popFq (c : Ctx) : Option (FqEntry × Ctx) :=
  match c.fq with
  | [] => none
  | e :: es => some (e, Ctx.postWaiting { c with
      fq := es, fqhead := c.fqhead + 1, popped := if e.kind = 1 then c.popped ++ [e] else c.popped })

/-- FQPOP's words and its status. With no entry the words are free values: the spec states none. -/
def Mach.fqpop (m : Mach) (ctx : Word) : Mach × List Word × Status :=
  let n := ctx.toNat
  let none' (st : Status) : Mach × List Word × Status :=
    let (d, m) := m.drawMany 8
    (m, (List.range 8).map (fun i => Config.freeWord (d + i)), st)
  match m.ctxs.get? n with
  | none => none' .mismatch
  | some c =>
    if c.state = .free || c.fqcons then none' .mismatch
    else match c.popFq with
      | none => none' .empty
      | some (e, c') => ({ m with ctxs := m.ctxs.set n c' }, e.words, .ok)

/-- FQPOP. -/
def bodyFqpop : Body := groupWide fun w m g =>
  let ts := g.participants w.f.g
  let (m, ws, st) := m.fqpop (opA g w.f (ts.head?.getD 0))
  deferWords w m g ((ts.filter (· < 9)).map (fun t => (t, if t = 8 then st.word else ws.getD t 0))) [.lsts st]
def execFqpop (w : WordA) (s : State) : Host.Outcome State Fault Refusal := issue 4 (fieldsA 0xF8 w) bodyFqpop s

/-- A waiting group's access is replayed, or has failed for good (R78, R312). -/
def Group.replay (g : Group) (tokens : List Nat) (fail : Bool) : Group :=
  match g.wait with
  | some (.xlat k va _ i) => if tokens.contains k then { g with wait := if fail then some (.xlat k va true i) else none } else g
  | _ => g

/-- A waiting copy entry goes on, or is HELD by a violation with its kind-7 entry (R312, R374). -/
def CopyEntry.replay (e : CopyEntry) (tokens : List Nat) (fail : Bool) : CopyEntry :=
  if e.token.any tokens.contains then (if fail then { e with token := none } else e.release) else e

/-- The operation at the head of an engine goes on, or is HELD. -/
def EngineOp.replay (o : EngineOp) (tokens : List Nat) (fail : Bool) : EngineOp :=
  if o.token.any tokens.contains then { o with state := if fail then .held else .running, token := none } else o

/-- Kind-7 entries for what a failed replay holds (R374). -/
def Mach.postHeld (m : Mach) (core : Nat) (tokens : List Nat) (va : Nat) : Mach :=
  let c := m.core core
  let m := (c.chans.flatMap (·.2.entries)).foldl (fun m e =>
    if e.token.any tokens.contains then m.postFq e.ctx 7 4 va 0 core (some e.slot) [] else m) m
  c.engine.foldl (fun m o =>
    if o.token.any tokens.contains then m.postFq o.ident.ctx 7 7 va 0 core (o.members.head?.map (·.1)) [] else m) m

/-- Every access that waits on a popped entry is replayed, or fails (R123, R312). -/
def Mach.fqreplay (m : Mach) (e : FqEntry) (fail : Bool) : Mach :=
  let ks := e.tokens
  let cores := m.cores.map (·.1)
  let m := if fail then cores.foldl (fun m core => m.postHeld core ks e.vaddr) m else m
  let m := { m with
    cores := m.cores.mapVals (fun _ c => { c with
      groups := c.groups.mapVals (fun _ g => g.replay ks fail)
      saved := c.saved.mapVals (fun _ g => g.replay ks fail)
      chans := c.chans.mapVals (fun _ ch => { ch with entries := ch.entries.map (fun x => CopyEntry.replay x ks fail) })
      engine := c.engine.map (fun o => EngineOp.replay o ks fail) }) }
  let hit (x : Msg) : Bool := match x.body with | .openWait o => o.token.any ks.contains | _ => false
  if !fail then
    ({ m with msgs := m.msgs.map (fun (x : Msg) => match x.body with
        | .openWait o => if hit x then { x with body := .openWait { o with token := none } } else x
        | _ => x) }.queueReplay ks false).replayJobs ks false
  else
    let failed := m.msgs.filter hit
    let m := { m with msgs := m.msgs.filter (fun x => !hit x) }
    let m := failed.foldl (fun m (x : Msg) => match x.body, m.findGroup x.core x.slot x.uid with
      | .openWait o, some g => (m.giveBack x.core o).openFail x.core x.slot g o
      | _, _ => m) m
    ((cores.foldl (fun m core => (m.core core).groups.foldl (fun m x => m.atBoundary core x.1) m) m).queueReplay ks true).replayJobs ks true

/-- FQREPLAY. -/
def bodyFqreplay : Body := groupWide fun w m g =>
  let t := (g.participants w.f.g).head?.getD 0
  let seq := opA g w.f t
  let b := (opB g w.f t).toNat
  match m.ctxs.get? (b % 65536) with
  | none => answerD w m g .mismatch
  | some c =>
    match c.popped.find? (fun e => e.seq == seq) with
    | none => answerD w m g .mismatch
    | some e =>
      if bitsOf b 16 15 != 0 then answerD w m g .mismatch
      else answerD w ((m.modCtx (b % 65536) (fun c => { c with popped := c.popped.erase e })).fqreplay e (b.testBit 31)) g .ok
def execFqreplay (w : WordA) (s : State) : Host.Outcome State Fault Refusal := issue 4 (fieldsA 0xF9 w) bodyFqreplay s

/-! ### Counters (R49, R159, R313) -/

/-- CYCLES: a v pair is sampled as each participant passes. -/
def bodyCycles : Body := fun _ w m => withGroup w m fun g =>
  let ts := g.participants w.f.g
  let now := (m.core w.core).cycle
  let at' (t : Nat) : Dword := BitVec.ofNat 64 (now + (g.active.takeWhile (· != t)).length)
  .ok (commit w m (if isV w.f.fd then ts.flatMap (fun t => writeWide w.f.fd t 0 (words64 (at' t))) ++ resultTag ts w.f.fd 2 2
    else if ts = [] then [] else writeWide w.f.fd 0 0 (words64 (BitVec.ofNat 64 now))))
def execCycles (w : WordA) (s : State) : Host.Outcome State Fault Refusal := issue 4 (fieldsA 0xFA w) bodyCycles s

/-- BRK (R316). -/
def bodyBrk : Body := fun _ w m => withGroup w m fun g =>
  if g.participants w.f.g = [] then .ok m else .error (.fault .brk 0)
def execBrk (w : WordI) (s : State) : Host.Outcome State Fault Refusal := issue 4 (fieldsI 0xFB w) bodyBrk s

/-- PERFRD: each participant in turn writes the pair. -/
def bodyPerfrd : Body := fun _ w m => withGroup w m fun g =>
  let ts := g.participants w.f.g
  if ts = [] then .ok m
  else
    let c := m.core w.core
    let val (t : Nat) : Dword :=
      let i := (opA g w.f t).toNat
      if i < 16 then (c.perf.getD i 0).setWidth 64 else 0
    .ok (defer w m g 0 (ts.flatMap (fun t => writeWide w.f.fd t 0 (words64 (val t)))) (regItems w.f.fd 2))
def execPerfrd (w : WordA) (s : State) : Host.Outcome State Fault Refusal := issue 4 (fieldsA 0xFC w) bodyPerfrd s

/-- What SIGRD reads (R313): 0 for a group outside a duplex launch and for an unknown selector. For a slot without a group, and
for the signature of a partner that is gone, the spec gives no value: it is a free one (log 34). -/
def Mach.sigrd (m : Mach) (core : Nat) (x sel : Word) (free : Dword) : Dword :=
  if 3 ≤ sel.toNat then 0
  else match (slotOperand x).bind (m.slotGroup? core) with
    | none => free
    | some g =>
      if !g.id.duplex then 0
      else match sel.toNat with
        | 0 => g.dup.sig
        | 1 => match (m.partner core g).bind (fun p => m.findGroup p.core p.slot p.uid) with
          | some h => h.dup.sig
          | none => free
        | _ => BitVec.ofNat 64 g.dup.nst

/-- SIGRD. -/
def bodySigrd : Body := groupWide fun w m g =>
  let t := (g.participants w.f.g).head?.getD 0
  let (d, m) := m.drawMany 2
  let x := m.sigrd w.core (opA g w.f t) (opB g w.f t) (Config.freeWord d ++ Config.freeWord (d + 1))
  .ok (defer w m g 0 (writeWide w.f.fd 0 0 (words64 x)) (regItems w.f.fd 2))
def execSigrd (w : WordA) (s : State) : Host.Outcome State Fault Refusal := issue 4 (fieldsA 0xFD w) bodySigrd s

/-! ### HARVEST and CTXSW (R314, R315) -/

/-- A core operation that the issuing group waits for: D is pending until it completes. -/
def coreOp (w : Who) (m : Mach) (g : Group) (op ctx : Nat) : Mach × CoreOp :=
  (m.modUid w.core w.slot g.uid (fun g => { g with sb := g.sb ||| regItems w.f.fd 1 }),
   { op, ctx, slot := w.slot, uid := g.uid, kd := w.f.fd, pages := [], due := 0 })

/-- HARVEST REVOKE: every harvest group of the core is parked and returns only after RESTORE (R357, R360). -/
def Mach.revokeAll (m : Mach) (core : Nat) : Mach :=
  let slots := ((m.core core).groups.filter (fun e => e.2.id.harvest && e.2.state != .ending)).map (·.1)
  slots.foldl (fun m s => (m.revoke core s).modGroup core s (fun g => { g with revoked := true })) m

/-- HARVEST (R314). Admission is a placement opportunity for the harvest context's blocks (log 105). -/
def bodyHarvest : Body := groupWide fun w m g =>
  let ctx := (blockWord g w.f 1).toNat % 65536
  let c := m.core w.core
  match (blockWord g w.f 0).toNat with
  | 0 =>
    let x := m.ctx ctx
    if c.harvestCtx.isSome || x.state = .free || !x.harvest then answerD w m g .mismatch
    else answerD w (m.modCore w.core (fun c => { c with harvestCtx := some ctx })).opportunity g .ok
  | 1 =>
    if c.harvestCtx.isNone then answerD w m g .mismatch
    else
      let (m, o) := coreOp w (m.revokeAll w.core) g opRevoke ctx
      .ok ((m.modCore w.core (fun c => { c with ops := c.ops ++ [o] })).serveOps w.core)
  | 2 =>
    if c.harvestCtx.isNone then answerD w m g .mismatch
    else answerD w (m.modCore w.core (fun c => { c with groups := c.groups.mapVals (fun _ g => { g with revoked := false }) }))
      g .ok
  | 3 =>
    if c.everyone.any (fun g => g.id.harvest) then answerD w m g .mismatch
    else answerD w (m.modCore w.core (fun c => { c with harvestCtx := none })) g .ok
  | _ => answerD w m g .mismatch
def execHarvest (w : WordA) (s : State) : Host.Outcome State Fault Refusal := issue 4 (fieldsA 0xFE w) bodyHarvest s

/-- CTXSW (R315). -/
def bodyCtxsw : Body := groupWide fun w m g =>
  let op := (blockWord g w.f 0).toNat
  let ctx := (blockWord g w.f 1).toNat % 65536
  if 1 < op || m.clusterOwner (clusterOf w.core) != some ctx then answerD w m g .mismatch
  else
    let (m, o) := coreOp w m g (if op = 0 then opSave else opRestore) ctx
    .ok (if op = 0 then m.startSave w.core o else m.startRestore w.core o)
def execCtxsw (w : WordA) (s : State) : Host.Outcome State Fault Refusal := issue 4 (fieldsA 0xFF w) bodyCtxsw s

end Sys2Proof.Machine
end

