-- ==== Sys2Proof/Machine/Tasks.lean ====
section
/-! DEFINITION. Row E of the opcode map, positions 12 to 15: tasks (R117 to R119, R150, R304 to R306, R347). -/

namespace Sys2Proof.Machine

/-! ### Task slots and handles -/

def Cluster.task (k : Cluster) (i : Nat) : Task := k.tasks.getD i {}
def Cluster.setTask (k : Cluster) (i : Nat) (t : Task) : Cluster := { k with tasks := k.tasks.set i t }

/-- A task handle (R118). -/
def taskHandle (logical slot : Nat) (gen : BitVec 16) : Word :=
  BitVec.ofNat 32 (logical * 2 ^ 27 + slot * 65536 + gen.toNat)

/-- The generation after one more ENQ: 0 is skipped (R118). -/
def nextGen (g : BitVec 16) : BitVec 16 := if g = BitVec.allOnes 16 then 1 else g + 1

/-- A task slot holds the task that a handle names for a context (R118, R306). -/
def Task.named (t : Task) (ctx : Nat) (h : Word) : Bool :=
  t.state != .free && t.ctx == ctx && t.gen.toNat == h.toNat % 65536 && t.handle.toNat >>> 27 == h.toNat >>> 27

/-- The physical cluster and slot that a handle names for a context on a cluster: none when its generation does not match, when the slot
is FREE, or when the slot belongs to another context (R118, R306). -/
def Mach.taskOf (m : Mach) (cl ctx : Nat) (h : Word) : Option (Nat × Nat × Task) :=
  let i := bitsOf h.toNat 16 11
  ((m.handleClusters cl ctx (h.toNat >>> 27)).find? (fun c => ((m.cluster c).task i).named ctx h)).map (fun c => (c, i, (m.cluster c).task i))

/-- The cluster whose hub performs an operation on a handle: the task's, or the one that the handle's logical cluster stands for. -/
def Mach.taskHub (m : Mach) (cl ctx : Nat) (h : Word) : Option Nat :=
  match m.taskOf cl ctx h with
  | some (c, _, _) => some c
  | none => m.physical cl ctx (h.toNat >>> 27)

/-- A task whose counter becomes n: a WAITING one whose counter reaches 0 is RUNNABLE, and a RUNNABLE one whose counter is raised
from 0 is WAITING (R119, R150). -/
def Task.withDep (t : Task) (n : Word) : Task :=
  { t with
    dep := n
    state := match t.state with
      | .waiting => if n = 0 then .runnable else .waiting
      | .runnable => if t.dep = 0 && n != 0 then .waiting else .runnable
      | s => s }

/-- DEP plus a signed amount, clamped, and whether it was (R150). -/
def depClamp (dep : Word) (d : Int) : Word × Bool :=
  let x := (dep.toNat : Int) + d
  (BitVec.ofInt 32 (max 0 (min 4294967295 x)), x < 0 || 4294967295 < x)

/-- A dependency counter changes by d: its status (R118, R150). -/
def Mach.depAdd (m : Mach) (cl ctx : Nat) (h : Word) (d : Int) : Mach × Status :=
  match m.taskOf cl ctx h with
  | none => (m, .mismatch)
  | some (c, i, t) =>
    let r := depClamp t.dep d
    (m.modCluster c (fun k => k.setTask i (t.withDep r.1)), if r.2 then .saturated else .ok)

/-- A slot is freed (R119, R150): it keeps its generation. -/
def Task.freed (t : Task) : Task := { gen := t.gen }

/-! ### ENQ and DEQ at a hub (R119, R347) -/

/-- A task takes the lowest FREE slot: its handle, or 0 when there is none (R119, R304). -/
def Mach.enqTask (m : Mach) (cl ctx : Nat) (dep succ : Word) (payload : List Byte) (logical : Nat) : Mach × Word :=
  let k := m.cluster cl
  match (List.range Config.taskSlots).find? (fun i => (k.task i).state == .free) with
  | none => (m, 0)
  | some i =>
    let gen := nextGen (k.task i).gen
    let h := taskHandle logical i gen
    (m.setCluster cl { k.setTask i { payload, succ, dep, gen, handle := h, ctx, state := if dep = 0 then .runnable else .waiting
                                     age := k.enqCount } with enqCount := k.enqCount + 1 }, h)

/-- The RUNNABLE tasks of a context in a cluster's queue. -/
def Cluster.runnable (k : Cluster) (ctx : Nat) : List (Nat × Task) :=
  k.tasks.filter (fun e => e.2.state == .runnable && e.2.ctx == ctx)

/-- The oldest of listed tasks, by AGE against the queue's enqueue count (R119). -/
def Cluster.oldestTask (k : Cluster) : List (Nat × Task) → Option (Nat × Task)
  | [] => none
  | e :: es => some (es.foldl (fun b x => if (k.enqCount - b.2.age).toNat < (k.enqCount - x.2.age).toNat then x else b) e)

/-- The neighbours of a physical cluster in the grid, in the order of R347. -/
def neighbours (c : Nat) : List Nat :=
  (if c % 8 < 7 then [c + 1] else []) ++ (if c / 8 < 3 then [c + 8] else []) ++
  (if 0 < c % 8 then [c - 1] else []) ++ (if 0 < c / 8 then [c - 8] else [])

/-- The queue a DEQ takes from: its own, or the neighbour's with the most RUNNABLE tasks of the context (R347). -/
def Mach.dequeFrom (m : Mach) (cl ctx : Nat) : Option Nat :=
  let n (c : Nat) : Nat := ((m.cluster c).runnable ctx).length
  if 0 < n cl then some cl
  else match neighbours cl with
    | [] => none
    | c :: cs =>
      let best := cs.foldl (fun b x => if n b < n x then x else b) c
      if 0 < n best then some best else none

/-- A task's answer: the handle in D, the status. -/
def Group.taskDone (g : Group) (kd ks : RegField) (h : Word) (st : Status) : Group :=
  { applyWrites g (writeField kd 0 h ++ statusWrites ks st) with sb := g.sb &&& ~~~(regItems kd 1 ||| regItems ks 1) }

/-- What a DEQ that takes a task writes, and the scoreboard bits that clear with it (R305). -/
def deqWrites (kd ks : RegField) (h : Word) (st : Status) : List RegWrite := writeField kd 0 h ++ statusWrites ks st

def deqItems (l : Nat) (kd ks : RegField) : BitVec 96 := regItems kd 1 ||| regItems ks 1 ||| itemBit (itemLine l)

/-- A DEQ ends with its answer, after the implicit acquire of the launch object at DEVICE scope; a group of no launch makes none
(R305). -/
def Mach.deqEnd (m : Mach) (x : Msg) (g : Group) (l : Nat) (kd ks : RegField) (h : Word) (st : Status) : Mach :=
  match m.launchObject g with
  | some obj => m.ownSteps g.id.ctx [.acquire x.core x.slot x.uid obj (deqWrites kd ks h st) (deqItems l kd ks)]
  | none => m.modUid x.core x.slot x.uid (fun g => { applyWrites g (deqWrites kd ks h st) with sb := g.sb &&& ~~~deqItems l kd ks })

/-- A DEQ is decided (R305). -/
def Mach.deqStep (m : Mach) (x : Msg) (l way e : Nat) (kd ks : RegField) : Mach :=
  let m := m.unreserve x
  match m.findGroup x.core x.slot x.uid with
  | none => m
  | some g =>
    let cl := clusterOf x.core
    let empty : Mach := m.modUid x.core x.slot x.uid (fun g =>
      { applyWrites g (deqWrites kd ks 0 .empty) with sb := g.sb &&& ~~~deqItems l kd ks })
    match m.dequeFrom cl g.id.ctx with
    | none => empty
    | some c =>
      let k := m.cluster c
      match k.oldestTask (k.runnable g.id.ctx) with
      | none => empty
      | some (i, t) =>
        let m := m.setCluster c (k.setTask i { t with state := .taken, stolen := t.stolen || c != cl })
        let m := m.acquire x.core x.slot g 3 (t.handle.setWidth 64)
        let m := if g.state == .ending then m
          else (m.wayStore x.core x.slot g (g.line l) way e t.payload).touchOperands x.core x.slot x.uid
            ((List.range t.payload.length).map (fun i => (g.line l).lines.getD way 0 + BitVec.ofNat 56 (e + i)))
        m.deqEnd x g l kd ks t.handle (if t.bereaved then .bereaved else .ok)

/-- A TDONE is decided (R306): a successor's counter falls by 1. -/
def Mach.tdoneStep (m : Mach) (x : Msg) (h : Word) (ks : RegField) : Mach :=
  let ctx := m.ctxOf x
  let home := clusterOf x.core
  let answer (m : Mach) (st : Status) : Mach := m.modParties x (fun g => g.objectDone ks st)
  match m.taskOf home ctx h, m.holding? x.core x.uid 3 (h.setWidth 64) with
  | some (cl, i, t), some (c, e, _) =>
    let m := (m.modCluster cl (fun k => k.setTask i t.freed)).eraseEstate c e
    if t.succ = 0 then answer m .ok
    else
      let (m, st) := m.depAdd home ctx t.succ (-1)
      answer m st
  | _, _ => answer m .mismatch

/-- A task operation arrives at its hub (R304 to R306); none when an implicit release before it is not over. -/
def Mach.taskArrive (m : Mach) (n : Nat) (x : Msg) (op : TaskOp) (ks : RegField) : Option Mach :=
  if m.implicitPending x then none
  else
    let m := m.takeMsg n
    some (match op with
      | .enq dep succ payload logical kd =>
        let (m, h) := m.enqTask (x.place - hubPlace 0) (m.ctxOf x) dep succ payload logical
        m.modParties x (fun g => g.taskDone kd ks h (if h = 0 then .full else .ok))
      | .deq l way e kd => m.deqStep x l way e kd ks
      | .tdone h => m.tdoneStep x h ks
      | .depadd h d =>
        let (m, st) := m.depAdd (clusterOf x.core) (m.ctxOf x) h d.toInt
        m.modParties x (fun g => g.objectDone ks st))

/-! ### Issue -/

/-- The 44 bytes that ENQ reads and DEQ writes: way and position, after the checks of R65 with n = 1 and the bound of
R304. -/
def taskAim (g : Group) (l o : Nat) (needW : Bool) (t : Nat) : Except Trap (Nat × Nat) :=
  let r := g.line l
  let way := (r.way.getD t 0).toNat
  let off := (r.off.getD t 0).toNat
  let line := r.lines.getD way 0
  match r.check1 (line + BitVec.ofNat 56 (off + o)) with
  | some t => .error t
  | none =>
    if needW && !r.w then .error (.fault .protect (line + BitVec.ofNat 56 (off + o)))
    else if !r.bound.getLsbD t then .error (.fault .lineclosed 0)
    else if 128 < off + o + 44 then .error (.fault .linebound (line + BitVec.ofNat 56 (off + o)))
    else .ok (way, off + o)

/-- ENQ (R304). -/
def bodyEnq : Body := groupWide fun w m g =>
  let k2 := (blockWord g w.f 2).toNat
  let t := (g.participants w.f.g).head?.getD 0
  let r := g.line (k2 % 8)
  let logical := bitsOf k2 16 5
  if k2 >>> 22 != 0 || k2.testBit 15 || bitsOf k2 3 5 != 0 || blockWord g w.f 3 != 0 then .error (.fault .illegal 0)
  else match taskAim g (k2 % 8) (bitsOf k2 8 7) false t with
    | .error e => .error e
    | .ok (way, e) =>
      match if k2.testBit 21 then m.physical (clusterOf w.core) g.id.ctx logical else some (clusterOf w.core) with
      | none => .error (.fault .access 0)
      | some cl =>
        if m.waysBusy w.core g.uid r 44 [(t, way, e)] then .error .retry
        else match m.badAccess w.core r 44 [(t, way, e)] with
        | some va => .error (.kill va)
        | none =>
          if g.gated then .error .retry
          else match implicitRelease w m g (m.launchObject g) with
            | .error e => .error e
            | .ok m =>
              let m := m.modGroup w.core w.slot (fun g => { g with sb := g.sb ||| regItems w.f.fd 1 ||| regItems w.f.fb 1 })
              .ok (m.send w.core w.slot g.uid (hubPlace cl) 0 g.id.duplex
                (.task (.enq (blockWord g w.f 0) (blockWord g w.f 1) (m.wayBytes w.core r way e 44)
                  (if k2.testBit 21 then logical else g.id.logical) w.f.fd) w.f.fb (maskOf (g.participants w.f.g))))
def execEnq (w : WordA) (s : State) : Host.Outcome State Fault Refusal := issue 4 (fieldsA 0xEC w) bodyEnq s

/-- DEQ (R305): the line register is pending too until the payload is in it. -/
def bodyDeq : Body := groupWide fun w m g =>
  let k0 := (blockWord g w.f 0).toNat
  let l := k0 % 8
  let t := (g.participants w.f.g).head?.getD 0
  if k0 >>> 15 != 0 || bitsOf k0 3 5 != 0 || blockWord g w.f 1 != 0 then .error (.fault .illegal 0)
  else match taskAim g l (bitsOf k0 8 7) true t with
    | .error e => .error e
    | .ok (way, e) =>
      if !g.id.copyIndex && (m.core w.core).estateFree = 0 then .error (.fault .estatefull 0)
      else
        let m := (m.reserve w.core g).modGroup w.core w.slot (fun g => { g with
          sb := g.sb ||| regItems w.f.fd 1 ||| regItems w.f.fb 1 ||| itemBit (itemLine l) })
        .ok (m.send w.core w.slot g.uid (hubPlace (clusterOf w.core)) 0 false
          (.task (.deq l way e w.f.fd) w.f.fb (maskOf (g.participants w.f.g))))
def execDeq (w : WordA) (s : State) : Host.Outcome State Fault Refusal := issue 4 (fieldsA 0xED w) bodyDeq s

/-- A task operation of one handle leaves for the hub that holds the task, behind an implicit release (R306); `refused` says that
nothing may happen but a MISMATCH. -/
def taskBody (op : Word → Word → TaskOp) (refused : Mach → Nat → Group → Word → Bool) : Body := groupWide fun w m g =>
  let t := (g.participants w.f.g).head?.getD 0
  let h := g.reg w.f.fa t
  match m.taskHub (clusterOf w.core) g.id.ctx h with
  | none => answerD w m g .mismatch
  | some cl =>
    if refused m w.core g h then answerD w m g .mismatch
    else if g.gated then .error .retry
    else match implicitRelease w m g (m.launchObject g) with
      | .error e => .error e
      | .ok m =>
        let m := m.modGroup w.core w.slot (fun g => { g with sb := g.sb ||| regItems w.f.fd 1 })
        .ok (m.send w.core w.slot g.uid (hubPlace cl) 0 g.id.duplex
          (.task (op h (g.reg w.f.fb t)) w.f.fd (maskOf (g.participants w.f.g))))

/-- TDONE: a group that does not hold the task changes nothing, and releases nothing (R306). -/
def bodyTdone : Body := taskBody (fun h _ => .tdone h) (fun m core g h => (m.holds? core g 3 (h.setWidth 64)).isNone)
def execTdone (w : WordA) (s : State) : Host.Outcome State Fault Refusal := issue 4 (fieldsA 0xEE w) bodyTdone s
/-- DEPADD. -/
def bodyDepadd : Body := taskBody .depadd (fun _ _ _ _ => false)
def execDepadd (w : WordA) (s : State) : Host.Outcome State Fault Refusal := issue 4 (fieldsA 0xEF w) bodyDepadd s

end Sys2Proof.Machine
end

