-- ==== Sys2Proof/Machine/Convey.lean ====
section
/-! DEFINITION. The last steps of a group's end: the implicit release of an EXIT (R328, R437), the conveyance of its holdings
or their settlement (R131, R370 to R372), and the end of its block (R97, R144). -/

namespace Sys2Proof.Machine

/-! ### The implicit release (R204, R328, R437) -/

/-- A copy entry of the group is still in a channel. -/
def Core.copiesOf (c : Core) (uid : Nat) : Bool := c.chans.any (fun ch => ch.2.entries.any (fun e => e.uid == uid))

/-- An open of the group waits for a fetch or a replay: it settles first (R328). -/
def Mach.opening (m : Mach) (core uid : Nat) : Bool :=
  m.msgs.any (fun x => x.uid == uid && x.core == core && match x.body with
    | .fetch _ _ _ _ _ => true
    | .openWait o => !o.atClaim
    | _ => false)

/-- Opens of the group that wait at a claim are withdrawn, with the entries kept for their claims (R128, R437). -/
def Mach.withdrawClaimed (m : Mach) (core uid : Nat) : Mach :=
  let mine (x : Msg) : Bool := x.uid == uid && x.core == core && match x.body with | .openWait o => o.atClaim | _ => false
  let os := m.msgs.filter mine
  os.foldl (fun m x => match x.body with
      | .openWait o => (m.dropLines core uid o.taken).modCore core (fun c => { c with reserved := c.reserved - o.reserved })
      | _ => m)
    { m with msgs := m.msgs.filter (fun x => !mine x) }

/-- The write-backs of the release: once for both copies of a duplex group (R330). -/
def Mach.exitFlush (m : Mach) (core slot : Nat) (g : Group) : Mach :=
  g.lines.foldl (fun m e => e.2.frames.foldl (fun m fo => match fo with
    | none => m
    | some f =>
      if g.id.copyIndex then m.modCore core (fun c => c.modFrame f (fun fr => { fr with dirty := 0 }))
      else m.sendDirty core slot g.uid false .exit f) m) m

/-- The scope of the implicit release of a group: the CSCOPE of its launch (R109, R328). -/
def Mach.exitScope (m : Mach) (g : Group) : Nat := match m.launches.get? g.id.launch with | some l => l.cscope | none => 3

/-- A write-back of the release is not performed yet. -/
def Mach.exiting (m : Mach) (core uid : Nat) : Bool :=
  m.msgs.any (fun x => x.serves core uid && match x.body with
    | .writeBack _ _ _ _ _ _ .exit => true | _ => false)

/-- Every line register closes and every claim of the group ends, wherever its table is (R235, R328). -/
def Mach.exitClose (m : Mach) (core slot : Nat) (g : Group) : Mach :=
  let m := g.lines.foldl (fun m e => m.unpinAll core slot g e.1 .none .drop) m
  let m := m.modUid core slot g.uid (fun g => { g with lines := g.lines.mapVals (fun _ r => r.close) })
  (List.range 8).foldl (fun m i =>
    let c := 8 * clusterOf core + i
    ((m.core c).claims.filter (fun e => e.2.uid == g.uid)).foldl (fun m e => m.dropClaim c e.1) m) m

def Mach.modEnding (m : Mach) (core slot uid : Nat) (f : Ending → Ending) : Mach :=
  m.modUid core slot uid (fun g => { g with ending := g.ending.map f })

/-- The close of the window that EXIT brings (R376). -/
def Mach.exitWindow (m : Mach) (core slot uid : Nat) (e : Ending) : Mach :=
  if e.closed then m else (m.modEnding core slot uid (fun e => { e with closed := true })).closeWindow core slot uid

/-- The implicit release goes as far as it can (R328): nothing while copies run or opens settle, and it waits for what a REL at the
scope of its launch waits for (R295). -/
def Mach.exitRelease (m : Mach) (core slot : Nat) (g : Group) (e : Ending) : Mach :=
  if e.released || (m.core core).copiesOf g.uid then m
  else
    let m := m.exitWindow core slot g.uid e
    match m.findGroup core slot g.uid with
    | none => m
    | some g =>
      if g.gated || g.ending.any (fun e => e.killed) then m
      else
        let m := m.withdrawClaimed core g.uid
        if m.opening core g.uid then m
        else
          let m := if e.flushed then m
            else (m.exitFlush core slot g).modEnding core slot g.uid (fun e => { e with flushed := true })
          if m.exiting core g.uid || m.outstanding core g.uid m.nextUid || m.hostPending g.id.ctx (m.exitScope g) then m
          else (m.exitClose core slot g).modEnding core slot g.uid (fun e => { e with released := true })

/-! ### Conveyance (R131, R329, R372) -/

/-- One more holding received (R71). -/
def bereaved (b : BitVec 32) (kind : Nat) : BitVec 32 :=
  let n := b.extractLsb' 16 16
  ((if n = BitVec.allOnes 16 then n else n + 1) ++ b.extractLsb' 0 16) ||| (1#32 <<< kind)

/-- The holding at an index of a core passes to a group of the block (R131, R372). -/
def Mach.passOn (m : Mach) (c i : Nat) (e : Estate) (x : Member) : Mach :=
  match m.findGroup x.core x.slot x.uid with
  | none => m
  | some h =>
    let allow := (m.ctx h.id.ctx).callow
    let e' : Estate := { e with hmem := memberOf x.core, hslot := x.slot, uid := x.uid, order := h.eseq, brv := true }
    let m := (m.modCore c (fun k => { k with estate := k.estate.set i e' })).modUid x.core x.slot x.uid (fun h =>
      let h := { h with eseq := h.eseq + 1, bereave := bereaved h.bereave e.kind }
      if e.kind = 0 then h.lockTaken allow else h)
    match e.kind with
    | 4 => m.modCore c (fun k => { k with claims := match k.claims.get? e.key.toNat with
        | some cl => k.claims.set e.key.toNat { cl with holder := x.slot, uid := x.uid }
        | none => k.claims })
    | 5 => m.modCluster (clusterOf c) (fun k => { k with tickets := k.tickets.map (fun t =>
        if t.num == e.aux then { t with owners := t.owners.set (e.key.toNat / 64) x.uid } else t) })
    | _ => m

/-- The holding at an index of a core is heirless, and is settled (R127, R372): the word of a lock or a promise once its page
translates (R78, R79, R436). -/
def Mach.settle (m : Mach) (core c i : Nat) (g : Group) (e : Estate) : Mach :=
  let m := m.eraseEstate c i
  match e.kind with
  | 0 => m.ownSteps g.id.ctx [.orphan core g.uid (e.key.setWidth 56)]
  | 1 => m.ownSteps g.id.ctx [.broken core g.uid (e.key.setWidth 56)]
  | 2 => m.freeSlot c (e.key.toNat % 16)
  | 3 => match m.taskOf (clusterOf core) g.id.ctx (e.key.setWidth 32) with
    | some (cl, n, t) => m.modCluster cl (fun k => k.setTask n { t with state := .runnable, bereaved := true })
    | none => m
  | 4 => m.modCore c (fun k => { k with claims := k.claims.erase e.key.toNat })
  | 5 => m.dropShare (clusterOf c) e.aux (e.key.toNat / 64)
  | _ => m

/-- One holding is conveyed or settled. -/
def Mach.conveyOne (m : Mach) (core : Nat) (g : Group) (h : Nat × Nat × Estate) : Mach :=
  let (c, i, e) := h
  match m.block? core g with
  | none => m.settle core c i g e
  | some b => match b.heirOf e.heir e.hidx g.id.gindex with
    | none => m.settle core c i g e
    | some j => match b.members.get? j with
      | some x => m.passOn c i e x
      | none => m.settle core c i g e

/-- Every holding of a group, in reverse acquisition order (R129, R131). -/
def Mach.conveyAll (m : Mach) (core : Nat) (g : Group) : Mach :=
  (m.estateOrder core g).foldl (fun m h => m.conveyOne core g h) m

/-! ### The end of a block (R97, R144, log 18) -/

/-- The index of a block in its launch, rising with its ordinal (R145). -/
def Block.index (b : Block) (r : Record) : Nat := b.unit * unitBlocks r + b.inUnit

/-- The pages of an ended block: a harvest block gives its lent pages back to their owner, an owner block's go to FREE, lent
ones once their users are parked (R97, R345). -/
def Mach.freePages (m : Mach) (cl bid : Nat) (b : Block) : Mach :=
  let k := m.cluster cl
  if b.harvest then
    (b.pages.filter (fun p => (k.pages.getD p {}).lentTo == some bid)).foldl
      (fun m p => m.freshPage cl p (fun x => { x with lentTo := none })) m
  else
    let lent := b.pages.filter (fun p => (k.pages.getD p {}).state == .lent)
    let rest := b.pages.filter (fun p => (k.pages.getD p {}).state != .lent)
    let m := rest.foldl (fun m p => m.freshPage cl p (fun _ => {})) m
    if lent = [] then m
    else m.reclaimPages (8 * cl) { op := opFree, ctx := b.ctx, slot := 0, uid := 0, kd := 47, pages := lent, due := 0 }

/-- The slots of the copy with index 1, which no estate entry records, end with its block (log 18). -/
def Mach.freeTwinSlots (m : Mach) (b : Block) : Mach :=
  let uids := b.members.map (fun x => x.2.uid)
  (b.members.map (fun x => x.2.core)).eraseDups.foldl (fun m c => (List.range 16).foldl (fun m i =>
    if ((m.core c).slot i).twin.any uids.contains then m.freeSlot c i else m) m) m

/-- A block is gone: its pages, its hub state, and the block's bit in the completion bitmap once both copies of a duplex block
are gone (R144, R145), which is a placement opportunity (R340). -/
def Mach.endBlock (m : Mach) (cl bid : Nat) : Mach :=
  match (m.cluster cl).blocks.get? bid with
  | none => m
  | some b =>
    let m := m.freeTwinSlots b
    let m := m.freePages cl bid b
    let m := m.modCluster cl (fun k => { k with blocks := k.blocks.erase bid })
    match b.partner with
    | some p => m.modBlock cl p (fun x => { x with partner := none })
    | none => (m.modLaunch b.launch (fun l => { l with ended := l.ended ++ [b.index l.record] })).opportunity

/-! ### A group is gone (R370 step 6, R432) -/

/-- The hub releases the answers it has held, once no kill of the block is still conveying (R432). -/
def Mach.releaseAnswers (m : Mach) (cl bid : Nat) : Mach :=
  match (m.cluster cl).blocks.get? bid with
  | none => m
  | some b =>
    if b.conveying then m
    else b.heldReleases.foldl (fun m r => m.sendResult r.core r.slot r.uid 0 r.writes r.clears true (some (hubPlace cl)))
      (m.modBlock cl bid (fun b => { b with heldReleases := [] }))

/-- The group leaves its core: its slot, its bank bytes and its image are free, which is a placement opportunity (R340). -/
def Mach.freeSeat (m : Mach) (core slot : Nat) (g : Group) : Mach :=
  (match m.seat core slot g.uid with
  | some s => (m.modCore core (fun c => { c.releaseLane s with groups := c.groups.erase s }.freeMailbox s)).growServe core
      (laneOf s) 16
  | none => m.modCore core (fun c => { c with saved := c.saved.erase g.uid })).opportunity

/-- The member of a block has ended for good. -/
def Block.memberDone (b : Block) (g : Nat) : Block :=
  { b with
    members := b.members.mapVals (fun i x => if i = g then { x with gone := true, ended := true } else x)
    ending := b.ending.filter (fun e => e.gindex != g) }

/-- The group ends for its block: the answers held, and the block itself when it was the last (R97, R432). -/
def Mach.memberEnd (m : Mach) (core : Nat) (g : Group) : Mach :=
  let cl := clusterOf core
  let m := (m.modBlock cl g.id.block (fun b => b.memberDone g.id.gindex)).releaseAnswers cl g.id.block
  match (m.cluster cl).blocks.get? g.id.block with
  | some b => if b.members.all (fun x => x.2.ended) then m.endBlock cl g.id.block else m
  | none => m

/-- What may be possible on a core and its cluster once a group is gone or parked goes on (R250, R314, R315). -/
def Mach.serveCore (m : Mach) (core : Nat) : Mach := (m.servePages (clusterOf core)).serveOps core

/-- A heirless lock or promise of the group is not settled yet: its settlement waits for its word (R78, R79, R436). -/
def Mach.settling (m : Mach) (core uid : Nat) : Bool :=
  m.jobs.any (fun j => j.steps.any (fun s => match s with
    | .orphan c u _ => c == core && u == uid
    | .broken c u _ => c == core && u == uid
    | _ => false))

/-- The conveyance of an ended group may begin: its release is performed, its turn in the block's order has come, its requests
have been answered and its copies are out of their channels (R131, R328, R438). Where settlements have had to wait, the end of the group
goes on once they are made (R370 step 6, R432). -/
def Mach.conveyable (m : Mach) (core : Nat) (g : Group) : Bool :=
  g.ending.any (fun e => e.released && !(e.conveyed && m.settling core g.uid)) &&
  (match m.block? core g with
    | some b => match b.ending with | e :: _ => e.gindex == g.id.gindex | [] => true
    | none => true) &&
  !m.msgs.any (fun x => x.serves core g.uid) && !m.fabricAtomics.any (fun x => x.uid == g.uid && x.core == core) &&
  !m.jobs.any (fun j => j.steps.any (fun s => match s with | .acquire c _ u _ _ _ => c == core && u == g.uid | _ => false)) &&
  !(m.core core).copiesOf g.uid

/-- Step 5 of an end: every holding is conveyed or its settlement begins (R131, R370). -/
def Mach.conveyHoldings (m : Mach) (core slot : Nat) (g : Group) : Mach :=
  if g.ending.any (fun e => e.conveyed) then m
  else ((m.breakGang core g.id.block g.id.gindex).conveyAll core g).modEnding core slot g.uid (fun e => { e with conveyed := true })

/-- Conveyance of one group (R131, R370 steps 5 and 6): step 6, and the answers held until then, wait for its settlements (R432). -/
def Mach.convey (m : Mach) (core slot : Nat) (g : Group) : Mach :=
  let m := m.conveyHoldings core slot g
  if m.settling core g.uid then m else ((m.freeSeat core slot g).memberEnd core g).serveCore core

end Sys2Proof.Machine
end

