-- ==== Sys2Proof/Decode.lean ====
section
/-! DEFINITION. The decoder of the Valheram VH3, total on any bytes, and the encoder written from the same layouts
(R182, R184, R186, R188, R189, R190). Every 32-bit word with bit 0 set and every other halfword is the encoding of
exactly one row of the opcode table, so the only way to fail is to run out of bytes; the fates of words that are not
usable instructions (R192) are WellFormed's. -/

namespace Sys2Proof

/-- Why no instruction could be read. -/
inductive DecodeError where
  /-- Fewer than two bytes, or a 32-bit word of which only the first halfword is there (R182). -/
  | truncated
  deriving DecidableEq, Repr

/-! ### Field layouts (R184, R186, R188, R189) -/

/-- The fields of formats A and K. -/
def WordA.ofBits (w : BitVec 32) : WordA :=
  { b := w.extractLsb' 26 6, a := w.extractLsb' 20 6, d := w.extractLsb' 14 6, g := w.extractLsb' 11 3,
    u := w.getLsbD 2, e := w.getLsbD 1 }

/-- The fields of format I. -/
def WordI.ofBits (w : BitVec 32) : WordI :=
  { imm := w.extractLsb' 20 12, d := w.extractLsb' 14 6, g := w.extractLsb' 11 3, u := w.getLsbD 2,
    e := w.getLsbD 1 }

/-- The fields of format J. -/
def WordJ.ofBits (w : BitVec 32) : WordJ :=
  { off := w.extractLsb' 14 18, g := w.extractLsb' 11 3, u := w.getLsbD 2, e := w.getLsbD 1 }

/-- The fields of format M. -/
def WordM.ofBits (w : BitVec 32) : WordM :=
  { s := w.extractLsb' 29 3, o := w.extractLsb' 23 6, l := w.extractLsb' 20 3, d := w.extractLsb' 14 6,
    g := w.extractLsb' 11 3, u := w.getLsbD 2, e := w.getLsbD 1 }

/-- The fields of format O. -/
def WordO.ofBits (w : BitVec 32) : WordO :=
  { b := w.extractLsb' 26 6, x := w.extractLsb' 24 2, sp := w.extractLsb' 20 4, p := w.extractLsb' 17 3,
    l := w.extractLsb' 14 3, g := w.extractLsb' 11 3, u := w.getLsbD 2, e := w.getLsbD 1 }

/-- The fields of format C. -/
def WordC.ofBits (w : BitVec 32) : WordC :=
  { b := w.extractLsb' 26 6, a := w.extractLsb' 20 6, cc := w.extractLsb' 17 3, p := w.extractLsb' 14 3,
    g := w.extractLsb' 11 3, u := w.getLsbD 2, e := w.getLsbD 1 }

/-- The fields of a compact form. -/
def WordH.ofBits (h : BitVec 16) : WordH :=
  { sb := h.extractLsb' 12 4, d := h.extractLsb' 7 5, e := h.getLsbD 2 }

/-- The fields of a dictionary form. -/
def WordD.ofBits (h : BitVec 16) : WordD :=
  { go := h.extractLsb' 13 3, idx := h.extractLsb' 3 10, e := h.getLsbD 2 }

/-- A field placed at bit k of a 32-bit word. -/
def placed {n : Nat} (k : Nat) (x : BitVec n) : BitVec 32 := x.setWidth 32 <<< k

/-- A field placed at bit k of a halfword. -/
def placedH {n : Nat} (k : Nat) (x : BitVec n) : BitVec 16 := x.setWidth 16 <<< k

/-- Bits 13:0 of a 32-bit word (R184): guard, opcode, U, B and the 1 of bit 0. -/
def commonBits (op : BitVec 8) (g : BitVec 3) (u e : Bool) : BitVec 32 :=
  placed 11 g ||| placed 3 op ||| placed 2 (BitVec.ofBool u) ||| placed 1 (BitVec.ofBool e) ||| 1#32

/-- The word of opcode op with these fields, format A or K. -/
def WordA.toBits (op : BitVec 8) (w : WordA) : BitVec 32 :=
  placed 26 w.b ||| placed 20 w.a ||| placed 14 w.d ||| commonBits op w.g w.u w.e

/-- The word of opcode op with these fields, format I. -/
def WordI.toBits (op : BitVec 8) (w : WordI) : BitVec 32 :=
  placed 20 w.imm ||| placed 14 w.d ||| commonBits op w.g w.u w.e

/-- The word of opcode op with these fields, format J. -/
def WordJ.toBits (op : BitVec 8) (w : WordJ) : BitVec 32 :=
  placed 14 w.off ||| commonBits op w.g w.u w.e

/-- The word of opcode op with these fields, format M. -/
def WordM.toBits (op : BitVec 8) (w : WordM) : BitVec 32 :=
  placed 29 w.s ||| placed 23 w.o ||| placed 20 w.l ||| placed 14 w.d ||| commonBits op w.g w.u w.e

/-- The word of opcode op with these fields, format O. -/
def WordO.toBits (op : BitVec 8) (w : WordO) : BitVec 32 :=
  placed 26 w.b ||| placed 24 w.x ||| placed 20 w.sp ||| placed 17 w.p ||| placed 14 w.l ||| commonBits op w.g w.u w.e

/-- The word of opcode op with these fields, format C. -/
def WordC.toBits (op : BitVec 8) (w : WordC) : BitVec 32 :=
  placed 26 w.b ||| placed 20 w.a ||| placed 17 w.cc ||| placed 14 w.p ||| commonBits op w.g w.u w.e

/-- The halfword of compact operation op with these fields. -/
def WordH.toBits (op : BitVec 4) (w : WordH) : BitVec 16 :=
  placedH 12 w.sb ||| placedH 7 w.d ||| placedH 3 op ||| placedH 2 (BitVec.ofBool w.e)

/-- The halfword of a dictionary form. -/
def WordD.toBits (w : WordD) : BitVec 16 :=
  placedH 13 w.go ||| placedH 3 w.idx ||| placedH 2 (BitVec.ofBool w.e) ||| 2#16

/-! ### The opcode map (R190), row by row -/

/-- Row 0 of R190: the instruction at position pos. -/
def decodeRow0 (pos : Nat) (w : BitVec 32) : Instr :=
  match pos with
  | 0 => .nop (.ofBits w)
  | 1 => .bra (.ofBits w)
  | 2 => .brany (.ofBits w)
  | 3 => .brx (.ofBits w)
  | 4 => .call (.ofBits w)
  | 5 => .ret (.ofBits w)
  | 6 => .pushm (.ofBits w)
  | 7 => .flipm (.ofBits w)
  | 8 => .popm (.ofBits w)
  | 9 => .breakm (.ofBits w)
  | 10 => .safept (.ofBits w)
  | 11 => .exit (.ofBits w)
  | 12 => .yield (.ofBits w)
  | 13 => .trap (.ofBits w)
  | 14 => .syscall (.ofBits w)
  | _ => .eret (.ofBits w)

/-- Row 1 of R190: the instruction at position pos. -/
def decodeRow1 (pos : Nat) (w : BitVec 32) : Instr :=
  match pos with
  | 0 => .iadd (.ofBits w)
  | 1 => .isub (.ofBits w)
  | 2 => .imul (.ofBits w)
  | 3 => .imulhs (.ofBits w)
  | 4 => .imulhn (.ofBits w)
  | 5 => .imad (.ofBits w)
  | 6 => .iabs (.ofBits w)
  | 7 => .ineg (.ofBits w)
  | 8 => .iminS (.ofBits w)
  | 9 => .iminN (.ofBits w)
  | 10 => .imaxS (.ofBits w)
  | 11 => .imaxN (.ofBits w)
  | 12 => .iaddminS (.ofBits w)
  | 13 => .iaddsatS (.ofBits w)
  | 14 => .isubsatS (.ofBits w)
  | _ => .iaddmaxS (.ofBits w)

/-- Row 2 of R190: the instruction at position pos. -/
def decodeRow2 (pos : Nat) (w : BitVec 32) : Instr :=
  match pos with
  | 0 => .iaddi (.ofBits w)
  | 1 => .imuli (.ofBits w)
  | 2 => .andi (.ofBits w)
  | 3 => .ori (.ofBits w)
  | 4 => .xori (.ofBits w)
  | 5 => .shli (.ofBits w)
  | 6 => .shrli (.ofBits w)
  | 7 => .shrai (.ofBits w)
  | 8 => .movi (.ofBits w)
  | 9 => .movhi (.ofBits w)
  | 10 => .ldk (.ofBits w)
  | 11 => .iadd64 (.ofBits w)
  | 12 => .isub64 (.ofBits w)
  | 13 => .imadw (.ofBits w)
  | 14 => .icmpiS (.ofBits w)
  | _ => .sel (.ofBits w)

/-- Row 3 of R190: the instruction at position pos. -/
def decodeRow3 (pos : Nat) (w : BitVec 32) : Instr :=
  match pos with
  | 0 => .and_ (.ofBits w)
  | 1 => .or_ (.ofBits w)
  | 2 => .xor (.ofBits w)
  | 3 => .andn (.ofBits w)
  | 4 => .not_ (.ofBits w)
  | 5 => .shl (.ofBits w)
  | 6 => .shrl (.ofBits w)
  | 7 => .shra (.ofBits w)
  | 8 => .rotl (.ofBits w)
  | 9 => .clz (.ofBits w)
  | 10 => .ctz (.ofBits w)
  | 11 => .popc (.ofBits w)
  | 12 => .brev (.ofBits w)
  | 13 => .bfx (.ofBits w)
  | 14 => .bfi (.ofBits w)
  | _ => .prmb (.ofBits w)

/-- Row 4 of R190: the instruction at position pos. -/
def decodeRow4 (pos : Nat) (w : BitVec 32) : Instr :=
  match pos with
  | 0 => .icmpS (.ofBits w)
  | 1 => .icmpN (.ofBits w)
  | 2 => .fcmp (.ofBits w)
  | 3 => .pset (.ofBits w)
  | 4 => .pand (.ofBits w)
  | 5 => .por (.ofBits w)
  | 6 => .pxor (.ofBits w)
  | 7 => .pmov (.ofBits w)
  | 8 => .voteAny (.ofBits w)
  | 9 => .voteAll (.ofBits w)
  | 10 => .ballot (.ofBits w)
  | 11 => .mov (.ofBits w)
  | 12 => .movk (.ofBits w)
  | 13 => .rdsr (.ofBits w)
  | 14 => .wrsr (.ofBits w)
  | _ => .wid (.ofBits w)

/-- Row 5 of R190: the instruction at position pos. -/
def decodeRow5 (pos : Nat) (w : BitVec 32) : Instr :=
  match pos with
  | 0 => .shflIdx (.ofBits w)
  | 1 => .shflUp (.ofBits w)
  | 2 => .shflDn (.ofBits w)
  | 3 => .shflXor (.ofBits w)
  | 4 => .bcast (.ofBits w)
  | 5 => .rdth (.ofBits w)
  | 6 => .wrth (.ofBits w)
  | 7 => .redaddS (.ofBits w)
  | 8 => .redminS (.ofBits w)
  | 9 => .redmaxS (.ofBits w)
  | 10 => .redaddF32 (.ofBits w)
  | 11 => .scanaddS (.ofBits w)
  | 12 => .scanaddF32 (.ofBits w)
  | 13 => .match_ (.ofBits w)
  | 14 => .elect (.ofBits w)
  | _ => .gsize (.ofBits w)

/-- Row 6 of R190: the instruction at position pos. -/
def decodeRow6 (pos : Nat) (w : BitVec 32) : Instr :=
  match pos with
  | 0 => .fadd (.ofBits w)
  | 1 => .fsub (.ofBits w)
  | 2 => .fmul (.ofBits w)
  | 3 => .ffma (.ofBits w)
  | 4 => .fmin (.ofBits w)
  | 5 => .fmax (.ofBits w)
  | 6 => .fneg (.ofBits w)
  | 7 => .fabs (.ofBits w)
  | 8 => .frcp (.ofBits w)
  | 9 => .frsq (.ofBits w)
  | 10 => .fsqrt (.ofBits w)
  | 11 => .fexp2 (.ofBits w)
  | 12 => .flog2 (.ofBits w)
  | 13 => .ftanh (.ofBits w)
  | 14 => .fsig (.ofBits w)
  | _ => .faddmin (.ofBits w)

/-- Row 7 of R190: the instruction at position pos. -/
def decodeRow7 (pos : Nat) (w : BitVec 32) : Instr :=
  match pos with
  | 0 => .haddBf (.ofBits w)
  | 1 => .hmulBf (.ofBits w)
  | 2 => .hfmaBf (.ofBits w)
  | 3 => .haddHf (.ofBits w)
  | 4 => .hmulHf (.ofBits w)
  | 5 => .hfmaHf (.ofBits w)
  | 6 => .hminBf (.ofBits w)
  | 7 => .hmaxBf (.ofBits w)
  | 8 => .hminHf (.ofBits w)
  | 9 => .hmaxHf (.ofBits w)
  | 10 => .hdotBf (.ofBits w)
  | 11 => .hdotHf (.ofBits w)
  | 12 => .mdot4 (.ofBits w)
  | 13 => .idot4S (.ofBits w)
  | 14 => .idot8S (.ofBits w)
  | _ => .frnd (.ofBits w)

/-- Row 8 of R190: the instruction at position pos. -/
def decodeRow8 (pos : Nat) (w : BitVec 32) : Instr :=
  match pos with
  | 0 => .cvtF32S32 (.ofBits w)
  | 1 => .cvtS32F32 (.ofBits w)
  | 2 => .cvtF32N32 (.ofBits w)
  | 3 => .cvtN32F32 (.ofBits w)
  | 4 => .cvtBfF32 (.ofBits w)
  | 5 => .cvtF32Bf (.ofBits w)
  | 6 => .cvtHfF32 (.ofBits w)
  | 7 => .cvtF32Hf (.ofBits w)
  | 8 => .cvtM8F32 (.ofBits w)
  | 9 => .cvtF32M8 (.ofBits w)
  | 10 => .cvtM4F32 (.ofBits w)
  | 11 => .cvtF32M4 (.ofBits w)
  | 12 => .cvtI8S32 (.ofBits w)
  | 13 => .cvtI4S32 (.ofBits w)
  | 14 => .setfmt (.ofBits w)
  | _ => .getfmt (.ofBits w)

/-- Row 9 of R190: the instruction at position pos. -/
def decodeRow9 (pos : Nat) (w : BitVec 32) : Instr :=
  match pos with
  | 0 => .open_ (.ofBits w)
  | 1 => .openW (.ofBits w)
  | 2 => .recall (.ofBits w)
  | 3 => .recallD (.ofBits w)
  | 4 => .ldB8s (.ofBits w)
  | 5 => .ldB8n (.ofBits w)
  | 6 => .ldH16s (.ofBits w)
  | 7 => .ldH16n (.ofBits w)
  | 8 => .ldW32 (.ofBits w)
  | 9 => .ldW64 (.ofBits w)
  | 10 => .ldW128 (.ofBits w)
  | 11 => .stB8 (.ofBits w)
  | 12 => .stH16 (.ofBits w)
  | 13 => .stW32 (.ofBits w)
  | 14 => .stW64 (.ofBits w)
  | _ => .stW128 (.ofBits w)

/-- Row A of R190: the instruction at position pos. -/
def decodeRowA (pos : Nat) (w : BitVec 32) : Instr :=
  match pos with
  | 0 => .spset (.ofBits w)
  | 1 => .spnarrow (.ofBits w)
  | 2 => .spadv (.ofBits w)
  | 3 => .spget (.ofBits w)
  | 4 => .spchk (.ofBits w)
  | 5 => .spsave (.ofBits w)
  | 6 => .spload (.ofBits w)
  | 7 => .flushl (.ofBits w)
  | 8 => .lstat (.ofBits w)
  | 9 => .tagset (.ofBits w)
  | 10 => .tagget (.ofBits w)
  | 11 => .pref (.ofBits w)
  | 12 => .grow (.ofBits w)
  | 13 => .shrink (.ofBits w)
  | 14 => .lend (.ofBits w)
  | _ => .reclaim (.ofBits w)

/-- Row B of R190: the instruction at position pos. -/
def decodeRowB (pos : Nat) (w : BitVec 32) : Instr :=
  match pos with
  | 0 => .aadd (.ofBits w)
  | 1 => .aadd64 (.ofBits w)
  | 2 => .afadd (.ofBits w)
  | 3 => .aminS (.ofBits w)
  | 4 => .amaxS (.ofBits w)
  | 5 => .aminN (.ofBits w)
  | 6 => .amaxN (.ofBits w)
  | 7 => .aand (.ofBits w)
  | 8 => .aor (.ofBits w)
  | 9 => .axor (.ofBits w)
  | 10 => .axchg (.ofBits w)
  | 11 => .acas (.ofBits w)
  | 12 => .acas64 (.ofBits w)
  | 13 => .put (.ofBits w)
  | 14 => .putv (.ofBits w)
  | _ => .cwait (.ofBits w)

/-- Row C of R190: the instruction at position pos. -/
def decodeRowC (pos : Nat) (w : BitVec 32) : Instr :=
  match pos with
  | 0 => .copy (.ofBits w)
  | 1 => .copyTr8 (.ofBits w)
  | 2 => .copyTr16 (.ofBits w)
  | 3 => .copyMc (.ofBits w)
  | 4 => .drain (.ofBits w)
  | 5 => .copyl (.ofBits w)
  | 6 => .seal (.ofBits w)
  | 7 => .waitb (.ofBits w)
  | 8 => .wptr (.ofBits w)
  | 9 => .ringPush (.ofBits w)
  | 10 => .ringPop (.ofBits w)
  | 11 => .ringTry (.ofBits w)
  | 12 => .ringAllow (.ofBits w)
  | 13 => .barArrive (.ofBits w)
  | 14 => .barWait (.ofBits w)
  | _ => .barExpect (.ofBits w)

/-- Row D of R190: the instruction at position pos. -/
def decodeRowD (pos : Nat) (w : BitVec 32) : Instr :=
  match pos with
  | 0 => .mma (.ofBits w)
  | 1 => .mmaSc (.ofBits w)
  | 2 => .mhad (.ofBits w)
  | 3 => .mqnt (.ofBits w)
  | 4 => .mwait (.ofBits w)
  | 5 => .mrel (.ofBits w)
  | 6 => .accrd (.ofBits w)
  | 7 => .accwr (.ofBits w)
  | 8 => .accz (.ofBits w)
  | 9 => .gang (.ofBits w)
  | 10 => .mprog (.ofBits w)
  | 11 => .accst (.ofBits w)
  | 12 => .fenceOpnd (.ofBits w)
  | 13 => .mstat (.ofBits w)
  | 14 => .accld (.ofBits w)
  | _ => .mcancel (.ofBits w)

/-- Row E of R190: the instruction at position pos. -/
def decodeRowE (pos : Nat) (w : BitVec 32) : Instr :=
  match pos with
  | 0 => .acq (.ofBits w)
  | 1 => .rel (.ofBits w)
  | 2 => .bind (.ofBits w)
  | 3 => .unbind (.ofBits w)
  | 4 => .fence (.ofBits w)
  | 5 => .promise (.ofBits w)
  | 6 => .heir (.ofBits w)
  | 7 => .hold (.ofBits w)
  | 8 => .relinq (.ofBits w)
  | 9 => .estat (.ofBits w)
  | 10 => .waitw (.ofBits w)
  | 11 => .wake (.ofBits w)
  | 12 => .enq (.ofBits w)
  | 13 => .deq (.ofBits w)
  | 14 => .tdone (.ofBits w)
  | _ => .depadd (.ofBits w)

/-- Row F of R190: the instruction at position pos. -/
noncomputable def decodeRowF (pos : Nat) (w : BitVec 32) : Instr :=
  match pos with
  | 0 => .mboxrd (.ofBits w)
  | 1 => .mboxwr (.ofBits w)
  | 2 => .rdg (.ofBits w)
  | 3 => .wrg (.ofBits w)
  | 4 => .gstop (.ofBits w)
  | 5 => .gresume (.ofBits w)
  | 6 => .gkill (.ofBits w)
  | 7 => .xlinv (.ofBits w)
  | 8 => .fqpop (.ofBits w)
  | 9 => .fqreplay (.ofBits w)
  | 10 => .cycles (.ofBits w)
  | 11 => .brk (.ofBits w)
  | 12 => .perfrd (.ofBits w)
  | 13 => .sigrd (.ofBits w)
  | 14 => .harvest (.ofBits w)
  | _ => .ctxsw (.ofBits w)

/-- The instruction of a 32-bit word: bits 10:7 are the row of R190 and bits 6:3 the position. -/
noncomputable def decodeWord (w : BitVec 32) : Instr :=
  let pos := (w.extractLsb' 3 4).toNat
  match (w.extractLsb' 7 4).toNat with
  | 0 => decodeRow0 pos w
  | 1 => decodeRow1 pos w
  | 2 => decodeRow2 pos w
  | 3 => decodeRow3 pos w
  | 4 => decodeRow4 pos w
  | 5 => decodeRow5 pos w
  | 6 => decodeRow6 pos w
  | 7 => decodeRow7 pos w
  | 8 => decodeRow8 pos w
  | 9 => decodeRow9 pos w
  | 10 => decodeRowA pos w
  | 11 => decodeRowB pos w
  | 12 => decodeRowC pos w
  | 13 => decodeRowD pos w
  | 14 => decodeRowE pos w
  | _ => decodeRowF pos w

/-- The compact operation of R188. -/
noncomputable def decodeCompact (h : BitVec 16) : Instr :=
  match (h.extractLsb' 3 4).toNat with
  | 0 => .movCompact (.ofBits h)
  | 1 => .iaddCompact (.ofBits h)
  | 2 => .isubCompact (.ofBits h)
  | 3 => .imulCompact (.ofBits h)
  | 4 => .andCompact (.ofBits h)
  | 5 => .orCompact (.ofBits h)
  | 6 => .xorCompact (.ofBits h)
  | 7 => .shlCompact (.ofBits h)
  | 8 => .shrlCompact (.ofBits h)
  | 9 => .shraCompact (.ofBits h)
  | 10 => .iminSCompact (.ofBits h)
  | 11 => .imaxSCompact (.ofBits h)
  | 12 => .faddCompact (.ofBits h)
  | 13 => .fsubCompact (.ofBits h)
  | 14 => .fmulCompact (.ofBits h)
  | _ => .fmaxCompact (.ofBits h)

/-- The little-endian halfword of two bytes (R6). -/
def halfOfBytes (b0 b1 : Byte) : BitVec 16 := b1 ++ b0

/-- The little-endian word of two halfwords (R182). -/
def wordOfHalves (lo hi : BitVec 16) : BitVec 32 := hi ++ lo

/-- The 16-bit form of a halfword whose bit 0 is 0: compact for bits 1:0 = 00, dictionary for 10 (R182). -/
noncomputable def decodeHalf (h : BitVec 16) : Instr :=
  if h.getLsbD 1 then .dictionaryForm (.ofBits h) else decodeCompact h

/-- The instruction at the front of a byte list, and its length in bytes (R182). -/
noncomputable def decode (bytes : List Byte) : Except DecodeError (Instr × Nat) :=
  match bytes with
  | b0 :: b1 :: rest =>
    if b0.getLsbD 0 then
      match rest with
      | b2 :: b3 :: _ => .ok (decodeWord (wordOfHalves (halfOfBytes b0 b1) (halfOfBytes b2 b3)), 4)
      | _ => .error .truncated
    else .ok (decodeHalf (halfOfBytes b0 b1), 2)
  | _ => .error .truncated

/-! ### The encoder -/

/-- The bits an instruction stands for: a 32-bit word, a 16-bit form, or none for an event. -/
inductive Encoding where
  | word (w : BitVec 32)
  | half (h : BitVec 16)
  | none
  deriving DecidableEq, Repr

/-- The encoding of every instruction, from the layouts of R184 to R189 and the opcode map of R190. -/
def encodeBits (i : Instr) : Encoding :=
  match i with
  | .nop w => .word (w.toBits 0x00#8)
  | .bra w => .word (w.toBits 0x01#8)
  | .brany w => .word (w.toBits 0x02#8)
  | .brx w => .word (w.toBits 0x03#8)
  | .call w => .word (w.toBits 0x04#8)
  | .ret w => .word (w.toBits 0x05#8)
  | .pushm w => .word (w.toBits 0x06#8)
  | .flipm w => .word (w.toBits 0x07#8)
  | .popm w => .word (w.toBits 0x08#8)
  | .breakm w => .word (w.toBits 0x09#8)
  | .safept w => .word (w.toBits 0x0A#8)
  | .exit w => .word (w.toBits 0x0B#8)
  | .yield w => .word (w.toBits 0x0C#8)
  | .trap w => .word (w.toBits 0x0D#8)
  | .syscall w => .word (w.toBits 0x0E#8)
  | .eret w => .word (w.toBits 0x0F#8)
  | .iadd w => .word (w.toBits 0x10#8)
  | .isub w => .word (w.toBits 0x11#8)
  | .imul w => .word (w.toBits 0x12#8)
  | .imulhs w => .word (w.toBits 0x13#8)
  | .imulhn w => .word (w.toBits 0x14#8)
  | .imad w => .word (w.toBits 0x15#8)
  | .iabs w => .word (w.toBits 0x16#8)
  | .ineg w => .word (w.toBits 0x17#8)
  | .iminS w => .word (w.toBits 0x18#8)
  | .iminN w => .word (w.toBits 0x19#8)
  | .imaxS w => .word (w.toBits 0x1A#8)
  | .imaxN w => .word (w.toBits 0x1B#8)
  | .iaddminS w => .word (w.toBits 0x1C#8)
  | .iaddsatS w => .word (w.toBits 0x1D#8)
  | .isubsatS w => .word (w.toBits 0x1E#8)
  | .iaddmaxS w => .word (w.toBits 0x1F#8)
  | .iaddi w => .word (w.toBits 0x20#8)
  | .imuli w => .word (w.toBits 0x21#8)
  | .andi w => .word (w.toBits 0x22#8)
  | .ori w => .word (w.toBits 0x23#8)
  | .xori w => .word (w.toBits 0x24#8)
  | .shli w => .word (w.toBits 0x25#8)
  | .shrli w => .word (w.toBits 0x26#8)
  | .shrai w => .word (w.toBits 0x27#8)
  | .movi w => .word (w.toBits 0x28#8)
  | .movhi w => .word (w.toBits 0x29#8)
  | .ldk w => .word (w.toBits 0x2A#8)
  | .iadd64 w => .word (w.toBits 0x2B#8)
  | .isub64 w => .word (w.toBits 0x2C#8)
  | .imadw w => .word (w.toBits 0x2D#8)
  | .icmpiS w => .word (w.toBits 0x2E#8)
  | .sel w => .word (w.toBits 0x2F#8)
  | .and_ w => .word (w.toBits 0x30#8)
  | .or_ w => .word (w.toBits 0x31#8)
  | .xor w => .word (w.toBits 0x32#8)
  | .andn w => .word (w.toBits 0x33#8)
  | .not_ w => .word (w.toBits 0x34#8)
  | .shl w => .word (w.toBits 0x35#8)
  | .shrl w => .word (w.toBits 0x36#8)
  | .shra w => .word (w.toBits 0x37#8)
  | .rotl w => .word (w.toBits 0x38#8)
  | .clz w => .word (w.toBits 0x39#8)
  | .ctz w => .word (w.toBits 0x3A#8)
  | .popc w => .word (w.toBits 0x3B#8)
  | .brev w => .word (w.toBits 0x3C#8)
  | .bfx w => .word (w.toBits 0x3D#8)
  | .bfi w => .word (w.toBits 0x3E#8)
  | .prmb w => .word (w.toBits 0x3F#8)
  | .icmpS w => .word (w.toBits 0x40#8)
  | .icmpN w => .word (w.toBits 0x41#8)
  | .fcmp w => .word (w.toBits 0x42#8)
  | .pset w => .word (w.toBits 0x43#8)
  | .pand w => .word (w.toBits 0x44#8)
  | .por w => .word (w.toBits 0x45#8)
  | .pxor w => .word (w.toBits 0x46#8)
  | .pmov w => .word (w.toBits 0x47#8)
  | .voteAny w => .word (w.toBits 0x48#8)
  | .voteAll w => .word (w.toBits 0x49#8)
  | .ballot w => .word (w.toBits 0x4A#8)
  | .mov w => .word (w.toBits 0x4B#8)
  | .movk w => .word (w.toBits 0x4C#8)
  | .rdsr w => .word (w.toBits 0x4D#8)
  | .wrsr w => .word (w.toBits 0x4E#8)
  | .wid w => .word (w.toBits 0x4F#8)
  | .shflIdx w => .word (w.toBits 0x50#8)
  | .shflUp w => .word (w.toBits 0x51#8)
  | .shflDn w => .word (w.toBits 0x52#8)
  | .shflXor w => .word (w.toBits 0x53#8)
  | .bcast w => .word (w.toBits 0x54#8)
  | .rdth w => .word (w.toBits 0x55#8)
  | .wrth w => .word (w.toBits 0x56#8)
  | .redaddS w => .word (w.toBits 0x57#8)
  | .redminS w => .word (w.toBits 0x58#8)
  | .redmaxS w => .word (w.toBits 0x59#8)
  | .redaddF32 w => .word (w.toBits 0x5A#8)
  | .scanaddS w => .word (w.toBits 0x5B#8)
  | .scanaddF32 w => .word (w.toBits 0x5C#8)
  | .match_ w => .word (w.toBits 0x5D#8)
  | .elect w => .word (w.toBits 0x5E#8)
  | .gsize w => .word (w.toBits 0x5F#8)
  | .fadd w => .word (w.toBits 0x60#8)
  | .fsub w => .word (w.toBits 0x61#8)
  | .fmul w => .word (w.toBits 0x62#8)
  | .ffma w => .word (w.toBits 0x63#8)
  | .fmin w => .word (w.toBits 0x64#8)
  | .fmax w => .word (w.toBits 0x65#8)
  | .fneg w => .word (w.toBits 0x66#8)
  | .fabs w => .word (w.toBits 0x67#8)
  | .frcp w => .word (w.toBits 0x68#8)
  | .frsq w => .word (w.toBits 0x69#8)
  | .fsqrt w => .word (w.toBits 0x6A#8)
  | .fexp2 w => .word (w.toBits 0x6B#8)
  | .flog2 w => .word (w.toBits 0x6C#8)
  | .ftanh w => .word (w.toBits 0x6D#8)
  | .fsig w => .word (w.toBits 0x6E#8)
  | .faddmin w => .word (w.toBits 0x6F#8)
  | .haddBf w => .word (w.toBits 0x70#8)
  | .hmulBf w => .word (w.toBits 0x71#8)
  | .hfmaBf w => .word (w.toBits 0x72#8)
  | .haddHf w => .word (w.toBits 0x73#8)
  | .hmulHf w => .word (w.toBits 0x74#8)
  | .hfmaHf w => .word (w.toBits 0x75#8)
  | .hminBf w => .word (w.toBits 0x76#8)
  | .hmaxBf w => .word (w.toBits 0x77#8)
  | .hminHf w => .word (w.toBits 0x78#8)
  | .hmaxHf w => .word (w.toBits 0x79#8)
  | .hdotBf w => .word (w.toBits 0x7A#8)
  | .hdotHf w => .word (w.toBits 0x7B#8)
  | .mdot4 w => .word (w.toBits 0x7C#8)
  | .idot4S w => .word (w.toBits 0x7D#8)
  | .idot8S w => .word (w.toBits 0x7E#8)
  | .frnd w => .word (w.toBits 0x7F#8)
  | .cvtF32S32 w => .word (w.toBits 0x80#8)
  | .cvtS32F32 w => .word (w.toBits 0x81#8)
  | .cvtF32N32 w => .word (w.toBits 0x82#8)
  | .cvtN32F32 w => .word (w.toBits 0x83#8)
  | .cvtBfF32 w => .word (w.toBits 0x84#8)
  | .cvtF32Bf w => .word (w.toBits 0x85#8)
  | .cvtHfF32 w => .word (w.toBits 0x86#8)
  | .cvtF32Hf w => .word (w.toBits 0x87#8)
  | .cvtM8F32 w => .word (w.toBits 0x88#8)
  | .cvtF32M8 w => .word (w.toBits 0x89#8)
  | .cvtM4F32 w => .word (w.toBits 0x8A#8)
  | .cvtF32M4 w => .word (w.toBits 0x8B#8)
  | .cvtI8S32 w => .word (w.toBits 0x8C#8)
  | .cvtI4S32 w => .word (w.toBits 0x8D#8)
  | .setfmt w => .word (w.toBits 0x8E#8)
  | .getfmt w => .word (w.toBits 0x8F#8)
  | .open_ w => .word (w.toBits 0x90#8)
  | .openW w => .word (w.toBits 0x91#8)
  | .recall w => .word (w.toBits 0x92#8)
  | .recallD w => .word (w.toBits 0x93#8)
  | .ldB8s w => .word (w.toBits 0x94#8)
  | .ldB8n w => .word (w.toBits 0x95#8)
  | .ldH16s w => .word (w.toBits 0x96#8)
  | .ldH16n w => .word (w.toBits 0x97#8)
  | .ldW32 w => .word (w.toBits 0x98#8)
  | .ldW64 w => .word (w.toBits 0x99#8)
  | .ldW128 w => .word (w.toBits 0x9A#8)
  | .stB8 w => .word (w.toBits 0x9B#8)
  | .stH16 w => .word (w.toBits 0x9C#8)
  | .stW32 w => .word (w.toBits 0x9D#8)
  | .stW64 w => .word (w.toBits 0x9E#8)
  | .stW128 w => .word (w.toBits 0x9F#8)
  | .spset w => .word (w.toBits 0xA0#8)
  | .spnarrow w => .word (w.toBits 0xA1#8)
  | .spadv w => .word (w.toBits 0xA2#8)
  | .spget w => .word (w.toBits 0xA3#8)
  | .spchk w => .word (w.toBits 0xA4#8)
  | .spsave w => .word (w.toBits 0xA5#8)
  | .spload w => .word (w.toBits 0xA6#8)
  | .flushl w => .word (w.toBits 0xA7#8)
  | .lstat w => .word (w.toBits 0xA8#8)
  | .tagset w => .word (w.toBits 0xA9#8)
  | .tagget w => .word (w.toBits 0xAA#8)
  | .pref w => .word (w.toBits 0xAB#8)
  | .grow w => .word (w.toBits 0xAC#8)
  | .shrink w => .word (w.toBits 0xAD#8)
  | .lend w => .word (w.toBits 0xAE#8)
  | .reclaim w => .word (w.toBits 0xAF#8)
  | .aadd w => .word (w.toBits 0xB0#8)
  | .aadd64 w => .word (w.toBits 0xB1#8)
  | .afadd w => .word (w.toBits 0xB2#8)
  | .aminS w => .word (w.toBits 0xB3#8)
  | .amaxS w => .word (w.toBits 0xB4#8)
  | .aminN w => .word (w.toBits 0xB5#8)
  | .amaxN w => .word (w.toBits 0xB6#8)
  | .aand w => .word (w.toBits 0xB7#8)
  | .aor w => .word (w.toBits 0xB8#8)
  | .axor w => .word (w.toBits 0xB9#8)
  | .axchg w => .word (w.toBits 0xBA#8)
  | .acas w => .word (w.toBits 0xBB#8)
  | .acas64 w => .word (w.toBits 0xBC#8)
  | .put w => .word (w.toBits 0xBD#8)
  | .putv w => .word (w.toBits 0xBE#8)
  | .cwait w => .word (w.toBits 0xBF#8)
  | .copy w => .word (w.toBits 0xC0#8)
  | .copyTr8 w => .word (w.toBits 0xC1#8)
  | .copyTr16 w => .word (w.toBits 0xC2#8)
  | .copyMc w => .word (w.toBits 0xC3#8)
  | .drain w => .word (w.toBits 0xC4#8)
  | .copyl w => .word (w.toBits 0xC5#8)
  | .seal w => .word (w.toBits 0xC6#8)
  | .waitb w => .word (w.toBits 0xC7#8)
  | .wptr w => .word (w.toBits 0xC8#8)
  | .ringPush w => .word (w.toBits 0xC9#8)
  | .ringPop w => .word (w.toBits 0xCA#8)
  | .ringTry w => .word (w.toBits 0xCB#8)
  | .ringAllow w => .word (w.toBits 0xCC#8)
  | .barArrive w => .word (w.toBits 0xCD#8)
  | .barWait w => .word (w.toBits 0xCE#8)
  | .barExpect w => .word (w.toBits 0xCF#8)
  | .mma w => .word (w.toBits 0xD0#8)
  | .mmaSc w => .word (w.toBits 0xD1#8)
  | .mhad w => .word (w.toBits 0xD2#8)
  | .mqnt w => .word (w.toBits 0xD3#8)
  | .mwait w => .word (w.toBits 0xD4#8)
  | .mrel w => .word (w.toBits 0xD5#8)
  | .accrd w => .word (w.toBits 0xD6#8)
  | .accwr w => .word (w.toBits 0xD7#8)
  | .accz w => .word (w.toBits 0xD8#8)
  | .gang w => .word (w.toBits 0xD9#8)
  | .mprog w => .word (w.toBits 0xDA#8)
  | .accst w => .word (w.toBits 0xDB#8)
  | .fenceOpnd w => .word (w.toBits 0xDC#8)
  | .mstat w => .word (w.toBits 0xDD#8)
  | .accld w => .word (w.toBits 0xDE#8)
  | .mcancel w => .word (w.toBits 0xDF#8)
  | .acq w => .word (w.toBits 0xE0#8)
  | .rel w => .word (w.toBits 0xE1#8)
  | .bind w => .word (w.toBits 0xE2#8)
  | .unbind w => .word (w.toBits 0xE3#8)
  | .fence w => .word (w.toBits 0xE4#8)
  | .promise w => .word (w.toBits 0xE5#8)
  | .heir w => .word (w.toBits 0xE6#8)
  | .hold w => .word (w.toBits 0xE7#8)
  | .relinq w => .word (w.toBits 0xE8#8)
  | .estat w => .word (w.toBits 0xE9#8)
  | .waitw w => .word (w.toBits 0xEA#8)
  | .wake w => .word (w.toBits 0xEB#8)
  | .enq w => .word (w.toBits 0xEC#8)
  | .deq w => .word (w.toBits 0xED#8)
  | .tdone w => .word (w.toBits 0xEE#8)
  | .depadd w => .word (w.toBits 0xEF#8)
  | .mboxrd w => .word (w.toBits 0xF0#8)
  | .mboxwr w => .word (w.toBits 0xF1#8)
  | .rdg w => .word (w.toBits 0xF2#8)
  | .wrg w => .word (w.toBits 0xF3#8)
  | .gstop w => .word (w.toBits 0xF4#8)
  | .gresume w => .word (w.toBits 0xF5#8)
  | .gkill w => .word (w.toBits 0xF6#8)
  | .xlinv w => .word (w.toBits 0xF7#8)
  | .fqpop w => .word (w.toBits 0xF8#8)
  | .fqreplay w => .word (w.toBits 0xF9#8)
  | .cycles w => .word (w.toBits 0xFA#8)
  | .brk w => .word (w.toBits 0xFB#8)
  | .perfrd w => .word (w.toBits 0xFC#8)
  | .sigrd w => .word (w.toBits 0xFD#8)
  | .harvest w => .word (w.toBits 0xFE#8)
  | .ctxsw w => .word (w.toBits 0xFF#8)
  | .movCompact w => .half (w.toBits 0#4)
  | .iaddCompact w => .half (w.toBits 1#4)
  | .isubCompact w => .half (w.toBits 2#4)
  | .imulCompact w => .half (w.toBits 3#4)
  | .andCompact w => .half (w.toBits 4#4)
  | .orCompact w => .half (w.toBits 5#4)
  | .xorCompact w => .half (w.toBits 6#4)
  | .shlCompact w => .half (w.toBits 7#4)
  | .shrlCompact w => .half (w.toBits 8#4)
  | .shraCompact w => .half (w.toBits 9#4)
  | .iminSCompact w => .half (w.toBits 10#4)
  | .imaxSCompact w => .half (w.toBits 11#4)
  | .faddCompact w => .half (w.toBits 12#4)
  | .fsubCompact w => .half (w.toBits 13#4)
  | .fmulCompact w => .half (w.toBits 14#4)
  | .fmaxCompact w => .half (w.toBits 15#4)
  | .dictionaryForm w => .half w.toBits
  | .resultWrite _ => .none
  | .runArbitration _ _ => .none
  | .fetchComplete _ => .none
  | .speculativeFetch _ _ _ _ => .none
  | .staleNotice _ => .none
  | .writeBack _ => .none
  | .writeBackAck _ => .none
  | .atomicRequest _ => .none
  | .putData _ => .none
  | .counterAdd _ => .none
  | .objectStep _ => .none
  | .ringOpAtHub _ => .none
  | .barrierOpAtHub _ => .none
  | .taskOpAtHub _ => .none
  | .waiterArrival _ => .none
  | .entryStart _ _ => .none
  | .copyDelivery _ _ => .none
  | .copyDone _ _ => .none
  | .kBlock _ => .none
  | .operationDone _ => .none
  | .placement => .none
  | .parkComplete _ _ => .none
  | .unparkComplete _ _ => .none
  | .contextSaveComplete _ => .none
  | .implicitRelease _ _ => .none
  | .conveyance _ _ => .none
  | .launchComplete _ => .none
  | .intervalStart _ _ => .none
  | .cwaitPoll _ _ => .none
  | .duplexTimeout _ _ => .none
  | .retransmit _ => .none
  | .telemetryRefresh _ _ _ => .none
  | .create _ => .none
  | .suspend _ => .none
  | .resume _ => .none
  | .teardown _ => .none
  | .remap _ _ _ => .none
  | .setp _ _ => .none
  | .gate _ _ => .none
  | .light _ => .none
  | .dark _ => .none
  | .planeDark _ => .none
  | .refresh _ _ => .none
  | .tripset _ => .none
  | .tripResume => .none
  | .thermalTrip _ _ => .none
  | .detach => .none
  | .commit => .none
  | .linkFailure => .none
  | .linkUp => .none
  | .inspectionReset => .none
  | .coreReset _ => .none
  | .powerOn _ => .none
  | .firmwareUpdate _ => .none
  | .attestation _ => .none
  | .inFieldTest _ _ => .none
  | .testAbort _ => .none
  | .testReport _ _ => .none
  | .migrate _ _ => .none
  | .migrateDone => .none
  | .migrateBusy => .none
  | .hostXlinv _ _ _ => .none
  | .hostWake _ _ => .none
  | .hostRegistration _ _ _ _ => .none
  | .bindingEnable _ _ _ _ _ => .none
  | .inject _ => .none
  | .hostRead _ _ _ => .none
  | .hostWrite _ _ _ => .none
  | .geloloPortFailure _ => .none
  | .peerRequest _ _ _ _ _ => .none
  | .peerAtomic _ _ _ _ _ _ _ _ => .none
  | .acknowledgement _ _ _ => .none
  | .newEpoch _ => .none
  | .reductionResult _ _ => .none
  | .mmioWrite _ _ _ => .none
  | .hostFunctionClear => .none
  | .faultQueueHeadWrite _ _ => .none
  | .geloloPortTrain _ => .none
  | .reductionWindowStateWrite _ => .none

/-- Byte i of a bit vector, in little-endian order (R6). -/
def byteAt {n : Nat} (w : BitVec n) (i : Nat) : Byte := w.extractLsb' (8 * i) 8

/-- The bytes of an instruction in memory (R6, R182); an event has none. -/
def encode (i : Instr) : List Byte :=
  match encodeBits i with
  | .word w => [byteAt w 0, byteAt w 1, byteAt w 2, byteAt w 3]
  | .half h => [byteAt h 0, byteAt h 1]
  | .none => []

/-- The bytes of an instruction whose bits are the low nbits of w, bits above them zero, as memory holds them. -/
def tableBytes (nbits w : Nat) : List Byte :=
  let v : BitVec 32 := BitVec.ofNat 32 (w % 2 ^ nbits)
  [byteAt v 0, byteAt v 1, byteAt v 2, byteAt v 3]

/-- What the decoder reads from an instruction whose bits, numbered as the opcode table numbers them, are w. -/
noncomputable def decodeTableWord (nbits w : Nat) : Option Instr :=
  match decode (tableBytes nbits w) with
  | .ok (i, _) => some i
  | .error _ => none

end Sys2Proof
end

