-- ==== Sys2Proof/Machine/Fetch.lean ====
section
/-! DEFINITION. Fetching an instruction's bytes (R182, R183), and reading the fields of the words of a run ahead of its
issue (R27). -/

namespace Sys2Proof.Machine

/-- What a fetch gives: the bytes of the form at the program counter, or why there are none. -/
inductive Fetched where
  | bytes (bs : List Byte)
  | access (va : Va)
  | kill (va : Va)
  | xlat (va : Va) (level : Nat)
  | retry
  deriving DecidableEq, Repr

/-- The slot of a group that is resident on a core. -/
def Core.slotOfGroup (c : Core) (uid : Nat) : Option Nat := (c.groups.find? (fun e => e.2.uid == uid)).map (·.1)

/-- One halfword of an instruction (R183). Fetch names no span, so the line's own tag is used. -/
def Mach.fetchHalf (m : Mach) (core : Nat) (g : Group) (va : Va) : Mach × Fetched :=
  match m.translate core g va with
  | (m, .ok l leaf) =>
    if !leaf.x then (m, .access va)
    else if m.anyClass l 2 none SecClass.bad then (m, .kill va)
    else (m.noteRead l 2 none g.id.ctx core ((m.core core).slotOfGroup g.uid) 3 va.toNat, .bytes (m.bytesAt l 2))
  | (m, .fault level) => (m, .xlat va level)
  | (m, .access) => (m, .access va)
  | (m, .migrating) => (m, .retry)

/-- The form at an address: two bytes, or four when bit 0 of the first halfword is set (R182). -/
def Mach.fetchAt (m : Mach) (core : Nat) (g : Group) (va : Va) : Mach × Fetched :=
  match m.fetchHalf core g va with
  | (m, .bytes [b0, b1]) =>
    if b0.getLsbD 0 then
      match m.fetchHalf core g (va + 2) with
      | (m, .bytes [b2, b3]) => (m, .bytes [b0, b1, b2, b3])
      | r => r
    else (m, .bytes [b0, b1])
  | r => r

/-! ### Fields of raw words -/

/-- The formats of R186; K has A's layout. -/
inductive Format where
  | A | I | J | M | O | C
  deriving DecidableEq, Repr

/-- The format of an opcode (R190). -/
def formatOf (op : Nat) : Format :=
  let pos := op % 16
  match op / 16 with
  | 0 => if [1, 2, 4, 10].contains pos then .J else if pos == 6 || pos == 9 then .C
         else if pos == 13 || pos == 14 then .I else .A
  | 2 => if pos < 11 then .I else if pos == 14 then .C else .A
  | 4 => if pos < 10 then .C else if pos < 13 then .A else .I
  | 5 => if pos == 14 then .C else .A
  | 8 => if pos == 14 then .I else .A
  | 9 => if pos < 4 then .O else .M
  | 10 => if pos == 5 || pos == 6 || pos == 8 then .M else if pos == 7 || pos == 11 then .O
          else if pos == 12 || pos == 13 then .I else .A
  | 11 => if pos < 13 then .M else .A
  | 12 => if pos < 7 then .A else .I
  | 13 => if pos == 4 then .I else .A
  | 14 => if pos == 4 then .I else .A
  | 15 => if pos == 11 then .I else .A
  | _ => .A

/-- The opcode of a 32-bit word (R184). -/
def opOf (w : BitVec 32) : Nat := (w.extractLsb' 3 8).toNat

/-- The fields of a 32-bit word (R184, R186, R190). -/
def fieldsOfWord (w : BitVec 32) : Fields :=
  let op := opOf w
  match formatOf op with
  | .A => fieldsA op (.ofBits w)
  | .I => fieldsI op (.ofBits w)
  | .J => fieldsJ op (.ofBits w)
  | .M => fieldsM op (.ofBits w)
  | .O => fieldsO op (.ofBits w)
  | .C => fieldsC op (.ofBits w)

/-- The opcodes of the compact operations after MOV (R188). -/
def compactOp (op : Nat) : Nat :=
  match op with
  | 1 => 0x10 | 2 => 0x11 | 3 => 0x12 | 4 => 0x30 | 5 => 0x31 | 6 => 0x32 | 7 => 0x35 | 8 => 0x36 | 9 => 0x37
  | 10 => 0x18 | 11 => 0x1A | 12 => 0x60 | 13 => 0x61 | 14 => 0x62 | _ => 0x65

/-- The fields of a compact form (R188). -/
def fieldsOfCompact (h : BitVec 16) : Fields :=
  let op := (h.extractLsb' 3 4).toNat
  if op = 0 then fieldsHMov (.ofBits h) else fieldsH (compactOp op) (.ofBits h)

/-- The dictionary slot that a group's launch has loaded on a core (R104). -/
def Core.dictSlotOf (c : Core) (id : Ident) : Option (Nat × Dict) := c.dicts.find? (fun e => e.2.kid == id.kid && e.2.launches.contains id.launch)

def Core.dict (c : Core) (id : Ident) : Option Dict := (c.dictSlotOf id).map (·.2)

/-- The word a dictionary form stands for: its own B, and its guard override unless 0 (R142, R189). None when IDX is at or
beyond DSIZE. -/
def dictWord (c : Core) (id : Ident) (w : WordD) : Option (BitVec 32) :=
  if id.dsize ≤ w.idx.toNat then none
  else match c.dict id with
    | none => none
    | some d => match d.words[w.idx.toNat]? with
      | none => none
      | some x =>
        let x := (x &&& ~~~2#32) ||| (if w.e then 2#32 else 0)
        some (if w.go = 0 then x else (x &&& ~~~(7#32 <<< 11)) ||| (w.go.setWidth 32 <<< 11))

/-- The fields of the form whose bytes these are, and its length; none for a dictionary form that names no word. -/
def fieldsOfBytes (c : Core) (id : Ident) : List Byte → Option (Fields × Nat)
  | b0 :: b1 :: rest =>
    if b0.getLsbD 0 then
      match rest with
      | b2 :: b3 :: _ => some (fieldsOfWord (b3 ++ b2 ++ b1 ++ b0), 4)
      | _ => none
    else if b0.getLsbD 1 then (dictWord c id (.ofBits (b1 ++ b0))).map (fun w => (fieldsOfWord w, 2))
    else some (fieldsOfCompact (b1 ++ b0), 2)
  | _ => none

/-- The words of a group's next run, up to its boundary (R27), read ahead without effect; they end early where a word
cannot be read. -/
def Mach.runWords (m : Mach) (core : Nat) (g : Group) : Nat → Va → List Fields
  | 0, _ => []
  | n + 1, pc =>
    match m.fetchAt core g pc with
    | (_, .bytes bs) =>
      match fieldsOfBytes (m.core core) g.id bs with
      | none => []
      | some (f, len) => if f.e then [f] else f :: m.runWords core g n (pc + BitVec.ofNat 56 len)
    | _ => []

end Sys2Proof.Machine
end

