-- ==== Sys2Proof/Machine/Schedule.lean ====
section
/-! DEFINITION. Run arbitration (R27, R349 to R352): which groups may compete, and which one wins a run boundary. -/

namespace Sys2Proof.Machine

/-- A mesh run contains an open, a copy or a put (R351). -/
def meshOp (op : Nat) : Bool := [0x90, 0x91, 0xC0, 0xC1, 0xC2, 0xC3, 0xC5, 0xBD, 0xBE].contains op

/-- The words of a group's next run, up to its boundary: at most one past the length of a run, since a 25th word with B = 1 is
legal (R23, R27). -/
def Mach.nextRun (m : Mach) (core : Nat) (g : Group) : List Fields := m.runWords core g (Config.runLength + 1) g.pc

/-- A group may compete (R27): READY, not waiting, and nothing its run touches is pending (R29, R268). -/
def Mach.eligible (m : Mach) (core : Nat) (g : Group) : Bool :=
  g.state == .ready && !g.atSafe && g.wait.isNone && (m.nextRun core g).all (fun f => !stalls g f)

/-- A core's mesh pressure has reached its threshold (R351). -/
def Core.pressed (c : Core) : Bool :=
  let pthr := (c.sched.toNat >>> 8) % 256
  pthr != 0 && pthr ≤ c.meshp.toNat

/-- Admission of R352 in a capped interval. -/
def Mach.admitted (m : Mach) (core : Nat) (g : Group) : Bool :=
  let c := m.core core
  let mesh := (m.nextRun core g).any (fun f => meshOp f.op)
  !c.capped || !mesh || g.id.sup || (!g.id.harvest && g.critical) || g.arb.mset ||
  (c.everyone.filter (fun g => g.arb.mset)).length < (c.sched.toNat >>> 16) % 256

/-- Age of a group's last run against the cycle counter, modulo 2^32; half the range or more is the oldest (R348). -/
def runAge (cycle : Nat) (g : Group) : Nat :=
  let d := (BitVec.ofNat 32 cycle - g.arb.lastRun).toNat
  min d 0x80000000

/-- The oldest of the listed groups, ties to the lower slot. -/
def oldest (cycle : Nat) : List (Nat × Group) → Option Nat
  | [] => none
  | e :: es =>
    some (es.foldl (fun b x => if runAge cycle b.2 < runAge cycle x.2 then x else b) e).1

/-- The groups of a lane that take part, by rising slot. -/
def Mach.contenders (m : Mach) (core lane : Nat) : List (Nat × Group) :=
  (m.core core).groups.filter (fun e => laneOf e.1 == lane && m.eligible core e.2 && m.admitted core e.2)

/-- The winner of a run boundary (R349). -/
def Mach.winner (m : Mach) (core lane : Nat) : Option Nat :=
  let cs := m.contenders core lane
  let cyc := (m.core core).cycle
  let owners := cs.filter (fun e => !e.2.id.harvest && !e.2.id.sup)
  let crit := owners.filter (fun e => e.2.critical)
  let fresh := owners.filter (fun e => !e.2.arb.ymark)
  if cs.any (fun e => e.2.id.sup) then some Config.supSlot
  else if crit != [] then oldest cyc crit
  else if fresh != [] then oldest cyc fresh
  else if owners != [] then oldest cyc owners
  else oldest cyc (cs.filter (fun e => e.2.id.harvest))

/-- The winner's run begins: LASTRUN, the lane's YMARKs, the mesh set, the critical allowance (R157, R348, R349, R352). -/
def Mach.startRun (m : Mach) (core lane slot : Nat) : Mach :=
  match m.group? core slot with
  | none => m
  | some g =>
    let c := m.core core
    let mesh := (m.nextRun core g).any (fun f => meshOp f.op)
    let counted := c.capped && mesh && !g.id.sup && !(!g.id.harvest && g.critical)
    let m := m.modCore core (fun c =>
      let c := c.modLane lane (fun l => { l with
        issuing := some slot, ownerEligible := l.ownerEligible || (!g.id.harvest && !g.id.sup) })
      let c := { c with ownerRan := c.ownerRan || (!g.id.harvest && !g.id.sup) }
      let c := c.count 1 1 g.id
      { c with groups := c.groups.mapVals (fun s g =>
          if laneOf s = lane then { g with arb := { g.arb with ymark := false } } else g) })
    m.modGroup core slot (fun g => { g with
      state := .issuing
      callow := if g.critical then g.callow - 1 else g.callow
      testRuns := if g.preempt.isSome then g.testRuns + 1 else g.testRuns
      arb := { g.arb with lastRun := BitVec.ofNat 32 c.cycle, mset := g.arb.mset || counted } })

/-- The winner of a run boundary begins its run, once its first word can be fetched: until then it waits for that fetch, and other
groups may win (R27, R78, R183, log 13). -/
def Mach.beginRun (m : Mach) (core lane slot : Nat) : Mach :=
  match m.group? core slot with
  | none => m
  | some g => match m.fetchAt core g g.pc with
    | (m', .xlat va level) => m'.waitXlat core slot va 3 level
    | _ => m.startRun core lane slot

/-- A run boundary of a lane, in the cycle after the previous run's last: the winner's run begins, or the lane is idle for a
cycle (R349). A lane on which a group issues has no boundary. -/
def Mach.arbitrate (m : Mach) (core lane : Nat) : Mach :=
  if ((m.core core).lane lane).issuing.isSome then m
  else
    let m := m.modCore core (fun c => c.advance (c.lane lane).busyUntil)
    match m.winner core lane with
    | some slot => m.beginRun core lane slot
    | none => m.modCore core (fun c => c.advance (c.cycle + 1))

end Sys2Proof.Machine
end

