-- ==== Sys2Proof/Machine/Deliver.lean ====
section
/-! DEFINITION. The events that perform one message at its destination: results, fetches, write-backs, atomics, puts and the
steps at homes, hubs and the wait-and-wake table; and when a message may arrive (R318, R326, R377, R384). -/

namespace Sys2Proof.Machine

/-! ### When a message may arrive -/

/-- The counter word that a put adds to. -/
def MsgBody.counterLoc : MsgBody → Option Loc
  | .put _ _ _ _ _ (some c) _ => some c.1
  | .counter loc _ _ _ => some loc
  | _ => none

/-- The bytes that a request reads or writes at its place. A put's data has no order to another put's counter word (R255). -/
def MsgBody.range : MsgBody → Option (Loc × Nat)
  | .fetch _ _ _ line _ => some (line, 128)
  | .writeBack line _ _ _ _ _ _ => some (line, 128)
  | .atomic _ loc _ n _ _ _ _ _ => some (loc, n)
  | .tagset loc _ => some (loc, 128)
  | .object _ loc _ _ _ => some (loc, 8)
  | .waiter _ loc _ _ _ _ => some (loc, 4)
  | _ => none

/-- A byte range holds some byte of a word. -/
def meetsWord (r : Loc × Nat) (word : Loc) : Bool :=
  r.1.line == word.line && r.1.off < word.off + 4 && word.off < r.1.off + r.2

/-- An earlier put of the group has still to add to a counter word that the message reads or writes (R318). -/
def Mach.counterFirst (m : Mach) (x : Msg) : Bool :=
  match x.body.range with
  | none => false
  | some r => m.msgs.any (fun y => y.precedes x && y.body.counterLoc.any (meetsWord r))

/-- What a register write changes. -/
def RegWrite.item : RegWrite → Nat
  | .v r _ _ => r
  | .vtag r _ => r
  | .k r _ => r
  | .pred p _ _ => 64 + p
  | .lsts _ => 96
  | .tokClear j => 100 + j

/-- The registers and bits that a result changes. -/
def MsgBody.items : MsgBody → List Nat
  | .result ws _ _ => ws.map RegWrite.item
  | _ => []

/-- Another result of the same group changes something that this one changes, and is due before it (R26). -/
def Msg.resultFirst (y x : Msg) : Bool :=
  y.uid == x.uid && y.core == x.core && y.due < x.due && y.body.items.any (fun i => x.body.items.contains i)

/-- A put of the same pair of groups writes the data behind which this add to a copy's own counter comes (R149, R330). -/
def Msg.dataFirst (y x : Msg) : Bool :=
  match x.body, y.body with
  | .put line _ 0 _ _ (some _) _, .put line' _ _ _ _ _ _ => y.id != x.id && y.serves x.core x.uid && line == line'
  | _, _ => false

/-- No store gate holds the message, and no earlier one of the same source to the same place, or to a byte of it, is in flight (R318,
R384). Answers to one core (places 9000 up) have no order among themselves, but the results of a group for one register come in the order
in which they are due (R26). -/
def Mach.inOrder (m : Mach) (x : Msg) : Bool :=
  !x.held && (if 9000 ≤ x.place then m.msgs.all (fun y => !y.resultFirst x)
    else m.msgs.all (fun y => !(y.place == x.place && y.precedes x) && !y.dataFirst x) && !m.counterFirst x)

def Loc.isHost : Loc → Bool
  | .host _ => true
  | _ => false

/-- A write of the message waits because the reserve is full (R106). -/
def Mach.reserveWaits (m : Mach) (x : Msg) : Bool :=
  match x.body with
  | .writeBack line _ _ _ _ _ _ => m.noRoom (m.ctxOf x) line
  | .put loc _ _ _ _ _ _ => m.noRoom (m.ctxOf x) loc
  | _ => false

/-- The message needs host memory, whose link is down (R377). -/
def Mach.linkWaits (m : Mach) (x : Msg) : Bool :=
  m.linkDown && match x.body with
    | .fetch _ _ _ line _ => line.isHost
    | .atomic _ loc _ _ _ _ _ _ _ => loc.isHost
    | .counter loc _ _ _ => loc.isHost
    | .object _ loc _ _ _ => loc.isHost
    | .waiter _ loc _ _ _ _ => loc.isHost
    | _ => false

/-- A scratchpad effect of the group, issued before the message, that is not performed yet (R326). -/
def Mach.spadPending (m : Mach) (x : Msg) : Bool :=
  m.msgs.any (fun y => y.precedes x && match y.body with
    | .put loc _ _ _ _ _ _ => loc.isSpad
    | .atomic _ loc _ _ _ _ _ _ _ => loc.isSpad
    | .counter loc _ _ _ => loc.isSpad
    | _ => false)

/-- An accumulator access of the group, issued before the message, has not returned its data (R429); ACCWR and ACCST write at issue. -/
def Mach.accPending (m : Mach) (x : Msg) : Bool := m.msgs.any (fun y => y.precedes x && y.src == some (accPlace x.core))

/-- The add of an earlier put of the group to the same counter word is performed first (R149, R255). -/
def Mach.putPending (m : Mach) (x : Msg) : Bool :=
  match x.body.counterLoc with
  | none => false
  | some l => m.msgs.any (fun y => y.precedes x && y.body.counterLoc == some l)

/-- A message may arrive. -/
def Mach.ready (m : Mach) (x : Msg) : Bool :=
  m.inOrder x && !m.linkWaits x && !m.reserveWaits x && match x.body with
    | .ring op _ _ _ _ _ => !((op == .push || op == .allow) && m.spadPending x) && !(op == .allow && m.accPending x)
    | .barrier arrive wait _ _ _ => !((arrive || wait) && (m.spadPending x || m.accPending x))
    | .counter _ _ _ _ => !m.putPending x
    | _ => true

/-- In the viral state no write leaves the package (R378). -/
def MsgBody.leaves : MsgBody → Bool
  | .writeBack line _ _ _ _ _ _ => (match line with | .host _ => true | .peer _ _ => true | .rwin _ => true | _ => false)
  | .put loc _ _ _ _ _ _ => (match loc with | .host _ => true | .peer _ _ => true | .rwin _ => true | _ => false)
  | .counter loc _ _ _ => (match loc with | .host _ => true | .peer _ _ => true | .rwin _ => true | _ => false)
  | .atomic _ loc _ _ _ _ _ _ _ => (match loc with | .host _ => true | _ => false)
  | .object _ loc _ _ _ => (match loc with | .host _ => true | .peer _ _ => true | _ => false)
  | .fabric _ _ _ => true
  | _ => false

/-! ### What arrives -/

/-- An owner group becomes eligible on a lane where a harvest group issues: that group is revoked (R357); the lane has had an
eligible owner group in this interval (R360). -/
def Mach.ownerDemand (m : Mach) (core lane : Nat) : Mach :=
  if (m.core core).groups.any (fun e => laneOf e.1 == lane && e.1 < Config.harvestBase && m.eligible core e.2) then
    let m := m.modCore core (fun c => c.modLane lane (fun l => { l with ownerEligible := true }))
    match ((m.core core).lane lane).issuing with
    | some s => if Config.harvestBase ≤ s && s < Config.supSlot then m.revoke core s else m
    | none => m
  else m

/-- A result is written and its scoreboard bits clear (R26, R267). A group that stood at a safe point for it is pre-empted
now (R43). -/
def Mach.resultArrive (m : Mach) (x : Msg) (writes : List RegWrite) (clears : BitVec 96) (wake : Bool) : Mach :=
  let m := m.modUid x.core x.slot x.uid (fun g => { applyWrites g writes with
    sb := g.sb &&& ~~~clears, acqHold := g.acqHold &&& ~~~clears, wait := if wake then none else g.wait })
  match m.seat x.core x.slot x.uid with
  | some s => (m.tryPreempt x.core s).ownerDemand x.core (laneOf s)
  | none => m

/-- The block of the group that sent a message. -/
def Mach.blockOf (m : Mach) (x : Msg) : Nat :=
  match m.findGroup x.core x.slot x.uid with | some g => g.id.block | none => 0

/-- Message n reaches its destination: none when it goes on waiting there. `me` is the device's own number. -/
def Mach.perform (m : Mach) (me n : Nat) (x : Msg) : Option Mach :=
  let t := m.takeMsg n
  let known := m.knows x.core x.slot x.uid x.id
  match x.body with
  | .result ws cs wake => some (t.resultArrive x ws cs wake)
  | .fetch l way f line tag => some (t.fetchArrive x.core x.slot x.uid l way f line tag)
  | .openWait o => t.openArrive x.core x.slot x.uid o
  | .stale line => some (t.modCore x.core (fun c => c.staleLine line))
  | .writeBack line va mask poison data tag reply =>
    some (t.writeBackArrive x.core x.slot x.uid x.twin line va mask poison data tag reply)
  | .wbAck l close => some (t.ackArrive x.core x.slot x.uid l close)
  | .groupEnd g killed credits => some (t.hubGroupEnd x.core x.uid (m.blockOf x) g killed credits)
  | .atomic op loc va k a b tag d i => some (t.atomicArrive x.core x.slot x.uid x.twin op loc va k a b tag d i)
  | .fabric dev rid reply => some (t.fabricArrive me dev rid reply x.twin)
  | .put loc va mask data tag ctr delta => some (m.putArrive n x loc va mask data tag ctr delta)
  | .counter loc va tag delta => some (t.counterArrive x.core x.slot x.uid loc va tag delta known)
  | .tagset loc tag => some (t.tagsetArrive x.core x.slot x.uid loc tag)
  | .tagget loc d i => some (t.taggetArrive x.core x.slot x.uid loc d i)
  | .object step loc va tag waiting => m.objectArrive n x step loc va tag waiting
  | .ring op j v d ks ps => some (t.ringArrive x.core x.slot x.uid (m.blockOf x) op j v d ks ps known)
  | .barrier a b j k ks => some (t.barOp x.core x.slot x.uid (m.blockOf x) a b j k ks known)
  | .task op ks _ => m.taskArrive n x op ks
  | .waiter va loc tag e ks cwait =>
    some (if cwait then t.cwaitArrive x.core x.slot x.uid va loc tag else t.waitwArrive x.core x.slot x.uid va loc tag e ks)
  | .wake va ks => some (t.wakeArrive x va ks)
  | .poison va => some (t.consumeUid x.core x.slot x.uid va)

/-- A core's clock has reached the cycle in which a message may arrive. -/
def Mach.reachDue (m : Mach) (x : Msg) : Mach := m.modCore x.core (fun c => c.advance x.due)

/-- Message n of one of these kinds is performed, if it is there and may arrive. -/
def deliver (kind : MsgBody → Bool) (n : Nat) (s : State) : Host.Outcome State Fault Refusal :=
  match s.mach.msgs[n]? with
  | none => .next s
  | some x =>
    if !kind x.body then .next s
    else if s.mach.reserveWaits x && s.mach.inOrder x then .next { s with mach := s.mach.reserveStall (s.mach.ctxOf x) x.core (some x.slot) }
    else if !s.mach.ready x || !s.dev.reaches x || (s.mach.viral && x.body.leaves) then .next s
    else match ((s.mach.reachDue x).countFlits s.dev x).perform s.dev.number n x with
      | some m => .next { s with mach := m }
      | none => .next s

/-! ### The event rows -/

/-- RESULT_WRITE (R26), and the answer of an uncorrectable datum (R369). -/
def execResultWrite (n : Nat) (s : State) : Host.Outcome State Fault Refusal :=
  deliver (fun | .result _ _ _ => true | .poison _ => true | _ => false) n s

/-- FETCH_COMPLETE (R233): a line fetch, or an open that waited. -/
def execFetchComplete (n : Nat) (s : State) : Host.Outcome State Fault Refusal :=
  deliver (fun | .fetch _ _ _ _ _ => true | .openWait _ => true | _ => false) n s

/-- STALE_NOTICE (R87). -/
def execStaleNotice (n : Nat) (s : State) : Host.Outcome State Fault Refusal :=
  deliver (fun | .stale _ => true | _ => false) n s

/-- WRITE_BACK (R435); a TAGSET performed at its line's home is such a write too (R246). -/
def execWriteBack (n : Nat) (s : State) : Host.Outcome State Fault Refusal :=
  deliver (fun | .writeBack _ _ _ _ _ _ _ => true | .tagset _ _ => true | _ => false) n s

/-- WRITE_BACK_ACK (R235). -/
def execWriteBackAck (n : Nat) (s : State) : Host.Outcome State Fault Refusal :=
  deliver (fun | .wbAck _ _ => true | _ => false) n s

/-- ATOMIC_REQUEST (R251): in the device, over the fabric, and the tag read of TAGGET (R247). -/
def execAtomicRequest (n : Nat) (s : State) : Host.Outcome State Fault Refusal :=
  deliver (fun | .atomic _ _ _ _ _ _ _ _ _ => true | .fabric _ _ _ => true | .tagget _ _ _ => true | _ => false) n s

/-- PUT_DATA (R254). -/
def execPutData (n : Nat) (s : State) : Host.Outcome State Fault Refusal :=
  deliver (fun | .put _ _ _ _ _ _ _ => true | _ => false) n s

/-- COUNTER_ADD (R149). -/
def execCounterAdd (n : Nat) (s : State) : Host.Outcome State Fault Refusal :=
  deliver (fun | .counter _ _ _ _ => true | _ => false) n s

/-- OBJECT_STEP (R270). -/
def execObjectStep (n : Nat) (s : State) : Host.Outcome State Fault Refusal :=
  deliver (fun | .object _ _ _ _ _ => true | _ => false) n s

/-- RING_OP_AT_HUB (R115, R272). -/
def execRingOpAtHub (n : Nat) (s : State) : Host.Outcome State Fault Refusal :=
  deliver (fun | .ring _ _ _ _ _ _ => true | _ => false) n s

/-- BARRIER_OP_AT_HUB (R276), and the end of a group as its hub hears of it (R154). -/
def execBarrierOpAtHub (n : Nat) (s : State) : Host.Outcome State Fault Refusal :=
  deliver (fun | .barrier _ _ _ _ _ => true | .groupEnd _ _ _ => true | _ => false) n s

/-- TASK_OP_AT_HUB (R119). -/
def execTaskOpAtHub (n : Nat) (s : State) : Host.Outcome State Fault Refusal :=
  deliver (fun | .task _ _ _ => true | _ => false) n s

/-- WAITER_ARRIVAL (R135): registrations and WAKE. -/
def execWaiterArrival (n : Nat) (s : State) : Host.Outcome State Fault Refusal :=
  deliver (fun | .waiter _ _ _ _ _ _ => true | .wake _ _ => true | _ => false) n s

end Sys2Proof.Machine
end

