-- ==== Sys2Proof/Machine/Events.lean ====
section
/-! DEFINITION. The events inside the device that no message carries: arbitration, fetching ahead, channels and engines,
parking, context switches, the ends of groups, intervals, polls and timeouts. An event that is not due changes nothing. -/

namespace Sys2Proof.Machine

/-- The clock of a core runs: its cluster is awake (R49, R403, R404). -/
def State.clock (s : State) (core : Nat) : Bool := s.dev.awake (clusterOf core)

/-- The core's channels and engine run: they are held in the viral state and by an error in the core's tables (R366, R378). -/
def State.works (s : State) (core : Nat) : Bool := s.clock core && !s.mach.viral && !(s.mach.core core).tableError

/-- An event of a core: nothing while its condition fails. -/
def State.during (s : State) (p : Bool) (f : Mach → Mach) : Host.Outcome State Fault Refusal :=
  .next (if p then { s with mach := f s.mach } else s)

/-! ### Arbitration and fetching ahead -/

/-- RUN_ARBITRATION (R349, R357): an owner group that has become eligible stops a harvest group that issues. -/
def execRunArbitration (core lane : Nat) (s : State) : Host.Outcome State Fault Refusal :=
  s.during (s.works core && !(s.mach.core core).outOfService) (fun m => (m.ownerDemand core lane).arbitrate core lane)

/-- A page of a context that the line store may read ahead (R107). -/
def Mach.aheadLine (m : Mach) (ctx : Nat) (va : Va) : Option Loc :=
  if inWindows va then none
  else match walkFrom m va.toNat 4 1 (m.ctx ctx).ptroot with
    | .leaf l => if l.rd && !l.mig && (l.target == 0 || l.target == 1) then some (l.loc (lineVa va)) else none
    | .fault _ => none

/-- SPECULATIVE_FETCH (R107): no fault, no device line beyond memory, and no effect but a SPEC frame. -/
def execSpeculativeFetch (core ctx : Nat) (va : Va) (tag : BitVec 4) (s : State) : Host.Outcome State Fault Refusal :=
  s.during (s.works core && (s.mach.core core).everyone.any (fun g => g.id.ctx == ctx)) (fun m =>
    match m.aheadLine ctx va with
    | some line => m.specFetch core ctx (lineVa va) line tag
    | none => m)

/-! ### Channels and the engine -/

/-- ENTRY_START (R156). -/
def execEntryStart (core chan : Nat) (s : State) : Host.Outcome State Fault Refusal :=
  s.during (s.works core) (fun m => m.entryStart core chan)

/-- COPY_DELIVERY (R260). -/
def execCopyDelivery (core chan : Nat) (s : State) : Host.Outcome State Fault Refusal :=
  s.during (s.works core) (fun m => m.copyDeliver s.dev core chan)

/-- COPY_DONE (R152). -/
def execCopyDone (core chan : Nat) (s : State) : Host.Outcome State Fault Refusal :=
  s.during (s.works core) (fun m => (m.copyFinish core chan).serveOps core)

/-- K_BLOCK (R284). -/
def execKBlock (core : Nat) (s : State) : Host.Outcome State Fault Refusal :=
  s.during (s.works core) (fun m => m.kBlock s.dev core)

/-- OPERATION_DONE (R285). -/
def execOperationDone (core : Nat) (s : State) : Host.Outcome State Fault Refusal :=
  s.during (s.works core) (fun m => (m.operationDone core).serveOps core)

/-! ### Parking and context switches -/

/-- PARK_COMPLETE (R358): the registers of a revoked group are in the reserve bank, and what waited for its bytes or its pages
goes on; its revocation is complete, a placement opportunity (R340). -/
def execParkComplete (core slot : Nat) (s : State) : Host.Outcome State Fault Refusal :=
  s.during (s.clock core && (s.mach.group? core slot).any (fun g => g.parking)) (fun m =>
    ((m.modGroup core slot (fun g => { g with parking := false, inReserve := true })).growServe core (laneOf slot) 16).serveCore
      core |>.opportunity)

/-- UNPARK_COMPLETE (R360): the group is READY where it was. -/
def execUnparkComplete (core slot : Nat) (s : State) : Host.Outcome State Fault Refusal :=
  s.during (s.clock core && (s.mach.group? core slot).any (fun g => g.unparking && g.state == .parked)) (fun m =>
    (m.modGroup core slot (fun g => { g with unparking := false, state := .ready })).atBoundary core slot)

/-- No core still saves or restores a context. -/
def Mach.switched (m : Mach) (ctx : Nat) : Bool :=
  !m.cores.any (fun e => e.2.ops.any (fun o => (o.op = opSave || o.op = opRestore) && o.ctx = ctx))

/-- A SUSPEND or RESUME whose cores are all done is over (R389); the blocks of a resumed context may be placed again (R340, log 105). -/
def Mach.settleCtx (m : Mach) (n : Nat) : Mach :=
  let c := m.ctx n
  if !m.switched n then m
  else if c.cmd = 2 then m.modCtx n (fun c => { c with state := .suspended, cmd := 0, refused := false })
  else if c.cmd = 3 then (m.modCtx n (fun c => { c with state := .live, cmd := 0, refused := false })).opportunity
  else m

/-- The contexts whose switch is over. -/
def Mach.settleAll (m : Mach) : Mach := (m.ctxs.map (·.1)).foldl Mach.settleCtx m

/-! ### The ends of groups -/

/-- The ENDING groups that a slot names: the resident one, and those that were pre-empted there, also while the slot is used again
(R74, R370). -/
def Mach.endingGroups (m : Mach) (core slot : Nat) : List (Group × Ending) :=
  ((m.group? core slot).toList ++ ((m.core core).saved.filter (fun e => e.2.home == slot)).map (·.2)).filterMap (fun g =>
    g.ending.map (fun e => (g, e)))

/-- IMPLICIT_RELEASE (R328): nothing in the viral state (R378). -/
def execImplicitRelease (core slot : Nat) (s : State) : Host.Outcome State Fault Refusal :=
  s.during (s.clock core && !s.mach.viral) (fun m => match (m.endingGroups core slot).head? with
    | some (g, e) => m.exitRelease core slot g e
    | none => m)

/-- CONVEYANCE (R131, R370): nothing is conveyed in the viral state (R378). -/
def execConveyance (core slot : Nat) (s : State) : Host.Outcome State Fault Refusal :=
  s.during (s.clock core && !s.mach.viral) (fun m => match (m.endingGroups core slot).find? (fun x => m.conveyable core x.1) with
    | some (g, _) => m.convey core slot g
    | none => m)

/-! ### Intervals (R158, R348, R351 to R353, R360) -/

/-- MESHP: the largest, over the planes that are not dark, of the averages of the router's count over the 64 cycles of the interval (R158). -/
def meshPressure (planes : List Plane) (sums : SMap Nat) : BitVec 8 :=
  planes.zipIdx.foldl (fun x e =>
    let avg := BitVec.ofNat 8 (sums.getD e.2 0 / 64)
    if e.1 != .dark && x.ult avg then avg else x) 0

/-- Every GROW of a core on which no owner group has begun a run for a whole interval ends with NOSPACE (R353). -/
def Core.failGrows (c : Core) : Core :=
  if c.ownerRan then c
  else { c with groups := c.groups.mapVals (fun _ g => match g.wait with
    | some (.grow n kd _) => g.grown n kd .nospace
    | _ => g) }

/-- An owner group of the lane is eligible now. -/
def Mach.ownerNow (m : Mach) (core lane : Nat) : Bool :=
  (m.core core).groups.any (fun e => laneOf e.1 == lane && e.1 < Config.harvestBase && m.eligible core e.2)

/-- A parked group begins to return (R360): no owner group was eligible on its lane, and its bytes are unused. -/
def Mach.beginUnpark (m : Mach) (core slot : Nat) (g : Group) : Mach :=
  let c := m.core core
  let ln := laneOf slot
  if g.state != .parked || !g.inReserve || g.revoked || c.testing || (c.lane ln).ownerEligible || m.ownerNow core ln ||
    Config.bankBytes < c.ownerBytes ln + c.harvestBytes ln false + 128 * g.valloc then m
  else m.modGroup core slot (fun g => { g with unparking := true, inReserve := false })

/-- The next interval of a core begins: its clock stands at that multiple of 64 at least, every MSET is clear, the mesh pressure is
that of the interval before, and the sums begin again (R158, R351). -/
def Core.newInterval (c : Core) (planes : List Plane) : Core :=
  let c := (c.advance ((c.interval + 1) * 64)).failGrows
  let p := meshPressure planes c.meshSum
  let pthr := bitsOf c.sched.toNat 8 8
  { c with
    interval := c.interval + 1
    meshp := p
    meshSum := c.congestion.map (fun e => (e.1, e.2.toNat * (c.cycle - (c.interval + 1) * 64)))
    capped := pthr != 0 && pthr ≤ p.toNat
    ownerRan := false
    groups := c.groups.mapVals (fun _ g => { g with arb := { g.arb with mset := false } })
    saved := c.saved.mapVals (fun _ g => { g with arb := { g.arb with mset := false } }) }

/-- INTERVAL_START (R351): the core's interval of this number begins, once: a turn that names another than the next one is none of the
device's (log 38). -/
def execIntervalStart (core interval : Nat) (s : State) : Host.Outcome State Fault Refusal :=
  s.during (s.clock core && interval == (s.mach.core core).interval + 1) (fun m =>
    let m := m.modCore core (fun c => c.newInterval s.dev.planes)
    let m := (m.core core).groups.foldl (fun m e => m.beginUnpark core e.1 e.2) m
    m.modCore core (fun c => { c with lanes := c.lanes.mapVals (fun _ l => { l with ownerEligible := false }) }))

/-! ### Polls, timeouts and retries -/

/-- CWAIT_POLL (R256): a word that neither the table nor the hub watches is read again. A read whose translation faults takes the group
back to its CWAIT, where it waits for the replay (R78, R123). -/
def execCwaitPoll (core slot : Nat) (s : State) : Host.Outcome State Fault Refusal :=
  s.during (s.clock core) (fun m => match m.slotGroup? core slot with
    | none => m
    | some g => match g.wait with
      | some (.cwait va _ tag false len) =>
        if m.msgs.any (fun x => x.uid == g.uid && x.core == core && match x.body with
            | .waiter _ _ _ _ _ true => true | _ => false) then m
        else match m.translate core g va with
          | (m, .ok l _) =>
            m.send core slot g.uid l.place 0 false (.waiter va l tag 0 47 true)
          | (m, .fault level) =>
            let (token, m) := m.fresh
            (m.modUid core slot g.uid (fun g => { g with
              pc := g.pc - BitVec.ofNat 56 len, wait := some (.xlat token va false false) })).postFq g.id.ctx 1 0 va.toNat level core
                (some slot) [token]
          | (m, _) => m
      | _ => m)

/-- DUPLEX_TIMEOUT (R376): the partner has not closed the window within 2^20 cycles. -/
def execDuplexTimeout (core slot : Nat) (s : State) : Host.Outcome State Fault Refusal :=
  s.during (s.clock core && !s.mach.viral) (fun m => match m.slotGroup? core slot with
    | none => m
    | some g =>
      if !g.id.duplex || g.dup.closedSig.isNone then m
      else (m.modCore core (fun c => c.advance (g.dup.closedAt + 1048576))).duplexMismatch core slot g.uid)

/-- RETRANSMIT (R400): an atomic that has no answer is sent again. -/
def execRetransmit (n : Nat) (s : State) : Host.Outcome State Fault Refusal :=
  s.during (s.dev.running && !s.mach.viral) (fun m => match m.fabricAtomics[n]? with
    | none => m
    | some x =>
      if m.msgs.any (fun y => y.held && y.uid == x.uid && y.core == x.core && match y.body with
          | .fabric d r _ => d == x.dev && r == x.rid | _ => false) then m
      else m.send x.core x.slot x.uid x.target.place 0 false (.fabric x.dev x.rid false))

end Sys2Proof.Machine
end

