-- ==== Sys2Proof/Machine/Place.lean ====
section
/-! DEFINITION. Placement (R33 to R38, R104, R112, R144, R145, R327, R340 to R346): which block is next, where it goes, and the
groups it becomes. -/

namespace Sys2Proof.Machine

/-! ### Blocks and their identifiers (R33, R38, R145) -/

/-- The value of field i of the block of index j of a launch (R33): its fields run from the block level up. -/
def Record.field (r : Record) (j i : Nat) : Nat :=
  if i < r.blev then 0 else j / r.volume r.blev i % r.ext.getD i 1

/-- The lowest bit of field i (R33). -/
def Record.shift (r : Record) (i : Nat) : Nat := (r.widths.take i).sum

/-- The work identifier of thread 0 of group g of block j (R33, R38). -/
def Record.wid (r : Record) (j g : Nat) : Dword :=
  BitVec.ofNat 64 ((List.range 6).foldl (fun n i =>
    let f := if i = 0 then 0 else if i < r.blev then g / r.volume 1 i % r.ext.getD i 1 else r.field j i
    n + f * 2 ^ r.shift i) 0)

/-- The block ordinal of block j (R145). -/
def Record.ordinal (r : Record) (j : Nat) : Nat := (r.wid j 0).toNat >>> r.shift r.blev

/-- The role of group g (R38). -/
def Record.role (r : Record) (g : Nat) : Role :=
  if g < r.ncopy then .copy else if g < r.ncopy + r.nmat then .matrix
  else if g < r.ncopy + r.nmat + r.nvec then .vector else .general

/-! ### Tile dependences (R143 to R145) -/

/-- Fields o to o + 1 of DEPMAP as a signed number. -/
def Record.depS (r : Record) (o : Nat) : Int := sextNat (r.dep o 2) 16

/-- The interval of producer coordinates along one axis (R144); `f`, `mul`, `add`, `sh` and `span` are the offsets in DEPMAP. A shift
above 15 is applied as it stands (DESIGN CHOICE, log 99: R143 gives its range 0 to 15 and no check). -/
def Record.depRange (r : Record) (j f mul add sh span np : Nat) : Int × Int :=
  let c := if r.dep f 1 = 15 then 0 else r.field j (r.dep f 1)
  let x := ((c * r.dep mul 2 : Nat) + r.depS add) / (2 ^ r.dep sh 1 : Int)
  (max 0 x, min ((np : Int) - 1) (x + r.dep span 2 - 1))

/-- The extent of a producer field, and its value in a producer block (R144). -/
def Record.prodExt (p : Record) (f : Nat) : Nat := if f = 15 then 1 else p.ext.getD f 1
def Record.prodField (p : Record) (j f : Nat) : Nat := if f = 15 then 0 else p.field j f

/-- Block j of a launch needs block i of its producer (R144). -/
def Record.needs (r p : Record) (j i : Nat) : Bool :=
  let x := r.depRange j 6 12 16 10 20 (p.prodExt (r.dep 8 1))
  let y := r.depRange j 7 14 18 11 22 (p.prodExt (r.dep 9 1))
  let px : Int := p.prodField i (r.dep 8 1)
  let py : Int := p.prodField i (r.dep 9 1)
  decide (x.1 ≤ px ∧ px ≤ x.2 ∧ y.1 ≤ py ∧ py ≤ y.2)

/-- Block j of a launch is ready (R341, R145): the producer is the launch that DEPSEQ named when the launch was validated, and it is DONE
once its entry reads so (R110). -/
def Mach.blockReady (m : Mach) (l : Launch) (j : Nat) : Bool :=
  match l.producer.bind m.launches.get? with
    | none => true
    | some p => p.stored || (p.tracked && (List.range p.record.blocks).all (fun i =>
        !l.record.needs p.record j i || p.ended.contains i))

/-- The blocks of placement unit u (R341). -/
def Record.unit (r : Record) (u : Nat) : List Nat := (List.range (unitBlocks r)).map (fun i => u * unitBlocks r + i)

/-- The first number at or after i that p holds of, n tries. -/
def searchFrom (p : Nat → Bool) : Nat → Nat → Option Nat
  | 0, _ => none
  | n + 1, i => if p i then some i else searchFrom p n (i + 1)

/-- The next ready unit of a launch, in ascending block ordinal (R341). -/
def Mach.nextUnit (m : Mach) (l : Launch) : Option Nat :=
  searchFrom (fun u => !l.placed.contains u && (l.record.unit u).all (m.blockReady l)) l.record.units 0

/-- The launch of a queue whose blocks come next: the first accepted one that is not wholly placed (R110, R341). -/
def Mach.queueHead (m : Mach) (q : Nat) : Option (Nat × Launch) :=
  match m.launches.find? (fun e => e.2.queue == q && !e.2.abandoned && !e.2.wholly) with
  | some e =>
    let c := m.ctx e.2.ctx
    if c.state == .live && c.cmd == 0 && c.remap.isNone then some e else none
  | none => none

/-! ### What a core can take (R343, R345, R346) -/

/-- What a placement asks of a core: its kind, its allocation, its context, and its launch with the kernel and its dictionary. -/
structure Want where
  harvest : Bool
  valloc : Nat
  kid : Nat
  words : List Word
  ctx : Nat
  launch : Nat
  deriving DecidableEq, Repr

/-- What the groups of a launch ask. -/
def Launch.want (l : Launch) (lid : Nat) (harvest : Bool) : Want :=
  { harvest, valloc := l.record.valloc, kid := l.record.kid, words := l.record.words, ctx := l.ctx, launch := lid }

/-- The slots of a lane that a group of this kind may take. -/
def Want.slots (w : Want) (lane : Nat) : List Nat :=
  if w.harvest then [holderOf lane 8, holderOf lane 9] else (List.range Config.ownerSlots).map (holderOf lane)

/-- Free slots of a lane. -/
def Core.openSlots (c : Core) (w : Want) (lane : Nat) : List Nat := (w.slots lane).filter (fun s => (c.groups.get? s).isNone)

/-- Bytes of a lane's bank that a group of this kind may not take (R343, R345). -/
def Core.takenBytes (c : Core) (w : Want) (lane : Nat) : Nat :=
  c.ownerBytes lane + (if w.harvest then c.harvestBytes lane false else 0)

/-- How many groups a lane can take. -/
def Core.laneTakes (c : Core) (w : Want) (lane : Nat) : Nat :=
  min (c.openSlots w lane).length ((Config.bankBytes - c.takenBytes w lane) / (128 * w.valloc))

def Core.coreTakes (c : Core) (w : Want) : Nat := (List.range 128).foldl (fun n l => n + c.laneTakes w l) 0

/-- Free slots of this kind on a core. -/
def Core.freeSlots (c : Core) (w : Want) : Nat := (List.range 128).foldl (fun n l => n + (c.openSlots w l).length) 0

/-- A group of the core uses a dictionary slot (R104). -/
def Core.dictInUse (c : Core) (d : Dict) : Bool := c.everyone.any (fun g => g.id.dsize != 0 && d.launches.contains g.id.launch)

/-- The dictionary slot for a launch: one that holds these words of this kernel and context, else a free one (R104, R142, R346). -/
def Core.dictSlot (c : Core) (w : Want) : Option Nat :=
  match c.dicts.find? (fun e => e.2.ctx == w.ctx && e.2.kid == w.kid && e.2.words == w.words) with
  | some e => some e.1
  | none => (List.range 8).find? (fun i => match c.dicts.get? i with | some d => !c.dictInUse d | none => true)

/-- The core may be looked at for these groups. -/
def Core.admits (c : Core) (w : Want) : Bool :=
  !c.outOfService && !c.tableError && !c.testing && (!w.harvest || c.harvestCtx == some w.ctx) && (w.words.isEmpty || (c.dictSlot w).isSome)

/-! ### One group (R112, R344) -/

/-- Owner groups resident on a lane. -/
def Core.ownersOn (c : Core) (lane : Nat) : Nat :=
  ((List.range Config.ownerSlots).filter (fun i => (c.groups.get? (holderOf lane i)).isSome)).length

/-- The lane with the fewest resident owner groups among those that can take one, for a harvest group too (R344, R345). -/
def Core.laneOfWant (c : Core) (w : Want) : Option Nat :=
  leastBy c.ownersOn ((List.range 128).filter (fun l => 0 < c.laneTakes w l))

/-- A group as it is placed (R50, R56, R59, R66, R112, R348), with the critical allowance of its context (R67). -/
def newGroup (uid : Nat) (id : Ident) (r : Record) (cycle : Nat) (callow : BitVec 16 := 0) : Group :=
  { uid, id, valloc := r.valloc, pc := id.entry, callow
    k := (r.kargs.zipIdx.filter (fun e => e.1 != 0)).map (fun e => (e.2, e.1))
    spans := r.spans.zipIdx.map (fun e => (e.2, Span.ofImage e.1))
    arb := { lastRun := BitVec.ofNat 32 cycle } }

/-- A core loads a launch's dictionary the first time it takes a group of it (R104, R142): a slot that holds these very words serves
the launch too. -/
def Core.loadDict (c : Core) (w : Want) : Core :=
  if w.words.isEmpty then c
  else match c.dictSlot w with
    | none => c
    | some i => { c with dicts := c.dicts.set i (match c.dicts.get? i with
        | some d => if d.ctx = w.ctx ∧ d.kid = w.kid ∧ d.words = w.words then
            { d with launches := if d.launches.contains w.launch then d.launches else w.launch :: d.launches }
          else { kid := w.kid, ctx := w.ctx, launches := [w.launch], words := w.words }
        | none => { kid := w.kid, ctx := w.ctx, launches := [w.launch], words := w.words }) }

/-- The group of index g of a block takes a seat on a core, and the core's stale frames are refreshed before its first run: the notices
of every write performed before it have come (R327, R344; log 88). -/
def Mach.seatGroup (m : Mach) (core bid : Nat) (w : Want) (id : Ident) (r : Record) : Mach :=
  let c := m.core core
  match c.laneOfWant w with
  | none => m
  | some ln => match c.openSlots w ln with
    | [] => m
    | slot :: _ =>
      let (uid, m) := m.fresh
      let g := newGroup uid id r c.cycle (m.ctx id.ctx).callow
      let m := (m.takeNotices core).modCore core (fun c => { c.loadDict w with groups := c.groups.set slot g })
      let m := m.modBlock (clusterOf core) bid (fun b => { b with
        members := b.members.set id.gindex { core, slot, uid, role := id.role } })
      m.refreshFrames core slot g 3 ((m.core core).frames.map (·.1))

/-! ### One block (R97, R113, R153, R343, log 18) -/

/-- The core of R343 step 1: the most free slots among those that can take the matrix and vector groups; `skip` lists cores that
the other copy of a duplex block uses. -/
def Mach.leadCore (m : Mach) (cl : Nat) (w : Want) (n : Nat) (skip : List Nat) : Option Nat :=
  leastBy (fun c => 2048 - (m.core c).freeSlots w) (((List.range 8).map (8 * cl + ·)).filter (fun c =>
    !skip.contains c && (m.core c).admits w && n ≤ (m.core c).coreTakes w))

/-- How many of the other groups each core takes: the lead core first, then in ascending member index (R343). -/
def shareOut : List (Nat × Nat) → Nat → List (Nat × Nat)
  | _, 0 => []
  | [], _ => []
  | (c, room) :: cs, n => (c, min room n)   :: shareOut cs (n - min room n)

/-- The core of each group of a block, in ascending group index; none when the cluster cannot take it (R343). -/
def Mach.coresFor (m : Mach) (cl : Nat) (w : Want) (r : Record) (skip : List Nat) : Option (List Nat) :=
  let nmv := r.nmat + r.nvec
  match m.leadCore cl w nmv skip with
  | none => none
  | some lead =>
    let rest := ((List.range 8).map (8 * cl + ·)).filter (fun c => c != lead && !skip.contains c && (m.core c).admits w)
    let rooms := (lead, (m.core lead).coreTakes w - nmv) :: rest.map (fun c => (c, (m.core c).coreTakes w))
    let shares := (shareOut rooms (r.groups - nmv)).flatMap (fun e => List.replicate e.2 e.1)
    if shares.length < r.groups - nmv then none
    else some (shares.take r.ncopy ++ List.replicate nmv lead ++ shares.drop r.ncopy)

/-- The pages that a block can take: FREE ones, or for a harvest block lent ones that nobody uses (R97, R345). -/
def Cluster.freePages (k : Cluster) (harvest : Bool) : List Nat :=
  (List.range Config.spadPages).filter (fun p =>
    let x := k.pages.getD p {}
    if harvest then x.state == .lent && x.lentTo.isNone else x.state == .free)

/-- Pages become a block's (R97, R99, R345). -/
def Mach.takePages (m : Mach) (cl bid ctx : Nat) (harvest : Bool) (ps : List Nat) : Mach :=
  ps.foldl (fun m p => m.freshPage cl p (fun x =>
    if harvest then { x with lentTo := some bid } else { state := .alloc, ctx, block := bid })) m

/-- The hub state of a block as placement sets it (R113, R114, R153). -/
def newRings (r : Record) : SMap Ring :=
  (r.rings.zipIdx.filter (fun e => e.1.toNat % 128 != 0)).map (fun e =>
    (e.2, { offset := e.1.toNat / 256, depth := e.1.toNat % 128, allow := e.1.toNat % 128 }))

def newBars (r : Record) : SMap Barrier :=
  (r.bars.zipIdx.filter (fun e => e.1 != 0)).map (fun e => (e.2, { expect := e.1.toNat, curexp := e.1.toNat }))

/-- The identity of group g of block j. -/
def identOf (m : Mach) (l : Launch) (lid bid j g : Nat) (logical : Nat) (copy : Bool) : Ident :=
  let r := l.record
  { ctx := l.ctx, harvest := (m.ctx l.ctx).harvest, viral := (m.ctx l.ctx).viral, duplex := r.duplex, copyIndex := copy, launch := lid
    block := bid, gindex := g, role := r.role g, wid := r.wid j g, widths := r.widths, entry := BitVec.ofNat 56 r.entry
    cpool := BitVec.ofNat 56 r.cpool, recov := BitVec.ofNat 56 r.recov, kid := r.kid, dsize := r.dsize, blev := r.blev
    clev := r.clev, logical }

/-- A block is placed on a cluster, if it can take it: the machine, the block's number and its cores. -/
def Mach.placeBlock (m : Mach) (l : Launch) (lid cl logical j : Nat) (copy : Bool) (skip : List Nat) :
    Option (Mach × Nat × List Nat) :=
  let r := l.record
  let hv := (m.ctx l.ctx).harvest
  let w := l.want lid hv
  let k := m.cluster cl
  let ps := (k.freePages hv).take r.pages
  match m.coresFor cl w r skip, SMap.freeKey k.blocks 8192 with
  | some cs, some bid =>
    if ps.length < r.pages then none
    else
      let b : Block :=
        { ctx := l.ctx, launch := lid, ordinal := r.ordinal j, unit := j / unitBlocks r, inUnit := j % unitBlocks r, pages := ps
          spadBytes := r.spad, rings := newRings r, bars := newBars r, members := [], copyIndex := copy, harvest := hv }
      let m := (m.takePages cl bid l.ctx hv ps).modCluster cl (fun k => { k with blocks := k.blocks.set bid b })
      some (cs.zipIdx.foldl (fun m e => m.seatGroup e.1 bid w (identOf m l lid bid j e.2 logical copy) r) m, bid, cs)
  | _, _ => none

/-- Block j of a launch is placed, both copies of it when the launch is duplex (log 18). -/
def Mach.placeOne (m : Mach) (l : Launch) (lid cl logical j : Nat) : Option Mach :=
  match m.placeBlock l lid cl logical j false [] with
  | none => none
  | some (m, bid, cs) =>
    if !l.record.duplex then some m
    else match m.placeBlock l lid cl logical j true cs with
      | none => none
      | some (m, bid', _) => some ((m.modBlock cl bid (fun b => { b with partner := some bid' })).modBlock cl bid' (fun b =>
          { b with partner := some bid }))

/-- All blocks of a unit are placed, or none (R36, R341). -/
def Mach.placeAll (l : Launch) (lid cl logical : Nat) : List Nat → Mach → Option Mach
  | [], m => some m
  | j :: js, m => match m.placeOne l lid cl logical j with
    | some m => Mach.placeAll l lid cl logical js m
    | none => none

/-! ### The cluster (R342, R345) -/

/-- The clusters that a launch may use, as logical and physical numbers, by rising logical number, those of every owner alike (R338,
R342, R345); a block of a harvest context is a harvest block (log 32). -/
def Mach.clustersOf (m : Mach) (l : Launch) : List (Nat × Nat) :=
  if (m.ctx l.ctx).harvest then
    (m.ctxs.flatMap (fun e => if e.2.state == .live && !e.2.harvest then
      (e.2.cmap.map (fun x => (x.1, x.2.toNat))).filter (fun x =>
        (List.range 8).any (fun i => (m.core (8 * x.2 + i)).harvestCtx == some l.ctx)) else [])).mergeSort (fun x y => x.1 ≤ y.1)
  else (m.ctx l.ctx).cmap.map (fun x => (x.1, x.2.toNat))

/-- Free slots of a cluster for a launch: owner slots on all its eight cores (R342), harvest slots on those where its context is
admitted (R345). -/
def Mach.clusterSlots (m : Mach) (lid : Nat) (l : Launch) (cl : Nat) : Nat :=
  let w := l.want lid (m.ctx l.ctx).harvest
  (List.range 8).foldl (fun n i => let c := m.core (8 * cl + i)
    n + (if !w.harvest || c.harvestCtx == some w.ctx then c.freeSlots w else 0)) 0

/-- What the placement of a unit comes to: the machine with it placed, and its cluster; `gated` lists clusters without a
clock. -/
def Mach.placeUnit (m : Mach) (gated : List Nat) (lid : Nat) (l : Launch) (u : Nat) : Option (Nat × Mach) :=
  let ok := (m.clustersOf l).filterMap (fun c =>
    if gated.contains c.2 then none else (Mach.placeAll l lid c.2 c.1 (l.record.unit u) m).map (fun x => (c.2, x)))
  match leastBy (fun i => 16384 - m.clusterSlots lid l ((ok.map (·.1)).getD i 0)) (List.range ok.length) with
  | some i => ok[i]?
  | none => none

/-- The lanes of a cluster whose owner groups, once placed, need bytes that harvest groups use, with the bytes (R344). -/
def Mach.owed (m m' : Mach) (cl : Nat) : List (Nat × Nat × Nat) :=
  (List.range 8).flatMap (fun i =>
    let core := 8 * cl + i
    (List.range 128).filterMap (fun ln =>
      let need := (m'.core core).ownerBytes ln - (m.core core).ownerBytes ln
      if need != 0 && Config.bankBytes < (m'.core core).ownerBytes ln + (m'.core core).harvestBytes ln false then
        some (core, ln, need) else none))

/-! ### Opportunities (R340) -/

/-- A launch's unit u is placed: it joins the placed ones, and a tracked launch takes the queue's bitmap at its first
(R145). The opportunity that has served one unit goes on to the next (log 105). -/
def Mach.notePlaced (m : Mach) (lid u : Nat) (l : Launch) : Mach :=
  let track := l.track && l.placed.isEmpty && l.record.blocks ≤ 16777216
  let m := if track then { m with launches := m.launches.mapVals (fun _ x =>
      if x.queue = l.queue then { x with tracked := false } else x) } else m
  { (m.modLaunch lid (fun x => { x with placed := x.placed ++ [u], tracked := x.tracked || track })).opportunity with
    rotation := (l.queue + 1) % 256 }

/-- A context's next block of another queue has been skipped 64 times and presses (R340). -/
def Mach.pressed (m : Mach) (q ctx : Nat) : Bool :=
  (List.range 256).any (fun p => p != q && match m.queueHead p with
    | some (_, l) => l.ctx == ctx && (m.nextUnit l).any (fun u => 64 ≤ l.skipped.getD u 0)
    | none => false)

/-- The queues of a rotation, tried in order; a block that fits nowhere is skipped (R340). -/
def Mach.serveQueues (m : Mach) (gated : List Nat) : List Nat → Mach
  | [] => m
  | q :: qs => match m.queueHead q with
    | none => m.serveQueues gated qs
    | some (lid, l) =>
      if m.pressed q l.ctx then m.serveQueues gated qs
      else match m.nextUnit l with
        | none => m.serveQueues gated qs
        | some u => match m.placeUnit gated lid l u with
          | none => (m.modLaunch lid (fun x => { x with skipped := x.skipped.set u (x.skipped.getD u 0 + 1) })).serveQueues gated qs
          | some (cl, m') => match m.owed m' cl with
            | [] => m'.notePlaced lid u l
            | ds => ds.foldl (fun m d => m.revokeFor d.1 d.2.1 d.2.2) m

/-- At a placement opportunity the next block is placed (R340); where none is, the opportunity is over. -/
def Mach.placement (m : Mach) (gated : List Nat) : Mach :=
  if !m.chance then m
  else { m with chance := false }.serveQueues gated ((List.range 256).map (fun i => (m.rotation + i) % 256))

/-! ### Completion (R110, R141) -/

/-- A launch is complete: its layout records are dropped, its word is stored, its entry reads DONE, its waiters wake, and its queue is
read again, each step once the one before it could be made (R78, R79, R106, R108, R110, R141, R436). -/
def Mach.launchDone (m : Mach) (lid : Nat) (l : Launch) : Mach :=
  let m := m.modLaunch lid (fun x => { x with done := true })
  let m := { m with clusters := m.clusters.mapVals (fun _ k => { k with layouts := k.layouts.filter (fun e => e.ctx != l.ctx) }) }
  m.ownSteps l.ctx (if l.abandoned then [.store l.entryVa [5], .finish lid]
    else [.store l.compaddr (leBytes 8 l.compseq.toNat), .store l.entryVa [4], .finish lid, .wake l.compaddr, .look l.queue])

/-- No block of the launch is resident. -/
def Mach.drained (m : Mach) (lid : Nat) : Bool := !m.clusters.any (fun e => e.2.blocks.any (fun b => b.2.launch == lid))

/-- A launch may complete: every block is complete; an abandoned one, when the groups it had have ended (R110). -/
def Mach.launchOver (m : Mach) (lid : Nat) (l : Launch) : Bool :=
  !l.done && (if l.abandoned then m.drained lid else l.wholly && l.over && m.drained lid)

/-- LAUNCH_COMPLETE (R110). -/
def execLaunchComplete (lid : Nat) (s : State) : Host.Outcome State Fault Refusal :=
  .next (match s.mach.launches.get? lid with
    | none => s
    | some l =>
      if s.dev.running && !s.mach.viral && s.mach.launchOver lid l then
        { s with mach := s.mach.launchDone lid l }
      else s)

/-- The clusters whose clocks do not run. -/
def Device.asleep (d : Device) : List Nat := (List.range 32).filter (fun cl => !d.awake cl)

/-- PLACEMENT (R340). -/
def execPlacement (s : State) : Host.Outcome State Fault Refusal :=
  .next (if s.dev.running && !s.mach.viral then { s with mach := s.mach.placement s.dev.asleep } else s)

end Sys2Proof.Machine
end

