-- ==== Sys2Proof/Machine/Ends.lean ====
section
/-! DEFINITION. What TEARDOWN (R132, R389) and a core reset (R367) share: ending groups at once, without conveyance. -/

namespace Sys2Proof.Machine

/-- A group with its core and its slot. -/
abbrev Seated := Nat × Nat × Group

/-- A group joins others behind those whose index in their block is not above its own. -/
def seatIn (x : Seated) : List Seated → List Seated
  | [] => [x]
  | y :: ys => if x.2.2.id.gindex < y.2.2.id.gindex then x :: y :: ys else y :: seatIn x ys

/-- The groups that p holds of, resident or saved, the lower group index first (R131, R373); the supervisor groups belong to no
context. -/
def Mach.groupsWhere (m : Mach) (p : Nat → Group → Bool) : List Seated :=
  List.foldl (fun xs x => seatIn x xs) [] <| m.cores.flatMap (fun e => ((e.2.groups.map (fun x => (e.1, x.1, x.2))) ++
    (e.2.saved.map (fun x => (e.1, x.2.home, x.2)))).filter (fun x => !x.2.2.id.sup && p x.1 x.2.2))

/-- The groups stop at once and go to ENDING. -/
def Mach.halt (m : Mach) (gs : List Seated) : Mach := gs.foldl (fun m x => m.enterEnding x.1 x.2.1 x.2.2.uid true) m

/-- The message is one of these groups'. -/
def sentBy (gs : List Seated) (x : Msg) : Bool := gs.any (fun g => g.2.2.uid == x.uid && g.1 == x.core)

/-- These messages are withdrawn, with the entries and claims that operations in flight had taken (R128, R294, R437). -/
def Mach.withdrawMsgs (m : Mach) (mine : Msg → Bool) : Mach :=
  let gone := m.msgs.filter mine
  let m := gone.foldl (fun m x => match x.body with | .openWait o => m.dropLines x.core x.uid o.taken | _ => m) m
  let m := gone.foldl (fun m x =>
    if (m.findGroup x.core x.slot x.uid).any (fun g => g.id.copyIndex) then m
    else m.modCore x.core (fun c => { c with reserved := c.reserved - x.reserves })) m
  { m with msgs := m.msgs.filter (fun x => !mine x) }

/-- What a kill withdraws of these groups' requests is withdrawn (R370 step 3). -/
def Mach.withdrawGone (m : Mach) (gs : List Seated) : Mach :=
  let gone := gs.flatMap (fun g => m.withdrawals g.2.2.uid)
  (m.withdrawMsgs (fun x => gone.any (fun y => y.id == x.id))).dropFabric gone

/-- What the groups issued before they end, and what has left its core, is performed in order, as for a kill (R367, R370, R438); at
most n messages. -/
def Mach.finishStores (m : Mach) (me : Nat) (mine : Msg → Bool) : Nat → Mach
  | 0 => m
  | k + 1 =>
    match m.msgs.zipIdx.findSome? (fun x =>
        if mine x.1 && !x.1.withdrawn && m.ready x.1 && !(m.viral && x.1.body.leaves) then m.perform me x.2 x.1 else none) with
    | some m => m.finishStores me mine k
    | none => m

/-- Waits, latches, mailbox entries and unanswered fabric atomics of the groups are withdrawn (R367 step 3, R389). -/
def Mach.withdrawAll (m : Mach) (gs : List Seated) : Mach :=
  let m := m.withdrawMsgs (sentBy gs)
  let m := gs.foldl (fun m g =>
    let m := ((m.withdrawWaits g.2.2.uid).leaveLatch g.1 g.2.2.uid)
    match m.seat g.1 g.2.1 g.2.2.uid with
    | some s => m.modCore g.1 (fun c => c.freeMailbox s)
    | none => m) m
  { m with
    fabricAtomics := m.fabricAtomics.filter (fun x => !gs.any (fun g => g.2.2.uid == x.uid && g.1 == x.core))
    clusters := m.clusters.mapVals (fun _ k => { k with
      watches := k.watches.filter (fun w => !gs.any (fun g => g.2.2.uid == w.uid)) }) }

/-- The copies of the groups are stopped, and their undelivered bytes come off the barriers they credit (R154, R367). -/
def Mach.stopCopies (m : Mach) (gs : List Seated) : Mach :=
  gs.foldl (fun m g =>
    let es := ((m.core g.1).chans.flatMap (·.2.entries)).filter (fun e => e.uid == g.2.2.uid)
    let m := m.modCore g.1 (fun c => { c with chans := c.chans.mapVals (fun _ ch => { ch with
      entries := ch.entries.filter (fun e => e.uid != g.2.2.uid) }) })
    es.foldl (fun m e => match e.bar with
      | some j => m.barChange (clusterOf g.1) e.block j (fun b => b.credit (-((e.len - e.done : Nat) : Int)))
      | none => m) m) m

/-! ### Teardown (R100, R110, R119, R132, R135, R389) -/

/-- The holdings of a torn-down group are invalid, and none is settled; its slots and claims are free (R102, R132). -/
def Mach.dropHoldings (m : Mach) (core : Nat) (g : Group) : Mach :=
  (m.holdings core g.uid).foldl (fun m h =>
    let m := m.eraseEstate h.1 h.2.1
    match h.2.2.kind with
    | 2 => m.freeSlot h.1 (h.2.2.key.toNat % 16)
    | 4 => m.modCore h.1 (fun c => { c with claims := c.claims.erase h.2.2.key.toNat })
    | _ => m) m

/-- The entry of which a job has still to store the rejection: it is TAKEN (R110). -/
def OwnJob.rejecting (j : OwnJob) : Option Va :=
  j.steps.findSome? (fun s => match s with | .store va bs => if bs == [3] then some va else none | _ => none)

/-- These entries are DRAINED (R110). -/
def Mach.drainEntries (m : Mach) (ctx : Nat) (vas : List Va) : Mach := vas.foldl (fun m va => m.ownSteps ctx [.store va [5]]) m

/-- Every TAKEN entry of the context is abandoned and reads DRAINED (R110): those that are not judged yet, those whose rejection is
not stored yet, and those of launches that do not read DONE yet. What the device has still to do in the memory of the context goes with
it, and no translation of the context is replayed any more. -/
def Mach.abandonCtx (m : Mach) (n : Nat) : Mach :=
  let vas := ((m.queues.filter (fun e => e.2.ctx == n)).filterMap (fun e => e.2.taking.map (·.1))) ++
    ((m.jobs.filter (fun j => j.ctx == n)).filterMap OwnJob.rejecting) ++
    ((m.launches.filter (fun e => e.2.ctx == n && !e.2.stored)).map (fun e => e.2.entryVa))
  let m := { m with jobs := m.jobs.filter (fun j => j.ctx != n) }.drainEntries n vas
  { m with
    jobs := m.jobs.filter (fun j => j.ctx != n || j.token.isNone)
    queues := m.queues.mapVals (fun _ x =>
      if x.ctx = n then { x with en := false, enabling := false, token := none, taking := none } else x)
    launches := m.launches.mapVals (fun _ l =>
      if l.ctx = n ∧ !l.stored then { l with done := true, stored := true, abandoned := true } else l) }

/-- The blocks of a context leave its clusters with their pages. -/
def Mach.dropBlocks (m : Mach) (n : Nat) : Mach :=
  m.clusters.foldl (fun m e => (e.2.blocks.filter (fun b => b.2.ctx == n)).foldl (fun m b =>
    ((m.freeTwinSlots b.2).freePages e.1 b.1 b.2).modCluster e.1 (fun k => { k with blocks := k.blocks.erase b.1 })) m) m

/-- What the clusters keep of a context goes: shares, tasks, layout records. -/
def Cluster.forget (k : Cluster) (n : Nat) : Cluster :=
  { k with
    wharf := k.wharf.filter (fun e => e.2.ctx != n)
    tickets := k.tickets.filter (fun t => t.ctx != n)
    layouts := k.layouts.filter (fun e => e.ctx != n)
    tasks := k.tasks.mapVals (fun _ t => if t.ctx = n ∧ t.state ≠ .free then t.freed else t) }

/-- What the cores keep of a context goes: copies, engine operations, switches under way, saved slots, the admission. -/
def Core.forget (c : Core) (n : Nat) (owned : Bool) : Core :=
  { c with
    chans := c.chans.mapVals (fun _ ch => { ch with entries := ch.entries.filter (fun e => e.ctx != n) })
    engine := c.engine.filter (fun o => o.ident.ctx != n)
    ops := c.ops.filter (fun o => o.op ≤ opFree || o.ctx != n)
    savedAcc := if owned then [] else c.savedAcc
    harvestCtx := if c.harvestCtx = some n then none else c.harvestCtx }

/-- TEARDOWN of a context (R389): `me` is the device's number. -/
def Mach.teardown (m : Mach) (me n : Nat) : Mach :=
  let gs := m.groupsWhere (fun _ g => g.id.ctx == n)
  let m := (m.modCtx n (fun c => { c with state := .tearing })).halt gs
  let m := (m.withdrawGone gs).finishStores me (sentBy gs) (4 * m.msgs.length)
  let m := gs.foldl (fun m g => match m.findGroup g.1 g.2.1 g.2.2.uid with
    | some x => m.discardLines g.1 g.2.1 x
    | none => m) m
  let m := ((m.withdrawAll gs).stopCopies gs)
  let m := gs.foldl (fun m g => m.dropHoldings g.1 g.2.2) m
  let owned (core : Nat) : Bool := m.clusterOwner (clusterOf core) == some n
  let m := { m with cores := m.cores.mapVals (fun i c => c.forget n (owned i)) }
  let m := (m.dropBlocks n)
  let m := { m with
    clusters := m.clusters.mapVals (fun _ k => k.forget n)
    walker := m.walker.filter (fun e => e.ctx != n)
    waitTab := m.waitTab.filter (fun e => e.2.ctx != n) }
  let m := gs.foldl (fun m g => (m.freeSeat g.1 g.2.1 g.2.2).acceptAll g.1 65) m
  let m := m.abandonCtx n
  let m := m.modCtx n (fun c => { c with
    state := .free, cmd := 0, refused := false, fq := [], popped := [], unposted := [], bindings := [], reserve := []
    remap := none })
  (gs.map (·.1)).eraseDups.foldl Mach.serveCore m

/-! ### Core reset (R367) -/

/-- An entry of a core's own table is settled as a heirless holding, whichever core of the cluster its holder is on; one that cannot be
read is dropped (R367 steps 4 and 5). -/
def Mach.settleEntry (m : Mach) (core i : Nat) (e : Estate) : Mach :=
  let at' := 8 * clusterOf core + e.hmem
  match m.findGroup at' e.hslot e.uid with
  | some g => if (m.core core).estateBad.contains i then m.eraseEstate core i else m.settle at' core i g e
  | none => m.eraseEstate core i

/-- Every holding of these groups is settled as a heirless one, in the reset core's table and in others (R367 step 4). -/
def Mach.settleHeld (m : Mach) (core : Nat) (gs : List Seated) : Mach :=
  let m := gs.foldl (fun m g => (m.estateOrder g.1 g.2.2).foldl (fun m h =>
    if h.1 = core then m else m.settle g.1 h.1 h.2.1 g.2.2 h.2.2) m) m
  (m.core core).estate.foldl (fun m x => m.settleEntry core x.1 x.2) m

/-- A core after its reset (R367 step 6): what the host has set, the clock and its intervals, the dictionaries and the admission stay;
every counter, and MESHP, is zero (R158, R159). -/
def Core.restart (c : Core) : Core :=
  { Core.reset with
    cycle := c.cycle, interval := c.interval, dicts := c.dicts, select := c.select, sched := c.sched
    congestion := c.congestion, meshSum := c.meshSum, capped := c.capped, capOwner := c.capOwner, capHarvest := c.capHarvest
    harvestCtx := c.harvestCtx, outOfService := c.outOfService, testing := c.testing }

/-- Every wait record of a core's groups is removed (R135). -/
def Mach.withdrawCore (m : Mach) (core : Nat) : Mach :=
  { m with waitTab := (m.waitTab.mapVals (fun _ e => { e with
      waiters := e.waiters.filter (fun w => w.host.isSome || !(w.core == core)) })).filter (fun e => e.2.waiters != []) }

/-- A core reset (R367): `me` is the device's number. -/
def Mach.coreReset (m : Mach) (me core : Nat) : Mach :=
  let c0 := m.core core
  let gs := m.groupsWhere (fun i _ => i == core)
  let sups := (c0.groups.filter (fun e => e.2.id.sup)).map (fun e => (core, e.1, e.2))
  let mine (x : Msg) : Bool := x.core == core
  let m := (m.halt gs).modCore core (fun c => { c with engine := [], latches := [] })
  let m := (m.withdrawGone gs).finishStores me mine (4 * m.msgs.length)
  let m := gs.foldl (fun m g => m.hubGroupEnd core g.2.2.uid g.2.2.id.block g.2.2.id.gindex true []) m
  let m := ((m.withdrawAll gs).withdrawMsgs mine).stopCopies gs
  let m := { m.withdrawCore core with replies := [] }
  let m := m.settleHeld core (gs ++ sups)
  let m := gs.foldl (fun m g => (m.freeSeat core g.2.1 g.2.2).memberEnd core g.2.2) m
  let m := (m.modCore core Core.restart).servePages (clusterOf core)
  (m.postEvent 3 core c0.cycle c0.estateBad.length).settleAll

end Sys2Proof.Machine
end

