-- ==== Sys2Proof/Machine/Contexts.lean ====
section
/-! DEFINITION. The context table and its commands (R338, R339, R388, R389), the launch queue bindings (R390), wake lines and
host waiters (R392), and the host's end of the fault queue (R122). -/

namespace Sys2Proof.Machine

/-- The host reaches the MMIO window: the link is up, and the device is not running detached (R386, R395). -/
def State.mmio (s : State) : Bool := s.dev.linkUp && s.dev.attach == 1

/-- What the host's command or write does to the machine: nothing while MMIO writes are ignored. -/
def State.host (s : State) (f : Mach → Mach) : Host.Outcome State Fault Refusal :=
  .next (if s.mmio then { s with mach := f s.mach } else s)

/-! ### Bytes of a context entry (R388) -/

/-- BAR 0 offset of a context entry. -/
def ctxOffset (n : Nat) : Nat := 0x200000 + 256 * n

def Mach.mmioByte (m : Mach) (off : Nat) : Byte := m.mmio.getD off 0

/-- A byte of the window that has no register of its own: zero has no entry. -/
def Mach.putMmio (m : Mach) (off : Nat) (b : Byte) : Mach :=
  { m with mmio := if b = 0 then m.mmio.erase off else m.mmio.set off b }

/-- Byte k of a number, and the number with it replaced. -/
def byteOf (v k : Nat) : Nat := v / 256 ^ k % 256
def withByte (v k b : Nat) : Nat := v - byteOf v k * 256 ^ k + b * 256 ^ k

def CtxState.num : CtxState → Nat
  | .free => 0 | .live => 1 | .suspended => 2 | .tearing => 3

/-- Byte o of context entry n as the host reads it; reserved bytes and bits read 0 (R9). -/
def Mach.ctxByte (m : Mach) (n o : Nat) : Nat :=
  let c := m.ctx n
  let raw := (m.mmioByte (ctxOffset n + o)).toNat
  if 224 ≤ o then (match c.cmap.get? (o - 224) with | some p => 128 + p.toNat | none => raw)
  else if 208 ≤ o then 0
  else if 200 ≤ o then byteOf c.wlbase (o - 200)
  else if 196 ≤ o then byteOf c.wlcount (o - 196)
  else if 192 ≤ o then byteOf c.fqhead.toNat (o - 192)
  else if 188 ≤ o then byteOf c.fqtail.toNat (o - 188)
  else if 184 ≤ o then byteOf c.fqlost.toNat (o - 184)
  else if 176 ≤ o then byteOf c.laybase.toNat (o - 176)
  else if 172 ≤ o then byteOf c.laycount (o - 172)
  else if 168 ≤ o then byteOf c.samin (o - 168)
  else if 160 ≤ o then byteOf c.sabase (o - 160)
  else if 156 ≤ o then byteOf c.sasize (o - 156)
  else if 152 ≤ o then 0
  else if 144 ≤ o then byteOf c.ptroot (o - 144)
  else if 142 ≤ o then byteOf c.callow.toNat (o - 142)
  else match o with
    | 141 => c.fqsize
    | 140 => (if c.fqcons then 1 else 0)
    | 139 => (if c.harvest then 1 else 0) + (if c.viral then 2 else 0)
    | 2 => if c.refused then 1 else 0
    | 1 => c.cmd
    | 0 => c.state.num
    | _ => 0

/-- A cluster stands in the map of another owner context, live or not (R338, R389). -/
def Mach.clusterTaken (m : Mach) (n cl : Nat) : Bool :=
  m.ctxs.any (fun e => e.1 != n && !e.2.harvest && e.2.cmap.any (fun x => x.2.toNat == cl))

/-- SAMIN (R389). -/
def Ctx.saNeed (c : Ctx) : Nat := if c.harvest then 68 else 68 + 96 * c.cmap.length

/-- The host consumes the fault queue up to HEAD = h (R122, R123). A HEAD beyond TAIL is stored as it is written, and every entry is
consumed (DESIGN CHOICE, log 100). -/
def Ctx.headTo (c : Ctx) (h : Word) : Ctx :=
  let k := (h - c.fqhead).toNat
  Ctx.postWaiting { c with
    fqhead := h, fq := c.fq.drop k, popped := c.popped ++ (c.fq.take k).filter (fun e => e.kind == 1) }

/-- CMAP entry i of context n is written; a reserved bit or another owner's cluster refuses the write (R338). -/
def Mach.writeCmap (m : Mach) (n i b : Nat) : Mach :=
  if bitsOf b 5 2 != 0 || (128 ≤ b && !(m.ctx n).harvest && m.clusterTaken n (b % 32)) then m
  else
    let m := m.putMmio (ctxOffset n + 224 + i) (if 128 ≤ b then 0 else BitVec.ofNat 8 b)
    m.modCtx n (fun c =>
      let c := { c with cmap := if 128 ≤ b then c.cmap.set i (BitVec.ofNat 8 (b % 32)) else c.cmap.erase i }
      { c with samin := c.saNeed })

/-- The host may write byte o of this entry now (R388, R389). -/
def Ctx.writable (c : Ctx) (o : Nat) : Bool :=
  if 184 ≤ o && o < 192 || 168 ≤ o && o < 172 || o == 0 || o == 2 then false
  else if 192 ≤ o && o < 196 then c.fqcons
  else c.state == .free || o == 142 || o == 143

/-- Byte o of context entry n is stored. FQHEAD and CMD are treated whole, apart. -/
def Mach.storeCtxByte (m : Mach) (n o b : Nat) : Mach :=
  let raw (m : Mach) (x : Nat) : Mach := m.putMmio (ctxOffset n + o) (BitVec.ofNat 8 x)
  let set (f : Ctx → Ctx) : Mach := m.modCtx n f
  if 224 ≤ o then m.writeCmap n (o - 224) b
  else if 208 ≤ o then raw m b
  else if 200 ≤ o then set (fun c => { c with wlbase := withByte c.wlbase (o - 200) b })
  else if 196 ≤ o then set (fun c => { c with wlcount := withByte c.wlcount (o - 196) b })
  else if 184 ≤ o then m
  else if 176 ≤ o then set (fun c => { c with laybase := BitVec.ofNat 56 (withByte c.laybase.toNat (o - 176) b) })
  else if 172 ≤ o then set (fun c => { c with laycount := withByte c.laycount (o - 172) b })
  else if 168 ≤ o then m
  else if 160 ≤ o then set (fun c => { c with sabase := withByte c.sabase (o - 160) b })
  else if 156 ≤ o then set (fun c => { c with sasize := withByte c.sasize (o - 156) b })
  else if 152 ≤ o then raw m b
  else if 144 ≤ o then set (fun c => { c with ptroot := withByte c.ptroot (o - 144) b })
  else if 142 ≤ o then set (fun c => { c with callow := BitVec.ofNat 16 (withByte c.callow.toNat (o - 142) b) })
  else match o with
    | 141 => set (fun c => { c with fqsize := b })
    | 140 => raw (set (fun c => { c with fqcons := b % 2 = 1 })) (b - b % 2)
    | 139 => raw (set (fun c =>
        let c := { c with harvest := b.testBit 0, viral := b.testBit 1 }
        { c with samin := c.saNeed })) (b - b % 4)
    | 0 => m
    | 1 => m
    | 2 => m
    | _ => raw m b

/-! ### Context commands (R389) -/

/-- The command is over: STATUS is written and CMD cleared. -/
def Mach.ctxAnswer (m : Mach) (n : Nat) (refused : Bool) : Mach := m.modCtx n (fun c => { c with refused, cmd := 0 })

/-- A reserved bit of the entry is set. -/
def Mach.ctxReserved (m : Mach) (n : Nat) : Bool :=
  let raw (o : Nat) : Bool := m.mmioByte (ctxOffset n + o) != 0
  (List.range 138).any (fun i => 3 ≤ i && raw i) || raw 138 || raw 139 || raw 140 ||
  (List.range 4).any (fun i => raw (152 + i)) || (List.range 16).any (fun i => raw (208 + i))

/-- CREATE is REFUSED (R389). -/
def Mach.createRefused (m : Mach) (n : Nat) : Bool :=
  let c := m.ctx n
  c.state != .free || m.ctxReserved n || c.fqsize < 6 || 16 < c.fqsize || c.sasize < c.samin || c.sabase % 65536 != 0 ||
  Config.dramBytes < c.sabase + c.sasize * 1048576 || (if c.harvest then !c.cmap.isEmpty else c.cmap.any (fun e => m.clusterTaken n e.2.toNat))

/-- CREATE. -/
def Mach.create (m : Mach) (n : Nat) : Mach :=
  if m.createRefused n then m.ctxAnswer n true
  else
    let draw := m.creates + 1
    ({ m with creates := draw }.modCtx n (fun c => { c with
      state := .live, sealDraw := draw, fqhead := 0, fqtail := 0, fqlost := 0, fqseq := 0, fq := [], popped := []
      unposted := [], bindings := [], reserve := [], reserveSeq := 0, reserveStalled := false, remap := none })).ctxAnswer
        n false

/-- The cores of a context's clusters. -/
def Mach.ctxCores (m : Mach) (n : Nat) : List Nat :=
  ((m.ctx n).cmap.map (fun e => e.2.toNat)).eraseDups.flatMap (fun cl => (List.range 8).map (8 * cl + ·))

/-- A switch of the context begins on these cores; no group waits for its status. -/
def Mach.switchOn (m : Mach) (n op : Nat) (cores : List Nat) : Mach :=
  let (uid, m) := m.fresh
  cores.foldl (fun m core =>
    let o : CoreOp := { op, ctx := n, slot := 0, uid, kd := 47, pages := [], due := 0 }
    if op = opSave then m.startSave core o else m.startRestore core o) m

/-- SUSPEND and RESUME: a command that is under way already goes on. -/
def Mach.switchCtx (m : Mach) (n cmd op : Nat) (ok : Bool) : Mach :=
  if (m.ctx n).cmd != 0 then m
  else if !ok then m.ctxAnswer n true
  else ((m.modCtx n (fun c => { c with cmd })).switchOn n op (m.ctxCores n)).settleCtx n

def Mach.suspend (m : Mach) (n : Nat) : Mach :=
  m.switchCtx n 2 opSave ((m.ctx n).state == .live && !(m.ctx n).harvest)

def Mach.resume (m : Mach) (n : Nat) : Mach := m.switchCtx n 3 opRestore ((m.ctx n).state == .suspended)

/-- TEARDOWN is REFUSED of a FREE context. -/
def Mach.teardownCmd (m : Mach) (me n : Nat) : Mach :=
  if (m.ctx n).state == .free then m.ctxAnswer n true else m.teardown me n

/-- A write of CMD (R389). -/
def Mach.ctxCommand (m : Mach) (me n cmd : Nat) : Mach :=
  match cmd with
  | 0 => m
  | 1 => m.create n
  | 2 => m.suspend n
  | 3 => m.resume n
  | 4 => m.teardownCmd me n
  | _ => m.ctxAnswer n true

/-- A write of `size` bytes at byte o of context entry n (R388, R389). -/
def Mach.writeCtx (m : Mach) (me n o size value : Nat) : Mach :=
  let c := m.ctx n
  let m := (List.range size).foldl (fun m i =>
    if c.writable (o + i) then m.storeCtxByte n (o + i) (byteOf value i) else m) m
  let m := if o ≤ 192 && 196 ≤ o + size && c.fqcons then
      m.modCtx n (fun c => c.headTo (BitVec.ofNat 32 (value / 256 ^ (192 - o)))) else m
  if o = 0 then m.ctxCommand me n (byteOf value 1) else m

/-- CREATE (R389). -/
def execCreate (ctx : Nat) (s : State) : Host.Outcome State Fault Refusal :=
  s.host (fun m => if ctx < 4096 then m.create ctx else m)

/-- SUSPEND (R389). -/
def execSuspend (ctx : Nat) (s : State) : Host.Outcome State Fault Refusal :=
  s.host (fun m => if ctx < 4096 then m.suspend ctx else m)

/-- RESUME (R389). -/
def execResume (ctx : Nat) (s : State) : Host.Outcome State Fault Refusal :=
  s.host (fun m => if ctx < 4096 then m.resume ctx else m)

/-- TEARDOWN (R389). -/
def execTeardown (ctx : Nat) (s : State) : Host.Outcome State Fault Refusal :=
  s.host (fun m => if ctx < 4096 then m.teardownCmd s.dev.number ctx else m)

/-- FAULT_QUEUE_HEAD_WRITE (R122, R388). -/
def execFaultQueueHeadWrite (ctx : Nat) (head : Word) (s : State) : Host.Outcome State Fault Refusal :=
  s.host (fun m => if ctx < 4096 && (m.ctx ctx).fqcons then m.modCtx ctx (fun c => c.headTo head) else m)

/-- HOST_XLINV (R401). -/
def execHostXlinv (ctx : Nat) (start : Va) (pages : Nat) (s : State) : Host.Outcome State Fault Refusal :=
  s.host (fun m => m.xlinv ctx start pages)

/-! ### Bindings (R108, R390) -/

/-- A write of a binding's flags; QCB and CONTEXT are written only while EN is 0, and nothing of a write that sets EN and cannot enable
the queue (R390). -/
def Mach.writeBinding (m : Mach) (q : Nat) (qcb : Option Va) (ctx : Option Nat) (flags : Option (Bool × Bool)) : Mach :=
  let x := m.queues.getD q {}
  let put (m : Mach) : Mach := if x.en then m else m.modQueue q (fun x => { x with qcb := qcb.getD x.qcb, ctx := ctx.getD x.ctx })
  match flags with
  | none => put m
  | some (en, keep) =>
    let m' := (put m).modQueue q (fun x => { x with keep })
    if !en then m'.modQueue q (fun x => { x with en := false, enabling := false })
    else if x.en then m'
    else
      let on := m'.enableQueue q
      if (on.queues.getD q {}).en then on else m

/-- KEEP of a binding is written while the device runs detached (R395). -/
def Mach.writeKeep (m : Mach) (q : Nat) (keep : Bool) : Mach := m.modQueue q (fun x => { x with keep })

/-- The host reaches a device that runs detached: it may read, and write KEEP and COMMIT (R395). -/
def State.detached (s : State) : Bool := s.dev.linkUp && s.dev.attach == 2

/-- A write of `size` bytes at byte o of binding q. -/
def Mach.storeBinding (m : Mach) (q o size value : Nat) : Mach :=
  let x := m.queues.getD q {}
  let at' (k : Nat) : Option Nat := if o ≤ k && k < o + size then some (byteOf value (k - o)) else none
  let merge (lo n old : Nat) : Nat := (List.range n).foldl (fun v i => match at' (lo + i) with
    | some b => withByte v i b
    | none => v) old
  m.writeBinding q (some (BitVec.ofNat 56 (merge 8 8 x.qcb.toNat))) (some (merge 6 2 x.ctx))
    ((at' 0).map (fun b => (b.testBit 0, b.testBit 1)))

/-- BINDING_ENABLE (R390): while the device runs detached, only KEEP is written (R395). -/
def execBindingEnable (index : Nat) (qcb : Va) (ctx : Nat) (en keep : Bool) (s : State) : Host.Outcome State Fault Refusal :=
  if s.mmio then s.host (fun m =>
    if index < 256 && ctx < 65536 then m.writeBinding index (some qcb) (some ctx) (some (en, keep)) else m)
  else .next (if s.detached && index < 256 then { s with mach := s.mach.writeKeep index keep } else s)

/-! ### Wakes and host waiters (R108, R134, R135, R392) -/

/-- A WAKE of a word by the host acts as the instruction does (R303). -/
def Mach.hostWake (m : Mach) (ctx : Nat) (va : Va) : Mach := (m.wakeKey ctx va).wakeQueues ctx va

/-- HOST_WAKE. -/
def execHostWake (va : Va) (ctx : Nat) (s : State) : Host.Outcome State Fault Refusal :=
  if s.mmio then .next { s with mach := s.mach.hostWake ctx va, dev := { s.dev with wakeVa := va } } else .next s

/-- A host thread registers on a word (R134, R392): the status is 0 registered, 1 woken at once, 2 FULL. A word that cannot be
read now, or reads uncorrectable (R83), is not armed. -/
def Mach.register (m : Mach) (va : Va) (ctx line : Nat) (expected : Word) : Mach × Nat :=
  match m.ctxXlate ctx va with
  | (m, .ok l _) =>
    let m := m.noteRead l 4 none ctx 0 none 1 va.toNat
    if m.anyClass l 4 none SecClass.bad then (m, 1)
    else match m.arm ctx va l expected { host := some line, core := 0, slot := 0, uid := 0 } with
    | (m, .registered) => (m, 0)
    | (m, .woken) => (m, 1)
    | (m, .full) => (m, 2)
  | (m, _) => (m, 1)

/-- HOST_REGISTRATION, at offset 0 of the window: its status is read there (R392). -/
def execHostRegistration (va : Va) (ctx line : Nat) (expected : Word) (s : State) : Host.Outcome State Fault Refusal :=
  if s.mmio then
    let r := s.mach.register va ctx (line % 65536) expected
    .next { s with mach := r.1, dev := { s.dev with regStatus := s.dev.regStatus.set 0 r.2 } }
  else .next s

end Sys2Proof.Machine
end

