-- ==== Sys2Proof/Machine/Attach.lean ====
section
/-! DEFINITION. The host link and bring-up: detach, failure and re-attach (R377, R378, R395), core and inspection resets (R367,
R378), power-on and the factors (R405 to R407). -/

namespace Sys2Proof.Machine

/-! ### Detach and failure (R377, R378, R395) -/

/-- The contexts that p holds of. -/
def Mach.ctxsWhere (m : Mach) (p : Ctx → Bool) : List Nat := (m.ctxs.filter (fun e => p e.2)).map (·.1)

/-- DETACH (R395): resumable contexts go on as after a failure, viral ones are torn down. -/
def execDetach (s : State) : Host.Outcome State Fault Refusal :=
  .next (if !s.mmio then s
    else
      let vs := s.mach.ctxsWhere (fun c => c.viral && c.state != .free)
      let m := vs.foldl (fun m n => m.teardown s.dev.number n) s.mach
      { s with mach := { m with linkDown := true }, dev := { s.dev with attach := 2 } })

/-- A viral context is resident on some core (R378). -/
def Mach.viralResident (m : Mach) : Bool := m.cores.any (fun e => e.2.groups.any (fun g => g.2.id.viral))

/-- LINK_FAILURE (R377, R378, R440): after a DETACH only the event is posted. -/
def execLinkFailure (s : State) : Host.Outcome State Fault Refusal :=
  .next (if !s.dev.linkUp then s
    else
      let m := s.mach.postEvent 5 0xFFFF 0 0
      if s.dev.attach != 1 then { s with mach := m, dev := { s.dev with linkUp := false } }
      else { s with
        mach := { m with linkDown := true, viral := m.viral || m.viralResident }
        dev := { s.dev with linkUp := false, attach := 2 } })

/-- LINK_UP (R440). -/
def execLinkUp (s : State) : Host.Outcome State Fault Refusal :=
  .next (if s.dev.linkUp then s
    else { s with mach := s.mach.postEvent 5 0xFFFF 0 1, dev := { s.dev with linkUp := true } })

/-! ### Re-attach (R106, R110, R395) -/

/-- The control block of a kept queue still has the device's generation. -/
def Mach.sameGen (m : Mach) (x : Queue) : Bool :=
  match (m.ctxRead x.ctx x.qcb 32).2 with
  | .bytes bs => (controlBlock bs).gen == x.gen
  | _ => false

/-- A queue is drained and torn down (R110): its TAKEN entries are abandoned, also one that is not judged yet, one whose rejection is not
stored yet, and those of launches whose last stores have had to wait; the groups of its launches are killed. -/
def Mach.drainQueue (m : Mach) (q : Nat) : Mach :=
  let x := m.queues.getD q {}
  let ids := (m.launches.filter (fun e => e.2.queue == q && !e.2.stored)).map (·.1)
  let late := (m.launches.filter (fun e => e.2.queue == q && e.2.done && !e.2.stored)).map (·.1)
  let gone (j : OwnJob) : Bool := j.queue == some q && (x.taking.isSome || j.rejecting.isSome) ||
    j.steps.any (fun s => match s with | .finish id => late.contains id | _ => false)
  let vas := (x.taking.map (·.1)).toList ++ ((m.jobs.filter gone).filter (fun j => j.queue == some q)).filterMap OwnJob.rejecting
  let m := { m with jobs := m.jobs.filter (fun j => !gone j) }.drainEntries x.ctx vas
  let m := { m.modQueue q (fun x => { x with en := false, enabling := false, token := none, taking := none }) with
    launches := m.launches.mapVals (fun i l => if ids.contains i then { l with abandoned := true } else l) }
  let m := late.foldl (fun m id => match m.launches.get? id with
    | some l => m.ownSteps l.ctx [.store l.entryVa [5], .finish id]
    | none => m) m
  (m.groupsWhere (fun _ g => ids.contains g.id.launch)).foldl (fun m g => m.kill g.1 g.2.1 g.2.2.uid none) m

/-- The records of a context's host-write reserve drain in their order (R106), and the words they change wake (R134). -/
def Mach.drainReserve (m : Mach) (n : Nat) : Mach :=
  let rs := (m.ctx n).reserve
  (rs.foldl (fun m r => (m.hostStore n r.line r.mask r.data).wakeLine (.host r.line))
    (m.modCtx n (fun c => { c with reserve := [], reserveStalled := false })))

/-- Steps 4 to 6 of the re-attach. -/
def Mach.commit (m : Mach) : Mach :=
  let m := { m with linkDown := false }
  let on := m.queues.filter (fun e => e.2.en)
  let lost := on.filter (fun e => !(e.2.keep && m.sameGen e.2))
  let m := lost.foldl (fun m e => m.drainQueue e.1) m
  let m := (m.ctxs.map (·.1)).foldl Mach.drainReserve m
  let m := { m with queues := m.queues.mapVals (fun _ x => { x with keep := false }) }
  ((m.queues.filter (fun e => e.2.en)).foldl (fun m e => m.resumeQueue e.1) m).serveJobs

/-- COMMIT (R395). -/
def execCommit (s : State) : Host.Outcome State Fault Refusal :=
  .next (if !s.dev.linkUp || s.dev.attach != 2 || s.mach.viral then s
    else { s with mach := s.mach.commit, dev := { s.dev with attach := 1 } })

/-! ### Resets (R367, R378) -/

/-- CORE_RESET (R367). -/
def execCoreReset (core : Nat) (s : State) : Host.Outcome State Fault Refusal :=
  s.host (fun m => if core < 256 then m.coreReset s.dev.number core else m)

/-- Every core is reset, and device memory and the context table stay (R378): nothing is resumed or settled. -/
def Mach.inspection (m : Mach) : Mach :=
  { m with
    cores := m.cores.mapVals (fun _ c => { c.restart with harvestCtx := none, dicts := [], congestion := [], meshSum := [] })
    clusters := [], msgs := [], waitTab := [], replies := [], walker := [], launches := [], fabricAtomics := [], jobs := [], outbox := [], halves := []
    queues := m.queues.mapVals (fun _ x => { x with en := false, enabling := false, token := none, taking := none })
    viral := false, linkDown := false }

/-- INSPECTION_RESET (R378): the only way out of the viral state. -/
def execInspectionReset (s : State) : Host.Outcome State Fault Refusal :=
  .next (if s.dev.linkUp && s.mach.viral then
    { s with mach := s.mach.inspection, dev := { s.dev with attach := 1 } } else s)

/-! ### Power-on and the factors (R405 to R407) -/

/-- Leaves of the identity key (R407). -/
def identityLeaves : Nat := 1048576

/-- The machine after power-on: what lies outside the device stays, and no number is drawn twice. -/
def Mach.powerOn (m : Mach) : Mach :=
  { hostMem := m.hostMem, peers := m.peers, peerTags := m.peerTags, peerEcc := m.peerEcc, fabric := m.fabric, nextUid := m.nextUid, draws := m.draws, creates := m.creates }

/-- The device after power-on (R406): plane 0 lit, every die at level 2, 1,024 leaves skipped (R407). -/
def Device.powerOn (d : Device) (image : Nat) : Device :=
  { fwVersion := image, fuseVersion := d.fuseVersion, leaf := d.leaf + 1024, exhausted := identityLeaves ≤ d.leaf + 1024 }

/-- POWER_ON (R405, R406): an image that does not verify, or is older than the fuses allow, stops the boot. -/
def execPowerOn (signatureOk : Bool) (s : State) : Host.Outcome State Fault Refusal :=
  let image := s.dev.newImage.getD s.dev.fwVersion
  .next (if signatureOk && s.dev.fuseVersion ≤ image then
      { s with curCore := 0, curLane := 0, mach := s.mach.powerOn, dev := s.dev.powerOn image }
    else { s with dev := { s.dev with attach := 0, running := false } })

/-- The host reaches the factors' mailbox, which a failed boot leaves open (R405). -/
def State.mailbox (s : State) : Bool := s.dev.linkUp && s.dev.attach != 2

/-- FIRMWARE_UPDATE (R405). -/
def execFirmwareUpdate (version : Nat) (s : State) : Host.Outcome State Fault Refusal :=
  .next (if s.mailbox then { s with dev := { s.dev with newImage := some version } } else s)

/-- ATTESTATION (R407): a report uses the next leaf, and EXHAUSTED when none remains. -/
def execAttestation (nonce : BitVec 256) (s : State) : Host.Outcome State Fault Refusal :=
  .next (if !s.mailbox then s
    else if identityLeaves ≤ s.dev.leaf then { s with dev := { s.dev with exhausted := true } }
    else { s with dev := { s.dev with leaf := s.dev.leaf + 1, reports := s.dev.reports + 1, nonce } })

end Sys2Proof.Machine
end

