-- ==== Sys2Proof/Machine/Float.lean ====
section
/-! DEFINITION. Row 6 of the opcode map: FP32 arithmetic (R219 to R221). FRCP to FSIG are scoreboarded (R197). -/

namespace Sys2Proof.Machine

/-- FADD (R219, R220). -/
def bodyFadd : Body := alu tagF fun g f t => BitVec.ofNat 32 (f32.addB (opA g f t).toNat (opB g f t).toNat)
def execFadd (w : WordA) (s : State) : Host.Outcome State Fault Refusal :=
  issue 4 (fieldsA 0x60 w) bodyFadd s

/-- FSUB (R219, R220). -/
def bodyFsub : Body := alu tagF fun g f t => BitVec.ofNat 32 (f32.subB (opA g f t).toNat (opB g f t).toNat)
def execFsub (w : WordA) (s : State) : Host.Outcome State Fault Refusal :=
  issue 4 (fieldsA 0x61 w) bodyFsub s

/-- FMUL (R219, R220). -/
def bodyFmul : Body := alu tagF fun g f t => BitVec.ofNat 32 (f32.mulB (opA g f t).toNat (opB g f t).toNat)
def execFmul (w : WordA) (s : State) : Host.Outcome State Fault Refusal :=
  issue 4 (fieldsA 0x62 w) bodyFmul s

/-- FFMA (R219, R220). -/
def bodyFfma : Body := alu tagF fun g f t => BitVec.ofNat 32 (f32.fmaB (opA g f t).toNat (opB g f t).toNat (opD g f t).toNat)
def execFfma (w : WordA) (s : State) : Host.Outcome State Fault Refusal :=
  issue 4 (fieldsA 0x63 w) bodyFfma s

/-- FMIN (R219, R164). -/
def bodyFmin : Body := alu tagF fun g f t => BitVec.ofNat 32 (f32.minB (opA g f t).toNat (opB g f t).toNat)
def execFmin (w : WordA) (s : State) : Host.Outcome State Fault Refusal :=
  issue 4 (fieldsA 0x64 w) bodyFmin s

/-- FMAX (R219, R164). -/
def bodyFmax : Body := alu tagF fun g f t => BitVec.ofNat 32 (f32.maxB (opA g f t).toNat (opB g f t).toNat)
def execFmax (w : WordA) (s : State) : Host.Outcome State Fault Refusal :=
  issue 4 (fieldsA 0x65 w) bodyFmax s

/-- FNEG (R219). -/
def bodyFneg : Body := alu tagF fun g f t => opA g f t ^^^ 0x80000000
def execFneg (w : WordA) (s : State) : Host.Outcome State Fault Refusal :=
  issue 4 (fieldsA 0x66 w) bodyFneg s

/-- FABS (R219). -/
def bodyFabs : Body := alu tagF fun g f t => opA g f t &&& 0x7FFFFFFF
def execFabs (w : WordA) (s : State) : Host.Outcome State Fault Refusal :=
  issue 4 (fieldsA 0x67 w) bodyFabs s

/-- FRCP (R219, R221). -/
def bodyFrcp : Body := aluLater 3 fun g f t => BitVec.ofNat 32 (Sys2Proof.Machine.frcp (opA g f t))
def execFrcp (w : WordA) (s : State) : Host.Outcome State Fault Refusal :=
  issue 4 (fieldsA 0x68 w) bodyFrcp s

/-- FRSQ (R219, R221). -/
def bodyFrsq : Body := aluLater 3 fun g f t => BitVec.ofNat 32 (Sys2Proof.Machine.frsq (opA g f t))
def execFrsq (w : WordA) (s : State) : Host.Outcome State Fault Refusal :=
  issue 4 (fieldsA 0x69 w) bodyFrsq s

/-- FSQRT (R219, R221). -/
def bodyFsqrt : Body := aluLater 3 fun g f t => BitVec.ofNat 32 (Sys2Proof.Machine.fsqrt (opA g f t))
def execFsqrt (w : WordA) (s : State) : Host.Outcome State Fault Refusal :=
  issue 4 (fieldsA 0x6A w) bodyFsqrt s

/-- FEXP2 (R219, R221). -/
def bodyFexp2 : Body := aluLater 3 fun g f t => BitVec.ofNat 32 (Sys2Proof.Machine.fexp2 (opA g f t))
def execFexp2 (w : WordA) (s : State) : Host.Outcome State Fault Refusal :=
  issue 4 (fieldsA 0x6B w) bodyFexp2 s

/-- FLOG2 (R219, R221). -/
def bodyFlog2 : Body := aluLater 3 fun g f t => BitVec.ofNat 32 (Sys2Proof.Machine.flog2 (opA g f t))
def execFlog2 (w : WordA) (s : State) : Host.Outcome State Fault Refusal :=
  issue 4 (fieldsA 0x6C w) bodyFlog2 s

/-- FTANH (R219, R221). -/
def bodyFtanh : Body := aluLater 3 fun g f t => BitVec.ofNat 32 (Sys2Proof.Machine.ftanh (opA g f t))
def execFtanh (w : WordA) (s : State) : Host.Outcome State Fault Refusal :=
  issue 4 (fieldsA 0x6D w) bodyFtanh s

/-- FSIG (R219, R221). -/
def bodyFsig : Body := aluLater 3 fun g f t => BitVec.ofNat 32 (Sys2Proof.Machine.fsig (opA g f t))
def execFsig (w : WordA) (s : State) : Host.Outcome State Fault Refusal :=
  issue 4 (fieldsA 0x6E w) bodyFsig s

/-- FADDMIN (R219, R220). -/
def bodyFaddmin : Body := alu tagF fun g f t => BitVec.ofNat 32 (f32.minB (opD g f t).toNat (f32.addB (opA g f t).toNat (opB g f t).toNat))
def execFaddmin (w : WordA) (s : State) : Host.Outcome State Fault Refusal :=
  issue 4 (fieldsA 0x6F w) bodyFaddmin s

end Sys2Proof.Machine
end

