-- ==== Sys2Proof/Machine/Integer.lean ====
section
/-! DEFINITION. Rows 1 and 2 of the opcode map: integer arithmetic, immediates, 64-bit operations and selection (R208 to R211). -/

namespace Sys2Proof.Machine

/-- IADD (R208). -/
def bodyIadd : Body := alu mixAB fun g f t => opA g f t + opB g f t
def execIadd (w : WordA) (s : State) : Host.Outcome State Fault Refusal :=
  issue 4 (fieldsA 0x10 w) bodyIadd s

/-- ISUB (R208). -/
def bodyIsub : Body := alu mixAB fun g f t => opA g f t - opB g f t
def execIsub (w : WordA) (s : State) : Host.Outcome State Fault Refusal :=
  issue 4 (fieldsA 0x11 w) bodyIsub s

/-- IMUL (R208). -/
def bodyImul : Body := alu mixAB fun g f t => opA g f t * opB g f t
def execImul (w : WordA) (s : State) : Host.Outcome State Fault Refusal :=
  issue 4 (fieldsA 0x12 w) bodyImul s

/-- IMULHS (R208). -/
def bodyImulhs : Body := alu tagS fun g f t => BitVec.ofInt 32 (((opA g f t).toInt * (opB g f t).toInt) / 4294967296)
def execImulhs (w : WordA) (s : State) : Host.Outcome State Fault Refusal :=
  issue 4 (fieldsA 0x13 w) bodyImulhs s

/-- IMULHN (R208). -/
def bodyImulhn : Body := alu tagN fun g f t => BitVec.ofNat 32 (((opA g f t).toNat * (opB g f t).toNat) >>> 32)
def execImulhn (w : WordA) (s : State) : Host.Outcome State Fault Refusal :=
  issue 4 (fieldsA 0x14 w) bodyImulhn s

/-- IMAD (R208). -/
def bodyImad : Body := alu mixABD fun g f t => opA g f t * opB g f t + opD g f t
def execImad (w : WordA) (s : State) : Host.Outcome State Fault Refusal :=
  issue 4 (fieldsA 0x15 w) bodyImad s

/-- IABS (R208). -/
def bodyIabs : Body := alu mixA fun g f t => if (opA g f t).msb then 0 - opA g f t else opA g f t
def execIabs (w : WordA) (s : State) : Host.Outcome State Fault Refusal :=
  issue 4 (fieldsA 0x16 w) bodyIabs s

/-- INEG (R208). -/
def bodyIneg : Body := alu mixA fun g f t => 0 - opA g f t
def execIneg (w : WordA) (s : State) : Host.Outcome State Fault Refusal :=
  issue 4 (fieldsA 0x17 w) bodyIneg s

/-- IMIN_S (R208). -/
def bodyIminS : Body := alu tagS fun g f t => minS (opA g f t) (opB g f t)
def execIminS (w : WordA) (s : State) : Host.Outcome State Fault Refusal :=
  issue 4 (fieldsA 0x18 w) bodyIminS s

/-- IMIN_N (R208). -/
def bodyIminN : Body := alu tagN fun g f t => minN (opA g f t) (opB g f t)
def execIminN (w : WordA) (s : State) : Host.Outcome State Fault Refusal :=
  issue 4 (fieldsA 0x19 w) bodyIminN s

/-- IMAX_S (R208). -/
def bodyImaxS : Body := alu tagS fun g f t => maxS (opA g f t) (opB g f t)
def execImaxS (w : WordA) (s : State) : Host.Outcome State Fault Refusal :=
  issue 4 (fieldsA 0x1A w) bodyImaxS s

/-- IMAX_N (R208). -/
def bodyImaxN : Body := alu tagN fun g f t => maxN (opA g f t) (opB g f t)
def execImaxN (w : WordA) (s : State) : Host.Outcome State Fault Refusal :=
  issue 4 (fieldsA 0x1B w) bodyImaxN s

/-- IADDMIN_S (R208). -/
def bodyIaddminS : Body := alu tagS fun g f t => minS (opD g f t) (satS ((opA g f t).toInt + (opB g f t).toInt))
def execIaddminS (w : WordA) (s : State) : Host.Outcome State Fault Refusal :=
  issue 4 (fieldsA 0x1C w) bodyIaddminS s

/-- IADDSAT_S (R208). -/
def bodyIaddsatS : Body := alu tagS fun g f t => satS ((opA g f t).toInt + (opB g f t).toInt)
def execIaddsatS (w : WordA) (s : State) : Host.Outcome State Fault Refusal :=
  issue 4 (fieldsA 0x1D w) bodyIaddsatS s

/-- ISUBSAT_S (R208). -/
def bodyIsubsatS : Body := alu tagS fun g f t => satS ((opA g f t).toInt - (opB g f t).toInt)
def execIsubsatS (w : WordA) (s : State) : Host.Outcome State Fault Refusal :=
  issue 4 (fieldsA 0x1E w) bodyIsubsatS s

/-- IADDMAX_S (R208). -/
def bodyIaddmaxS : Body := alu tagS fun g f t => maxS (opD g f t) (satS ((opA g f t).toInt + (opB g f t).toInt))
def execIaddmaxS (w : WordA) (s : State) : Host.Outcome State Fault Refusal :=
  issue 4 (fieldsA 0x1F w) bodyIaddmaxS s

/-- IADDI (R209). -/
def bodyIaddi : Body := alu mixD fun g f t => opD g f t + immS f
def execIaddi (w : WordI) (s : State) : Host.Outcome State Fault Refusal :=
  issue 4 (fieldsI 0x20 w) bodyIaddi s

/-- IMULI (R209). -/
def bodyImuli : Body := alu mixD fun g f t => opD g f t * immS f
def execImuli (w : WordI) (s : State) : Host.Outcome State Fault Refusal :=
  issue 4 (fieldsI 0x21 w) bodyImuli s

/-- ANDI (R209). -/
def bodyAndi : Body := alu mixD fun g f t => opD g f t &&& immS f
def execAndi (w : WordI) (s : State) : Host.Outcome State Fault Refusal :=
  issue 4 (fieldsI 0x22 w) bodyAndi s

/-- ORI (R209). -/
def bodyOri : Body := alu mixD fun g f t => opD g f t ||| immS f
def execOri (w : WordI) (s : State) : Host.Outcome State Fault Refusal :=
  issue 4 (fieldsI 0x23 w) bodyOri s

/-- XORI (R209). -/
def bodyXori : Body := alu mixD fun g f t => opD g f t ^^^ immS f
def execXori (w : WordI) (s : State) : Host.Outcome State Fault Refusal :=
  issue 4 (fieldsI 0x24 w) bodyXori s

/-- SHLI (R209). -/
def bodyShli : Body := alu mixD fun g f t => opD g f t <<< f.imm.toNat
def execShli (w : WordI) (s : State) : Host.Outcome State Fault Refusal :=
  issue 4 (fieldsI 0x25 w) bodyShli s

/-- SHRLI (R209). -/
def bodyShrli : Body := alu mixD fun g f t => opD g f t >>> f.imm.toNat
def execShrli (w : WordI) (s : State) : Host.Outcome State Fault Refusal :=
  issue 4 (fieldsI 0x26 w) bodyShrli s

/-- SHRAI (R209). -/
def bodyShrai : Body := alu mixD fun g f t => (opD g f t).sshiftRight f.imm.toNat
def execShrai (w : WordI) (s : State) : Host.Outcome State Fault Refusal :=
  issue 4 (fieldsI 0x27 w) bodyShrai s

/-- MOVI (R209, R198). -/
def bodyMovi : Body := alu tagS fun _ f _ => immS f
def execMovi (w : WordI) (s : State) : Host.Outcome State Fault Refusal :=
  issue 4 (fieldsI 0x28 w) bodyMovi s

/-- MOVHI (R209). -/
def bodyMovhi : Body := alu mixD fun g f t => (f.imm.setWidth 32 <<< 20) ||| (opD g f t &&& 0x000FFFFF)
def execMovhi (w : WordI) (s : State) : Host.Outcome State Fault Refusal :=
  issue 4 (fieldsI 0x29 w) bodyMovhi s

/-- LDK (R210, R436): the constant-pool word at CPOOL + 4 * IMM12, read under the line's own tag, with RD of the page. -/
def bodyLdk : Body := fun _ w m => withGroup w m fun g =>
  let ts := g.actors w.f
  if ts = [] then .ok m
  else
    let va := g.id.cpool + BitVec.ofNat 56 (4 * w.f.imm.toNat)
    match m.readVa w.core g va 4 none with
    | .error t => .error t
    | .ok (m, bs) =>
      let x := BitVec.ofNat 32 (leNat bs)
      .ok (defer w m g 0 (writeAll w.f.fd ts x ++ resultTag ts w.f.fd 1 0) (regItems w.f.fd 1))
def execLdk (w : WordI) (s : State) : Host.Outcome State Fault Refusal :=
  issue 4 (fieldsI 0x2A w) bodyLdk s

/-- IADD64 (R211). -/
def bodyIadd64 : Body := alu64 mixAB fun g f t => g.reg64 f.fa t + g.reg64 f.fb t
def execIadd64 (w : WordA) (s : State) : Host.Outcome State Fault Refusal :=
  issue 4 (fieldsA 0x2B w) bodyIadd64 s

/-- ISUB64 (R211). -/
def bodyIsub64 : Body := alu64 mixAB fun g f t => g.reg64 f.fa t - g.reg64 f.fb t
def execIsub64 (w : WordA) (s : State) : Host.Outcome State Fault Refusal :=
  issue 4 (fieldsA 0x2C w) bodyIsub64 s

/-- IMADW (R211). -/
def bodyImadw : Body := alu64 mixABD fun g f t =>
  BitVec.ofInt 64 ((opA g f t).toInt * (opB g f t).toInt) + g.reg64 f.fd t
def execImadw (w : WordA) (s : State) : Host.Outcome State Fault Refusal :=
  issue 4 (fieldsA 0x2D w) bodyImadw s

/-- ICMPI_S (R211). -/
def bodyIcmpiS : Body := predAlu fun g f t => ccSigned f.cc.toNat (opA g f t) (f.fb.signExtend 32)
def execIcmpiS (w : WordC) (s : State) : Host.Outcome State Fault Refusal :=
  issue 4 (fieldsC 0x2E w) bodyIcmpiS s

/-- SEL (R211): every active thread takes part; the guard chooses A or B. -/
def bodySel : Body := fun _ w m => withGroup w m fun g =>
  let ts := if w.f.u then g.active.head?.toList else g.active
  .ok (commit w m ((passes (fun g' t => writeField w.f.fd t (if g'.guard w.f.g t then opA g' w.f t else opB g' w.f t)) g
    ts).2 ++ resultTag ts w.f.fd 1 (tagCommon g w.f)))
def execSel (w : WordA) (s : State) : Host.Outcome State Fault Refusal :=
  issue 4 (fieldsA 0x2F w) bodySel s

end Sys2Proof.Machine
end

