-- ==== Sys2Proof/Machine/Logic.lean ====
section
/-! DEFINITION. Row 3 of the opcode map: logic and bit operations (R212, R213). Every result is tagged RAW. -/

namespace Sys2Proof.Machine

/-- Leading zeros of a word (R212). -/
def clz32 (x : Word) : Word := if x = 0 then 32 else BitVec.ofNat 32 (31 - x.toNat.log2)

/-- Trailing zeros of a word (R212). -/
def ctz32 (x : Word) : Word := BitVec.ofNat 32 (((List.range 32).find? (fun i => x.getLsbD i)).getD 32)

/-- Set bits of a word (R212). -/
def popc32 (x : Word) : Word := BitVec.ofNat 32 ((List.range 32).countP (fun i => x.getLsbD i))

/-- A word with its bits in the opposite order (R212). -/
def brev32 (x : Word) : Word := (List.range 32).foldl (fun a i => if x.getLsbD i then a ||| (1#32 <<< (31 - i)) else a) 0

/-- The field of len bits at pos that a second source describes: its mask before shifting (R213). -/
def fieldMask (b : Word) : Word := BitVec.ofNat 32 (2 ^ min (bitsOf b.toNat 8 6) 32 - 1)

/-- PRMB's selection (R213): bytes 0 to 3 of a and of d, and zero from 8 on. -/
def permuteBytes (a d b : Word) : Word :=
  BitVec.ofNat 32 ((List.range 4).foldl (fun x i =>
    let s := bitsOf b.toNat (4 * i) 4
    x + 2 ^ (8 * i) * (if 8 ≤ s then 0 else if s < 4 then bitsOf a.toNat (8 * s) 8 else bitsOf d.toNat (8 * (s - 4)) 8)) 0)

/-- AND (R212). -/
def bodyAnd : Body := alu tagRaw fun g f t => opA g f t &&& opB g f t
def execAnd (w : WordA) (s : State) : Host.Outcome State Fault Refusal :=
  issue 4 (fieldsA 0x30 w) bodyAnd s

/-- OR (R212). -/
def bodyOr : Body := alu tagRaw fun g f t => opA g f t ||| opB g f t
def execOr (w : WordA) (s : State) : Host.Outcome State Fault Refusal :=
  issue 4 (fieldsA 0x31 w) bodyOr s

/-- XOR (R212). -/
def bodyXor : Body := alu tagRaw fun g f t => opA g f t ^^^ opB g f t
def execXor (w : WordA) (s : State) : Host.Outcome State Fault Refusal :=
  issue 4 (fieldsA 0x32 w) bodyXor s

/-- ANDN (R212). -/
def bodyAndn : Body := alu tagRaw fun g f t => opA g f t &&& ~~~(opB g f t)
def execAndn (w : WordA) (s : State) : Host.Outcome State Fault Refusal :=
  issue 4 (fieldsA 0x33 w) bodyAndn s

/-- NOT (R212). -/
def bodyNot : Body := alu tagRaw fun g f t => ~~~(opA g f t)
def execNot (w : WordA) (s : State) : Host.Outcome State Fault Refusal :=
  issue 4 (fieldsA 0x34 w) bodyNot s

/-- SHL (R212). -/
def bodyShl : Body := alu tagRaw fun g f t => opA g f t <<< ((opB g f t).toNat % 32)
def execShl (w : WordA) (s : State) : Host.Outcome State Fault Refusal :=
  issue 4 (fieldsA 0x35 w) bodyShl s

/-- SHRL (R212). -/
def bodyShrl : Body := alu tagRaw fun g f t => opA g f t >>> ((opB g f t).toNat % 32)
def execShrl (w : WordA) (s : State) : Host.Outcome State Fault Refusal :=
  issue 4 (fieldsA 0x36 w) bodyShrl s

/-- SHRA (R212). -/
def bodyShra : Body := alu tagRaw fun g f t => (opA g f t).sshiftRight ((opB g f t).toNat % 32)
def execShra (w : WordA) (s : State) : Host.Outcome State Fault Refusal :=
  issue 4 (fieldsA 0x37 w) bodyShra s

/-- ROTL (R212). -/
def bodyRotl : Body := alu tagRaw fun g f t => (opA g f t).rotateLeft ((opB g f t).toNat % 32)
def execRotl (w : WordA) (s : State) : Host.Outcome State Fault Refusal :=
  issue 4 (fieldsA 0x38 w) bodyRotl s

/-- CLZ (R212). -/
def bodyClz : Body := alu tagRaw fun g f t => clz32 (opA g f t)
def execClz (w : WordA) (s : State) : Host.Outcome State Fault Refusal :=
  issue 4 (fieldsA 0x39 w) bodyClz s

/-- CTZ (R212). -/
def bodyCtz : Body := alu tagRaw fun g f t => ctz32 (opA g f t)
def execCtz (w : WordA) (s : State) : Host.Outcome State Fault Refusal :=
  issue 4 (fieldsA 0x3A w) bodyCtz s

/-- POPC (R212). -/
def bodyPopc : Body := alu tagRaw fun g f t => popc32 (opA g f t)
def execPopc (w : WordA) (s : State) : Host.Outcome State Fault Refusal :=
  issue 4 (fieldsA 0x3B w) bodyPopc s

/-- BREV (R212). -/
def bodyBrev : Body := alu tagRaw fun g f t => brev32 (opA g f t)
def execBrev (w : WordA) (s : State) : Host.Outcome State Fault Refusal :=
  issue 4 (fieldsA 0x3C w) bodyBrev s

/-- BFX (R213). -/
def bodyBfx : Body := alu tagRaw fun g f t => (opA g f t >>> ((opB g f t).toNat % 32)) &&& fieldMask (opB g f t)
def execBfx (w : WordA) (s : State) : Host.Outcome State Fault Refusal :=
  issue 4 (fieldsA 0x3D w) bodyBfx s

/-- BFI (R213). -/
def bodyBfi : Body := alu tagRaw fun g f t =>
  let m := fieldMask (opB g f t) <<< ((opB g f t).toNat % 32)
  (opD g f t &&& ~~~m) ||| ((opA g f t <<< ((opB g f t).toNat % 32)) &&& m)
def execBfi (w : WordA) (s : State) : Host.Outcome State Fault Refusal :=
  issue 4 (fieldsA 0x3E w) bodyBfi s

/-- PRMB (R213). -/
def bodyPrmb : Body := alu tagRaw fun g f t => permuteBytes (opA g f t) (opD g f t) (opB g f t)
def execPrmb (w : WordA) (s : State) : Host.Outcome State Fault Refusal :=
  issue 4 (fieldsA 0x3F w) bodyPrmb s

end Sys2Proof.Machine
end

