-- ==== Sys2Proof/Machine/Predicates.lean ====
section
/-! DEFINITION. Row 4 of the opcode map: compares, predicates, moves and system registers (R214 to R216, R67 to R69). -/

namespace Sys2Proof.Machine

/-- ICMP_S (R214). -/
def bodyIcmpS : Body := predAlu fun g f t => ccSigned f.cc.toNat (opA g f t) (opB g f t)
def execIcmpS (w : WordC) (s : State) : Host.Outcome State Fault Refusal :=
  issue 4 (fieldsC 0x40 w) bodyIcmpS s

/-- ICMP_N (R214). -/
def bodyIcmpN : Body := predAlu fun g f t => ccUnsigned f.cc.toNat (opA g f t) (opB g f t)
def execIcmpN (w : WordC) (s : State) : Host.Outcome State Fault Refusal :=
  issue 4 (fieldsC 0x41 w) bodyIcmpN s

/-- FCMP (R214). -/
def bodyFcmp : Body := predAlu fun g f t => Sys2Proof.Machine.fcmp f.cc.toNat (opA g f t) (opB g f t)
def execFcmp (w : WordC) (s : State) : Host.Outcome State Fault Refusal :=
  issue 4 (fieldsC 0x42 w) bodyFcmp s

/-- PSET (R214). -/
def bodyPset : Body := predAlu fun _ f _ => f.cc == 1
def execPset (w : WordC) (s : State) : Host.Outcome State Fault Refusal :=
  issue 4 (fieldsC 0x43 w) bodyPset s

/-- PAND (R214). -/
def bodyPand : Body := predAlu fun g f t => g.pcode f.fa t && g.pcode f.fb t
def execPand (w : WordC) (s : State) : Host.Outcome State Fault Refusal :=
  issue 4 (fieldsC 0x44 w) bodyPand s

/-- POR (R214). -/
def bodyPor : Body := predAlu fun g f t => g.pcode f.fa t || g.pcode f.fb t
def execPor (w : WordC) (s : State) : Host.Outcome State Fault Refusal :=
  issue 4 (fieldsC 0x45 w) bodyPor s

/-- PXOR (R214). -/
def bodyPxor : Body := predAlu fun g f t => g.pcode f.fa t != g.pcode f.fb t
def execPxor (w : WordC) (s : State) : Host.Outcome State Fault Refusal :=
  issue 4 (fieldsC 0x46 w) bodyPxor s

/-- PMOV (R214). -/
def bodyPmov : Body := predAlu fun g f t => g.pcode f.fa t
def execPmov (w : WordC) (s : State) : Host.Outcome State Fault Refusal :=
  issue 4 (fieldsC 0x47 w) bodyPmov s

/-- VOTE_ANY (R214). -/
def bodyVoteAny : Body := lanePred fun g f ts _ => ts.any (g.pcode f.fa)
def execVoteAny (w : WordC) (s : State) : Host.Outcome State Fault Refusal :=
  issue 4 (fieldsC 0x48 w) bodyVoteAny s

/-- VOTE_ALL (R214). -/
def bodyVoteAll : Body := lanePred fun g f ts _ => ts.all (g.pcode f.fa)
def execVoteAll (w : WordC) (s : State) : Host.Outcome State Fault Refusal :=
  issue 4 (fieldsC 0x49 w) bodyVoteAll s

/-- BALLOT (R215). -/
def bodyBallot : Body := laneAlu tagN fun g f ts _ => maskOf (ts.filter (g.pcode f.fa))
def execBallot (w : WordA) (s : State) : Host.Outcome State Fault Refusal :=
  issue 4 (fieldsA 0x4A w) bodyBallot s

/-- MOV (R215). -/
def bodyMov : Body := alu tagOfA fun g f t => opA g f t
def execMov (w : WordA) (s : State) : Host.Outcome State Fault Refusal :=
  issue 4 (fieldsA 0x4B w) bodyMov s

/-- MOVK (R215, R196): A of the lowest-numbered participant, written once to a k register. -/
def bodyMovk : Body := fun _ w m => withGroup w m fun g =>
  match g.participants w.f.g with
  | [] => .ok m
  | t :: _ => .ok (commit w m (writeField w.f.fd 0 (opA g w.f t)))
def execMovk (w : WordA) (s : State) : Host.Outcome State Fault Refusal :=
  issue 4 (fieldsA 0x4C w) bodyMovk s

/-- A system register as a group reads it (R67, R69, R434). -/
def Mach.sysReg (m : Mach) (core slot : Nat) (g : Group) (n t : Nat) : Word :=
  let c := m.core core
  match n with
  | 0x06 => (g.widOf t).setWidth 32
  | 0x07 => (g.widOf t).extractLsb' 32 32
  | 0x10 => BitVec.ofNat 32 (memberOf core)
  | 0x11 => BitVec.ofNat 32 (if g.id.sup then clusterOf core else g.id.logical)
  | 0x12 => BitVec.ofNat 32 (laneOf slot)
  | 0x13 => BitVec.ofNat 32 (slotOf slot)
  | 0x14 => BitVec.ofNat 32 g.id.role.num
  | 0x15 => BitVec.ofNat 32 g.id.ctx
  | 0x16 => BitVec.ofNat 32 ((if g.id.harvest then 1 else 0) + (if g.id.sup then 2 else 0) + (if g.id.viral then 4 else 0) +
      (if g.id.duplex then 8 else 0) + (if g.id.copyIndex then 16 else 0))
  | 0x17 => BitVec.ofNat 32 g.valloc
  | 0x18 => BitVec.ofNat 32 g.id.gindex
  | 0x19 => g.gang.setWidth 32
  | 0x20 => g.amask
  | 0x21 => BitVec.ofNat 32 g.depth
  | 0x22 => g.statusWord .issuing
  | 0x23 => g.bereave
  | 0x24 => g.callow.setWidth 32
  | 0x30 => c.meshp.setWidth 32
  | 0x31 => BitVec.ofNat 32 (c.poolUse g.id.harvest)
  | 0x32 => BitVec.ofNat 32 (c.poolCap g.id.harvest)
  | 0x40 => BitVec.ofNat 32 core
  | 0x41 => BitVec.ofNat 32 (clusterOf core)
  | i => g.widField i t

/-- RDSR (R67, R68, R215, R216): PCORE and PCLUSTER raise PRIV outside the supervisor group, unless no thread is active. -/
def bodyRdsr : Body := fun _ w m => withGroup w m fun g =>
  let n := w.f.imm.toNat
  if (n == 0x40 || n == 0x41) && !g.id.sup && g.amask != 0 then .error (.fault .priv 0)
  else .ok (commit w m (aluWrites g w.f 1 2 (fun g t => [m.sysReg w.core w.slot g n t])))
def execRdsr (w : WordI) (s : State) : Host.Outcome State Fault Refusal :=
  issue 4 (fieldsI 0x4D w) bodyRdsr s

/-- WRSR to BEREAVE (R68): bits 6:0 written as 1 clear, and bit 0 clears COUNT too. -/
def clearBereave (b x : Word) : Word :=
  let b := b &&& ~~~(x &&& 0x7F)
  if x.getLsbD 0 then b &&& 0xFFFF else b

/-- WRSR (R68, R215, R216): once for each acting thread, in ascending order. -/
def bodyWrsr : Body := fun _ w m => withGroup w m fun g =>
  .ok (m.modGroup w.core w.slot (fun g' => { g' with
    bereave := (g.actors w.f).foldl (fun b t => clearBereave b (opD g w.f t)) g'.bereave }))
def execWrsr (w : WordI) (s : State) : Host.Outcome State Fault Refusal :=
  issue 4 (fieldsI 0x4E w) bodyWrsr s

/-- WID (R215). -/
def bodyWid : Body := alu tagN fun g f t => g.widField f.imm.toNat t
def execWid (w : WordI) (s : State) : Host.Outcome State Fault Refusal :=
  issue 4 (fieldsI 0x4F w) bodyWid s

end Sys2Proof.Machine
end

