-- ==== Sys2Proof/Machine/Compact.lean ====
section
/-! DEFINITION. The sixteen compact forms (R188): each acts as the 32-bit word of its operation, with D as first source and
destination and SB as second source, and is two bytes long. -/

namespace Sys2Proof.Machine

/-- Compact MOV (R188). -/
def execMovCompact (w : WordH) (s : State) : Host.Outcome State Fault Refusal :=
  issue 2 (fieldsHMov w) bodyMov s

/-- Compact IADD (R188). -/
def execIaddCompact (w : WordH) (s : State) : Host.Outcome State Fault Refusal :=
  issue 2 (fieldsH 0x10 w) bodyIadd s

/-- Compact ISUB (R188). -/
def execIsubCompact (w : WordH) (s : State) : Host.Outcome State Fault Refusal :=
  issue 2 (fieldsH 0x11 w) bodyIsub s

/-- Compact IMUL (R188). -/
def execImulCompact (w : WordH) (s : State) : Host.Outcome State Fault Refusal :=
  issue 2 (fieldsH 0x12 w) bodyImul s

/-- Compact AND (R188). -/
def execAndCompact (w : WordH) (s : State) : Host.Outcome State Fault Refusal :=
  issue 2 (fieldsH 0x30 w) bodyAnd s

/-- Compact OR (R188). -/
def execOrCompact (w : WordH) (s : State) : Host.Outcome State Fault Refusal :=
  issue 2 (fieldsH 0x31 w) bodyOr s

/-- Compact XOR (R188). -/
def execXorCompact (w : WordH) (s : State) : Host.Outcome State Fault Refusal :=
  issue 2 (fieldsH 0x32 w) bodyXor s

/-- Compact SHL (R188). -/
def execShlCompact (w : WordH) (s : State) : Host.Outcome State Fault Refusal :=
  issue 2 (fieldsH 0x35 w) bodyShl s

/-- Compact SHRL (R188). -/
def execShrlCompact (w : WordH) (s : State) : Host.Outcome State Fault Refusal :=
  issue 2 (fieldsH 0x36 w) bodyShrl s

/-- Compact SHRA (R188). -/
def execShraCompact (w : WordH) (s : State) : Host.Outcome State Fault Refusal :=
  issue 2 (fieldsH 0x37 w) bodyShra s

/-- Compact IMINS (R188). -/
def execIminSCompact (w : WordH) (s : State) : Host.Outcome State Fault Refusal :=
  issue 2 (fieldsH 0x18 w) bodyIminS s

/-- Compact IMAXS (R188). -/
def execImaxSCompact (w : WordH) (s : State) : Host.Outcome State Fault Refusal :=
  issue 2 (fieldsH 0x1A w) bodyImaxS s

/-- Compact FADD (R188). -/
def execFaddCompact (w : WordH) (s : State) : Host.Outcome State Fault Refusal :=
  issue 2 (fieldsH 0x60 w) bodyFadd s

/-- Compact FSUB (R188). -/
def execFsubCompact (w : WordH) (s : State) : Host.Outcome State Fault Refusal :=
  issue 2 (fieldsH 0x61 w) bodyFsub s

/-- Compact FMUL (R188). -/
def execFmulCompact (w : WordH) (s : State) : Host.Outcome State Fault Refusal :=
  issue 2 (fieldsH 0x62 w) bodyFmul s

/-- Compact FMAX (R188). -/
def execFmaxCompact (w : WordH) (s : State) : Host.Outcome State Fault Refusal :=
  issue 2 (fieldsH 0x65 w) bodyFmax s

end Sys2Proof.Machine
end

