-- ==== Sys2Proof/Machine/Convert.lean ====
section
/-! DEFINITION. Row 8 of the opcode map: conversions and format tags (R225, R226). -/

namespace Sys2Proof.Machine

/-- A signed word clamped to n bits, as an element code (R225). -/
def clampElem (n : Nat) (x : Word) : Nat :=
  let lo : Int := -(2 ^ (n - 1) : Nat)
  let hi : Int := (2 ^ (n - 1) : Nat) - 1
  (max lo (min hi x.toInt) % (2 ^ n : Nat)).toNat

/-- CVT_F32_S32 (R225). -/
def bodyCvtF32S32 : Body := alu tagF fun g f t => BitVec.ofNat 32 (cvtFInt (opA g f t).toInt)
def execCvtF32S32 (w : WordA) (s : State) : Host.Outcome State Fault Refusal :=
  issue 4 (fieldsA 0x80 w) bodyCvtF32S32 s

/-- CVT_S32_F32 (R225, R170). -/
def bodyCvtS32F32 : Body := alu tagS fun g f t => cvtS32 (opA g f t)
def execCvtS32F32 (w : WordA) (s : State) : Host.Outcome State Fault Refusal :=
  issue 4 (fieldsA 0x81 w) bodyCvtS32F32 s

/-- CVT_F32_N32 (R225). -/
def bodyCvtF32N32 : Body := alu tagF fun g f t => BitVec.ofNat 32 (cvtFInt (opA g f t).toNat)
def execCvtF32N32 (w : WordA) (s : State) : Host.Outcome State Fault Refusal :=
  issue 4 (fieldsA 0x82 w) bodyCvtF32N32 s

/-- CVT_N32_F32 (R225, R170). -/
def bodyCvtN32F32 : Body := alu tagN fun g f t => cvtN32 (opA g f t)
def execCvtN32F32 (w : WordA) (s : State) : Host.Outcome State Fault Refusal :=
  issue 4 (fieldsA 0x83 w) bodyCvtN32F32 s

/-- CVT_BF_F32 (R225). -/
def bodyCvtBfF32 : Body := alu tagBF fun g f t =>
  BitVec.ofNat 32 (bf16.encode (f32.decode (opA g f t).toNat) + 2 ^ 16 * bf16.encode (f32.decode (opB g f t).toNat))
def execCvtBfF32 (w : WordA) (s : State) : Host.Outcome State Fault Refusal :=
  issue 4 (fieldsA 0x84 w) bodyCvtBfF32 s

/-- CVT_F32_BF (R225). -/
def bodyCvtF32Bf : Body := alu tagF fun g f t => BitVec.ofNat 32 (f32.encode (bf16.decode (elemOf 16 (opA g f t) f.fb.toNat)))
def execCvtF32Bf (w : WordA) (s : State) : Host.Outcome State Fault Refusal :=
  issue 4 (fieldsA 0x85 w) bodyCvtF32Bf s

/-- CVT_HF_F32 (R225). -/
def bodyCvtHfF32 : Body := alu tagHF fun g f t =>
  BitVec.ofNat 32 (hf16.encode (f32.decode (opA g f t).toNat) + 2 ^ 16 * hf16.encode (f32.decode (opB g f t).toNat))
def execCvtHfF32 (w : WordA) (s : State) : Host.Outcome State Fault Refusal :=
  issue 4 (fieldsA 0x86 w) bodyCvtHfF32 s

/-- CVT_F32_HF (R225). -/
def bodyCvtF32Hf : Body := alu tagF fun g f t => BitVec.ofNat 32 (f32.encode (hf16.decode (elemOf 16 (opA g f t) f.fb.toNat)))
def execCvtF32Hf (w : WordA) (s : State) : Host.Outcome State Fault Refusal :=
  issue 4 (fieldsA 0x87 w) bodyCvtF32Hf s

/-- CVT_M8_F32 (R225, R168). -/
def bodyCvtM8F32 : Body := alu tagM8 fun g f t => setElem 8 (opD g f t) f.fb.toNat (toM8 (f32.decode (opA g f t).toNat))
def execCvtM8F32 (w : WordA) (s : State) : Host.Outcome State Fault Refusal :=
  issue 4 (fieldsA 0x88 w) bodyCvtM8F32 s

/-- CVT_F32_M8 (R225, R169). -/
def bodyCvtF32M8 : Body := alu tagF fun g f t => BitVec.ofNat 32 (f32.encode (m8Val (elemOf 8 (opA g f t) f.fb.toNat)))
def execCvtF32M8 (w : WordA) (s : State) : Host.Outcome State Fault Refusal :=
  issue 4 (fieldsA 0x89 w) bodyCvtF32M8 s

/-- CVT_M4_F32 (R225, R168). -/
def bodyCvtM4F32 : Body := alu tagM4 fun g f t => setElem 4 (opD g f t) f.fb.toNat (toM4 (f32.decode (opA g f t).toNat))
def execCvtM4F32 (w : WordA) (s : State) : Host.Outcome State Fault Refusal :=
  issue 4 (fieldsA 0x8A w) bodyCvtM4F32 s

/-- CVT_F32_M4 (R225, R169). -/
def bodyCvtF32M4 : Body := alu tagF fun g f t => BitVec.ofNat 32 (f32.encode (m4Val (elemOf 4 (opA g f t) f.fb.toNat)))
def execCvtF32M4 (w : WordA) (s : State) : Host.Outcome State Fault Refusal :=
  issue 4 (fieldsA 0x8B w) bodyCvtF32M4 s

/-- CVT_I8_S32 (R225). -/
def bodyCvtI8S32 : Body := alu tagI8 fun g f t => setElem 8 (opD g f t) f.fb.toNat (clampElem 8 (opA g f t))
def execCvtI8S32 (w : WordA) (s : State) : Host.Outcome State Fault Refusal :=
  issue 4 (fieldsA 0x8C w) bodyCvtI8S32 s

/-- CVT_I4_S32 (R225). -/
def bodyCvtI4S32 : Body := alu tagI4 fun g f t => setElem 4 (opD g f t) f.fb.toNat (clampElem 4 (opA g f t))
def execCvtI4S32 (w : WordA) (s : State) : Host.Outcome State Fault Refusal :=
  issue 4 (fieldsA 0x8D w) bodyCvtI4S32 s

/-- SETFMT (R226): the tag of D, not its bits; only with a participant. -/
def bodySetfmt : Body := fun _ w m => withGroup w m fun g =>
  .ok (commit w m (resultTag (g.actors w.f) w.f.fd 1 (w.f.imm.setWidth 4)))
def execSetfmt (w : WordI) (s : State) : Host.Outcome State Fault Refusal :=
  issue 4 (fieldsI 0x8E w) bodySetfmt s

/-- GETFMT (R226). -/
def bodyGetfmt : Body := alu tagN fun g f _ => (g.tagOf f.fa).setWidth 32
def execGetfmt (w : WordA) (s : State) : Host.Outcome State Fault Refusal :=
  issue 4 (fieldsA 0x8F w) bodyGetfmt s

end Sys2Proof.Machine
end

