-- ==== Sys2Proof/Machine/Lanes.lean ====
section
/-! DEFINITION. Row 5 of the opcode map: lane movement, reductions, scans and group queries (R217, R218). -/

namespace Sys2Proof.Machine

/-- The shift amount of the shuffles: b and 31 (R217). -/
def shiftOf (g : Group) (f : Fields) (t : Nat) : Nat := (opB g f t).toNat % 32

/-- SHFL_IDX (R217). -/
def bodyShflIdx : Body := laneAlu tagOfA fun g f _ t => opA g f (shiftOf g f t)
def execShflIdx (w : WordA) (s : State) : Host.Outcome State Fault Refusal :=
  issue 4 (fieldsA 0x50 w) bodyShflIdx s

/-- SHFL_UP (R217). -/
def bodyShflUp : Body := laneAlu tagOfA fun g f _ t =>
  if shiftOf g f t ≤ t then opA g f (t - shiftOf g f t) else opA g f t
def execShflUp (w : WordA) (s : State) : Host.Outcome State Fault Refusal :=
  issue 4 (fieldsA 0x51 w) bodyShflUp s

/-- SHFL_DN (R217). -/
def bodyShflDn : Body := laneAlu tagOfA fun g f _ t =>
  if t + shiftOf g f t ≤ 31 then opA g f (t + shiftOf g f t) else opA g f t
def execShflDn (w : WordA) (s : State) : Host.Outcome State Fault Refusal :=
  issue 4 (fieldsA 0x52 w) bodyShflDn s

/-- SHFL_XOR (R217). -/
def bodyShflXor : Body := laneAlu tagOfA fun g f _ t => opA g f (t ^^^ shiftOf g f t)
def execShflXor (w : WordA) (s : State) : Host.Outcome State Fault Refusal :=
  issue 4 (fieldsA 0x53 w) bodyShflXor s

/-- BCAST (R217). -/
def bodyBcast : Body := laneAlu tagOfA fun g f _ t => opA g f (shiftOf g f t)
def execBcast (w : WordA) (s : State) : Host.Outcome State Fault Refusal :=
  issue 4 (fieldsA 0x54 w) bodyBcast s

/-- RDTH (R217): one thread's A into a k register, once, provided there is a participant. -/
def bodyRdth : Body := fun _ w m => withGroup w m fun g =>
  if g.participants w.f.g = [] then .ok m
  else .ok (commit w m (writeField w.f.fd 0 (opA g w.f (shiftOf g w.f 0))))
def execRdth (w : WordA) (s : State) : Host.Outcome State Fault Refusal :=
  issue 4 (fieldsA 0x55 w) bodyRdth s

/-- WRTH (R217): A into D of one thread, only when that thread is a participant. -/
def bodyWrth : Body := fun _ w m => withGroup w m fun g =>
  let t := shiftOf g w.f 0
  if (g.participants w.f.g).contains t then
    .ok (commit w m (writeField w.f.fd t (opA g w.f t) ++ writeTag w.f.fd 1 (tagOfA g w.f)))
  else .ok m
def execWrth (w : WordA) (s : State) : Host.Outcome State Fault Refusal :=
  issue 4 (fieldsA 0x56 w) bodyWrth s

/-- The fold of a two-argument operation over the participants' A, from the first (R218). -/
def foldA (op : Word → Word → Word) (g : Group) (f : Fields) : List Nat → Word
  | [] => 0
  | t :: ts => ts.foldl (fun x u => op x (opA g f u)) (opA g f t)

/-- The floating-point fold of R218: the first value made canonical, then rounded sums. -/
def foldF (g : Group) (f : Fields) : List Nat → Word
  | [] => 0
  | t :: ts => ts.foldl (fun x u => BitVec.ofNat 32 (f32.addB x.toNat (opA g f u).toNat))
      (BitVec.ofNat 32 (f32.canonB (opA g f t).toNat))

/-- REDADD_S (R218). -/
def bodyRedaddS : Body := laneAlu tagS fun g f ts _ => foldA (· + ·) g f ts
def execRedaddS (w : WordA) (s : State) : Host.Outcome State Fault Refusal :=
  issue 4 (fieldsA 0x57 w) bodyRedaddS s

/-- REDMIN_S (R218). -/
def bodyRedminS : Body := laneAlu tagS fun g f ts _ => foldA minS g f ts
def execRedminS (w : WordA) (s : State) : Host.Outcome State Fault Refusal :=
  issue 4 (fieldsA 0x58 w) bodyRedminS s

/-- REDMAX_S (R218). -/
def bodyRedmaxS : Body := laneAlu tagS fun g f ts _ => foldA maxS g f ts
def execRedmaxS (w : WordA) (s : State) : Host.Outcome State Fault Refusal :=
  issue 4 (fieldsA 0x59 w) bodyRedmaxS s

/-- REDADD_F32 (R218). -/
def bodyRedaddF32 : Body := laneAlu tagF fun g f ts _ => foldF g f ts
def execRedaddF32 (w : WordA) (s : State) : Host.Outcome State Fault Refusal :=
  issue 4 (fieldsA 0x5A w) bodyRedaddF32 s

/-- SCANADD_S (R218). -/
def bodyScanaddS : Body := laneAlu tagS fun g f ts t => foldA (· + ·) g f (ts.filter (· ≤ t))
def execScanaddS (w : WordA) (s : State) : Host.Outcome State Fault Refusal :=
  issue 4 (fieldsA 0x5B w) bodyScanaddS s

/-- SCANADD_F32 (R218). -/
def bodyScanaddF32 : Body := laneAlu tagF fun g f ts t => foldF g f (ts.filter (· ≤ t))
def execScanaddF32 (w : WordA) (s : State) : Host.Outcome State Fault Refusal :=
  issue 4 (fieldsA 0x5C w) bodyScanaddF32 s

/-- MATCH (R218). -/
def bodyMatch : Body := laneAlu tagN fun g f ts t => maskOf (ts.filter (fun u => opA g f u == opA g f t))
def execMatch (w : WordA) (s : State) : Host.Outcome State Fault Refusal :=
  issue 4 (fieldsA 0x5D w) bodyMatch s

/-- ELECT (R218). -/
def bodyElect : Body := lanePred fun g f ts t => (ts.find? (g.pcode f.fa)) == some t
def execElect (w : WordC) (s : State) : Host.Outcome State Fault Refusal :=
  issue 4 (fieldsC 0x5E w) bodyElect s

/-- GSIZE (R218). -/
def bodyGsize : Body := laneAlu tagN fun g _ _ _ => BitVec.ofNat 32 g.active.length
def execGsize (w : WordA) (s : State) : Host.Outcome State Fault Refusal :=
  issue 4 (fieldsA 0x5F w) bodyGsize s

end Sys2Proof.Machine
end

