-- ==== Sys2Proof/Machine/Packed.lean ====
section
/-! DEFINITION. Row 7 of the opcode map: packed arithmetic, dot products and FRND (R222 to R224). -/

namespace Sys2Proof.Machine

/-- HADD_BF (R222). -/
def bodyHaddBf : Body := alu tagBF fun g f t => packed2 bf16.addB (opA g f t) (opB g f t)
def execHaddBf (w : WordA) (s : State) : Host.Outcome State Fault Refusal :=
  issue 4 (fieldsA 0x70 w) bodyHaddBf s

/-- HMUL_BF (R222). -/
def bodyHmulBf : Body := alu tagBF fun g f t => packed2 bf16.mulB (opA g f t) (opB g f t)
def execHmulBf (w : WordA) (s : State) : Host.Outcome State Fault Refusal :=
  issue 4 (fieldsA 0x71 w) bodyHmulBf s

/-- HFMA_BF (R222). -/
def bodyHfmaBf : Body := alu tagBF fun g f t => packed3 bf16.fmaB (opA g f t) (opB g f t) (opD g f t)
def execHfmaBf (w : WordA) (s : State) : Host.Outcome State Fault Refusal :=
  issue 4 (fieldsA 0x72 w) bodyHfmaBf s

/-- HADD_HF (R222). -/
def bodyHaddHf : Body := alu tagHF fun g f t => packed2 hf16.addB (opA g f t) (opB g f t)
def execHaddHf (w : WordA) (s : State) : Host.Outcome State Fault Refusal :=
  issue 4 (fieldsA 0x73 w) bodyHaddHf s

/-- HMUL_HF (R222). -/
def bodyHmulHf : Body := alu tagHF fun g f t => packed2 hf16.mulB (opA g f t) (opB g f t)
def execHmulHf (w : WordA) (s : State) : Host.Outcome State Fault Refusal :=
  issue 4 (fieldsA 0x74 w) bodyHmulHf s

/-- HFMA_HF (R222). -/
def bodyHfmaHf : Body := alu tagHF fun g f t => packed3 hf16.fmaB (opA g f t) (opB g f t) (opD g f t)
def execHfmaHf (w : WordA) (s : State) : Host.Outcome State Fault Refusal :=
  issue 4 (fieldsA 0x75 w) bodyHfmaHf s

/-- HMIN_BF (R222, R164). -/
def bodyHminBf : Body := alu tagBF fun g f t => packed2 bf16.minB (opA g f t) (opB g f t)
def execHminBf (w : WordA) (s : State) : Host.Outcome State Fault Refusal :=
  issue 4 (fieldsA 0x76 w) bodyHminBf s

/-- HMAX_BF (R222, R164). -/
def bodyHmaxBf : Body := alu tagBF fun g f t => packed2 bf16.maxB (opA g f t) (opB g f t)
def execHmaxBf (w : WordA) (s : State) : Host.Outcome State Fault Refusal :=
  issue 4 (fieldsA 0x77 w) bodyHmaxBf s

/-- HMIN_HF (R222, R164). -/
def bodyHminHf : Body := alu tagHF fun g f t => packed2 hf16.minB (opA g f t) (opB g f t)
def execHminHf (w : WordA) (s : State) : Host.Outcome State Fault Refusal :=
  issue 4 (fieldsA 0x78 w) bodyHminHf s

/-- HMAX_HF (R222, R164). -/
def bodyHmaxHf : Body := alu tagHF fun g f t => packed2 hf16.maxB (opA g f t) (opB g f t)
def execHmaxHf (w : WordA) (s : State) : Host.Outcome State Fault Refusal :=
  issue 4 (fieldsA 0x79 w) bodyHmaxHf s

/-- The exact products of n packed elements (R175). -/
def elemProducts (n bits : Nat) (dec : Nat → FVal) (a b : Word) : List FVal :=
  (List.range n).map (fun i => (dec (elemOf bits a i)).mul (dec (elemOf bits b i)))

/-- The sum of n packed two's complement products (R176). -/
def elemDot (n bits : Nat) (a b : Word) : Int :=
  ((List.range n).map (fun i => sElem bits a i * sElem bits b i)).sum

/-- IDOT4.S and IDOT8.S (R223): a saturating accumulation in each participant, and SATURATED in LSTS if any clamped. -/
def idotBody (n bits : Nat) : Body := fun _ w m => withGroup w m fun g =>
  let ts := g.actors w.f
  if ts = [] then .ok m
  else
    let r := passes (fun g t => writeField w.f.fd t (satAdd (opD g w.f t) (elemDot n bits (opA g w.f t) (opB g w.f t))).1) g ts
    let clamped := (ts.foldl (fun (p : Group × Bool) t =>
      let x := satAdd (opD p.1 w.f t) (elemDot n bits (opA p.1 w.f t) (opB p.1 w.f t))
      (applyWrites p.1 (writeField w.f.fd t x.1), p.2 || x.2)) (g, false)).2
    .ok (commit w m (r.2 ++ writeTag w.f.fd 1 1 ++ [.lsts (if clamped then .saturated else .ok)]))

/-- HDOT_BF (R223, R177). -/
def bodyHdotBf : Body := alu tagF fun g f t =>
  BitVec.ofNat 32 (blockUpdate 47 (opD g f t).toNat (elemProducts 2 16 bf16.decode (opA g f t) (opB g f t)) 0 false)
def execHdotBf (w : WordA) (s : State) : Host.Outcome State Fault Refusal :=
  issue 4 (fieldsA 0x7A w) bodyHdotBf s

/-- HDOT_HF (R223, R177). -/
def bodyHdotHf : Body := alu tagF fun g f t =>
  BitVec.ofNat 32 (blockUpdate 47 (opD g f t).toNat (elemProducts 2 16 hf16.decode (opA g f t) (opB g f t)) 0 false)
def execHdotHf (w : WordA) (s : State) : Host.Outcome State Fault Refusal :=
  issue 4 (fieldsA 0x7B w) bodyHdotHf s

/-- MDOT4 (R223, R177). -/
def bodyMdot4 : Body := alu tagF fun g f t =>
  BitVec.ofNat 32 (blockUpdate 38 (opD g f t).toNat (elemProducts 4 8 m8Val (opA g f t) (opB g f t)) 0 false)
def execMdot4 (w : WordA) (s : State) : Host.Outcome State Fault Refusal :=
  issue 4 (fieldsA 0x7C w) bodyMdot4 s

/-- IDOT4_S (R223). -/
def bodyIdot4S : Body := idotBody 4 8
def execIdot4S (w : WordA) (s : State) : Host.Outcome State Fault Refusal :=
  issue 4 (fieldsA 0x7D w) bodyIdot4S s

/-- IDOT8_S (R223). -/
def bodyIdot8S : Body := idotBody 8 4
def execIdot8S (w : WordA) (s : State) : Host.Outcome State Fault Refusal :=
  issue 4 (fieldsA 0x7E w) bodyIdot8S s

/-- FRND (R224). -/
def bodyFrnd : Body := alu tagF fun g f t => BitVec.ofNat 32 (Sys2Proof.Machine.frnd f.fb.toNat (opA g f t))
def execFrnd (w : WordA) (s : State) : Host.Outcome State Fault Refusal :=
  issue 4 (fieldsA 0x7F w) bodyFrnd s

end Sys2Proof.Machine
end

