-- ==== Sys2Proof/Machine/Rings.lean ====
section
/-! DEFINITION. Row C of the opcode map, positions 9 to 15: stage rings and barriers (R272 to R278). The hub's part is in Hub. -/

namespace Sys2Proof.Machine

/-- A ring operation leaves for the hub (R272); a waiting one leaves the group waiting (R28). -/
def ringBody (op : RingOp) (source waits : Bool) : Body := groupWide fun w m g =>
  let j := w.f.imm.toNat % 16
  let ks := w.f.ksField
  let used := match m.block? w.core g with | some b => (b.rings.get? j).isSome | none => false
  if !used then .error (.fault .access 0)
  else
    let ts := g.participants w.f.g
    let value := if source then g.reg w.f.fd (ts.head?.getD 0) else 0
    let d : RegField := if source then 47 else w.f.fd
    let items := regItems d 1 ||| regItems ks 1
    let m := m.modGroup w.core w.slot (fun g =>
      if waits then { g with wait := some (.ring j) } else { g with sb := g.sb ||| items })
    .ok (m.send w.core w.slot g.uid (hubPlace (clusterOf w.core)) 0 false (.ring op j value d ks (maskOf ts)))

/-- RING.PUSH. -/
def bodyRingPush : Body := ringBody .push true true
def execRingPush (w : WordI) (s : State) : Host.Outcome State Fault Refusal := issue 4 (fieldsI 0xC9 w) bodyRingPush s
/-- RING.POP. -/
def bodyRingPop : Body := ringBody .pop false true
def execRingPop (w : WordI) (s : State) : Host.Outcome State Fault Refusal := issue 4 (fieldsI 0xCA w) bodyRingPop s
/-- RING.TRY. -/
def bodyRingTry : Body := ringBody .try_ false false
def execRingTry (w : WordI) (s : State) : Host.Outcome State Fault Refusal := issue 4 (fieldsI 0xCB w) bodyRingTry s
/-- RING.ALLOW. -/
def bodyRingAllow : Body := ringBody .allow true false
def execRingAllow (w : WordI) (s : State) : Host.Outcome State Fault Refusal := issue 4 (fieldsI 0xCC w) bodyRingAllow s

/-- A barrier operation leaves for the hub (R276). -/
def barBody (arrive wait : Bool) : Body := groupWide fun w m g =>
  let j := w.f.imm.toNat % 16
  let ks := w.f.ksField
  if !m.hasBarrier w.core g j then .error (.fault .access 0)
  else
    let n := if arrive || wait then 0 else g.reg w.f.fd ((g.participants w.f.g).head?.getD 0)
    let m := m.modGroup w.core w.slot (fun g =>
      if wait then { g with wait := some (.barrier j) } else { g with sb := g.sb ||| regItems ks 1 })
    .ok (m.send w.core w.slot g.uid (hubPlace (clusterOf w.core)) 0 false (.barrier arrive wait j n ks))

/-- BAR.ARRIVE. -/
def bodyBarArrive : Body := barBody true false
def execBarArrive (w : WordI) (s : State) : Host.Outcome State Fault Refusal := issue 4 (fieldsI 0xCD w) bodyBarArrive s
/-- BAR.WAIT. -/
def bodyBarWait : Body := barBody false true
def execBarWait (w : WordI) (s : State) : Host.Outcome State Fault Refusal := issue 4 (fieldsI 0xCE w) bodyBarWait s
/-- BAR.EXPECT. -/
def bodyBarExpect : Body := barBody false false
def execBarExpect (w : WordI) (s : State) : Host.Outcome State Fault Refusal := issue 4 (fieldsI 0xCF w) bodyBarExpect s

end Sys2Proof.Machine
end

