-- ==== Sys2Proof/Machine/Dictionary.lean ====
section
/-! DEFINITION. The dictionary form (R142, R189): the word it stands for, with the form's own B and guard override, at the
form's address and with the form's length. -/

namespace Sys2Proof.Machine

/-- The effects of the opcodes of row 0 (R190). -/
def rowBody0 (pos : Nat) : Body :=
  match pos with
  | 0 => bodyNop
  | 1 => bodyBra
  | 2 => bodyBrany
  | 3 => bodyBrx
  | 4 => bodyCall
  | 5 => bodyRet
  | 6 => bodyPushm
  | 7 => bodyFlipm
  | 8 => bodyPopm
  | 9 => bodyBreakm
  | 10 => bodySafept
  | 11 => bodyExit
  | 12 => bodyYield
  | 13 => bodyTrap
  | 14 => bodySyscall
  | _ => bodyEret

/-- The effects of the opcodes of row 1 (R190). -/
def rowBody1 (pos : Nat) : Body :=
  match pos with
  | 0 => bodyIadd
  | 1 => bodyIsub
  | 2 => bodyImul
  | 3 => bodyImulhs
  | 4 => bodyImulhn
  | 5 => bodyImad
  | 6 => bodyIabs
  | 7 => bodyIneg
  | 8 => bodyIminS
  | 9 => bodyIminN
  | 10 => bodyImaxS
  | 11 => bodyImaxN
  | 12 => bodyIaddminS
  | 13 => bodyIaddsatS
  | 14 => bodyIsubsatS
  | _ => bodyIaddmaxS

/-- The effects of the opcodes of row 2 (R190). -/
def rowBody2 (pos : Nat) : Body :=
  match pos with
  | 0 => bodyIaddi
  | 1 => bodyImuli
  | 2 => bodyAndi
  | 3 => bodyOri
  | 4 => bodyXori
  | 5 => bodyShli
  | 6 => bodyShrli
  | 7 => bodyShrai
  | 8 => bodyMovi
  | 9 => bodyMovhi
  | 10 => bodyLdk
  | 11 => bodyIadd64
  | 12 => bodyIsub64
  | 13 => bodyImadw
  | 14 => bodyIcmpiS
  | _ => bodySel

/-- The effects of the opcodes of row 3 (R190). -/
def rowBody3 (pos : Nat) : Body :=
  match pos with
  | 0 => bodyAnd
  | 1 => bodyOr
  | 2 => bodyXor
  | 3 => bodyAndn
  | 4 => bodyNot
  | 5 => bodyShl
  | 6 => bodyShrl
  | 7 => bodyShra
  | 8 => bodyRotl
  | 9 => bodyClz
  | 10 => bodyCtz
  | 11 => bodyPopc
  | 12 => bodyBrev
  | 13 => bodyBfx
  | 14 => bodyBfi
  | _ => bodyPrmb

/-- The effects of the opcodes of row 4 (R190). -/
def rowBody4 (pos : Nat) : Body :=
  match pos with
  | 0 => bodyIcmpS
  | 1 => bodyIcmpN
  | 2 => bodyFcmp
  | 3 => bodyPset
  | 4 => bodyPand
  | 5 => bodyPor
  | 6 => bodyPxor
  | 7 => bodyPmov
  | 8 => bodyVoteAny
  | 9 => bodyVoteAll
  | 10 => bodyBallot
  | 11 => bodyMov
  | 12 => bodyMovk
  | 13 => bodyRdsr
  | 14 => bodyWrsr
  | _ => bodyWid

/-- The effects of the opcodes of row 5 (R190). -/
def rowBody5 (pos : Nat) : Body :=
  match pos with
  | 0 => bodyShflIdx
  | 1 => bodyShflUp
  | 2 => bodyShflDn
  | 3 => bodyShflXor
  | 4 => bodyBcast
  | 5 => bodyRdth
  | 6 => bodyWrth
  | 7 => bodyRedaddS
  | 8 => bodyRedminS
  | 9 => bodyRedmaxS
  | 10 => bodyRedaddF32
  | 11 => bodyScanaddS
  | 12 => bodyScanaddF32
  | 13 => bodyMatch
  | 14 => bodyElect
  | _ => bodyGsize

/-- The effects of the opcodes of row 6 (R190). -/
def rowBody6 (pos : Nat) : Body :=
  match pos with
  | 0 => bodyFadd
  | 1 => bodyFsub
  | 2 => bodyFmul
  | 3 => bodyFfma
  | 4 => bodyFmin
  | 5 => bodyFmax
  | 6 => bodyFneg
  | 7 => bodyFabs
  | 8 => bodyFrcp
  | 9 => bodyFrsq
  | 10 => bodyFsqrt
  | 11 => bodyFexp2
  | 12 => bodyFlog2
  | 13 => bodyFtanh
  | 14 => bodyFsig
  | _ => bodyFaddmin

/-- The effects of the opcodes of row 7 (R190). -/
def rowBody7 (pos : Nat) : Body :=
  match pos with
  | 0 => bodyHaddBf
  | 1 => bodyHmulBf
  | 2 => bodyHfmaBf
  | 3 => bodyHaddHf
  | 4 => bodyHmulHf
  | 5 => bodyHfmaHf
  | 6 => bodyHminBf
  | 7 => bodyHmaxBf
  | 8 => bodyHminHf
  | 9 => bodyHmaxHf
  | 10 => bodyHdotBf
  | 11 => bodyHdotHf
  | 12 => bodyMdot4
  | 13 => bodyIdot4S
  | 14 => bodyIdot8S
  | _ => bodyFrnd

/-- The effects of the opcodes of row 8 (R190). -/
def rowBody8 (pos : Nat) : Body :=
  match pos with
  | 0 => bodyCvtF32S32
  | 1 => bodyCvtS32F32
  | 2 => bodyCvtF32N32
  | 3 => bodyCvtN32F32
  | 4 => bodyCvtBfF32
  | 5 => bodyCvtF32Bf
  | 6 => bodyCvtHfF32
  | 7 => bodyCvtF32Hf
  | 8 => bodyCvtM8F32
  | 9 => bodyCvtF32M8
  | 10 => bodyCvtM4F32
  | 11 => bodyCvtF32M4
  | 12 => bodyCvtI8S32
  | 13 => bodyCvtI4S32
  | 14 => bodySetfmt
  | _ => bodyGetfmt

/-- The effects of the opcodes of row 9 (R190). -/
def rowBody9 (pos : Nat) : Body :=
  match pos with
  | 0 => bodyOpen
  | 1 => bodyOpenW
  | 2 => bodyRecall
  | 3 => bodyRecallD
  | 4 => bodyLdB8s
  | 5 => bodyLdB8n
  | 6 => bodyLdH16s
  | 7 => bodyLdH16n
  | 8 => bodyLdW32
  | 9 => bodyLdW64
  | 10 => bodyLdW128
  | 11 => bodyStB8
  | 12 => bodyStH16
  | 13 => bodyStW32
  | 14 => bodyStW64
  | _ => bodyStW128

/-- The effects of the opcodes of row A (R190). -/
def rowBodyA (pos : Nat) : Body :=
  match pos with
  | 0 => bodySpset
  | 1 => bodySpnarrow
  | 2 => bodySpadv
  | 3 => bodySpget
  | 4 => bodySpchk
  | 5 => bodySpsave
  | 6 => bodySpload
  | 7 => bodyFlushl
  | 8 => bodyLstat
  | 9 => bodyTagset
  | 10 => bodyTagget
  | 11 => bodyPref
  | 12 => bodyGrow
  | 13 => bodyShrink
  | 14 => bodyLend
  | _ => bodyReclaim

/-- The effects of the opcodes of row B (R190). -/
def rowBodyB (pos : Nat) : Body :=
  match pos with
  | 0 => bodyAadd
  | 1 => bodyAadd64
  | 2 => bodyAfadd
  | 3 => bodyAminS
  | 4 => bodyAmaxS
  | 5 => bodyAminN
  | 6 => bodyAmaxN
  | 7 => bodyAand
  | 8 => bodyAor
  | 9 => bodyAxor
  | 10 => bodyAxchg
  | 11 => bodyAcas
  | 12 => bodyAcas64
  | 13 => bodyPut
  | 14 => bodyPutv
  | _ => bodyCwait

/-- The effects of the opcodes of row C (R190). -/
def rowBodyC (pos : Nat) : Body :=
  match pos with
  | 0 => bodyCopy
  | 1 => bodyCopyTr8
  | 2 => bodyCopyTr16
  | 3 => bodyCopyMc
  | 4 => bodyDrain
  | 5 => bodyCopyl
  | 6 => bodySeal
  | 7 => bodyWaitb
  | 8 => bodyWptr
  | 9 => bodyRingPush
  | 10 => bodyRingPop
  | 11 => bodyRingTry
  | 12 => bodyRingAllow
  | 13 => bodyBarArrive
  | 14 => bodyBarWait
  | _ => bodyBarExpect

/-- The effects of the opcodes of row D (R190). -/
def rowBodyD (pos : Nat) : Body :=
  match pos with
  | 0 => bodyMma
  | 1 => bodyMmaSc
  | 2 => bodyMhad
  | 3 => bodyMqnt
  | 4 => bodyMwait
  | 5 => bodyMrel
  | 6 => bodyAccrd
  | 7 => bodyAccwr
  | 8 => bodyAccz
  | 9 => bodyGang
  | 10 => bodyMprog
  | 11 => bodyAccst
  | 12 => bodyFenceOpnd
  | 13 => bodyMstat
  | 14 => bodyAccld
  | _ => bodyMcancel

/-- The effects of the opcodes of row E (R190). -/
def rowBodyE (pos : Nat) : Body :=
  match pos with
  | 0 => bodyAcq
  | 1 => bodyRel
  | 2 => bodyBind
  | 3 => bodyUnbind
  | 4 => bodyFence
  | 5 => bodyPromise
  | 6 => bodyHeir
  | 7 => bodyHold
  | 8 => bodyRelinq
  | 9 => bodyEstat
  | 10 => bodyWaitw
  | 11 => bodyWake
  | 12 => bodyEnq
  | 13 => bodyDeq
  | 14 => bodyTdone
  | _ => bodyDepadd

/-- The effects of the opcodes of row F (R190). -/
def rowBodyF (pos : Nat) : Body :=
  match pos with
  | 0 => bodyMboxrd
  | 1 => bodyMboxwr
  | 2 => bodyRdg
  | 3 => bodyWrg
  | 4 => bodyGstop
  | 5 => bodyGresume
  | 6 => bodyGkill
  | 7 => bodyXlinv
  | 8 => bodyFqpop
  | 9 => bodyFqreplay
  | 10 => bodyCycles
  | 11 => bodyBrk
  | 12 => bodyPerfrd
  | 13 => bodySigrd
  | 14 => bodyHarvest
  | _ => bodyCtxsw

/-- The effect of an opcode. -/
def bodyOf (op : Nat) : Body :=
  match op / 16 with
  | 0 => rowBody0 (op % 16)
  | 1 => rowBody1 (op % 16)
  | 2 => rowBody2 (op % 16)
  | 3 => rowBody3 (op % 16)
  | 4 => rowBody4 (op % 16)
  | 5 => rowBody5 (op % 16)
  | 6 => rowBody6 (op % 16)
  | 7 => rowBody7 (op % 16)
  | 8 => rowBody8 (op % 16)
  | 9 => rowBody9 (op % 16)
  | 10 => rowBodyA (op % 16)
  | 11 => rowBodyB (op % 16)
  | 12 => rowBodyC (op % 16)
  | 13 => rowBodyD (op % 16)
  | 14 => rowBodyE (op % 16)
  | _ => rowBodyF (op % 16)

/-- The check finds two errors in the dictionary word that a form names (R85, R369). -/
def dictBad (c : Core) (id : Ident) (w : WordD) : Bool :=
  w.idx.toNat < id.dsize && match c.dict id with
    | some d => d.bad.contains w.idx.toNat
    | none => false

/-- A dictionary slot is loaded anew from DICT before a group uses it again (R369). Where DICT cannot be read then, the words are those
that were loaded before (DESIGN CHOICE, log 98). -/
def Mach.reloadDict (m : Mach) (core : Nat) (id : Ident) : Mach :=
  match (m.core core).dictSlotOf id, m.launches.get? id.launch with
  | some (i, d), some l =>
    let put (m : Mach) (words : List Word) : Mach :=
      m.modCore core (fun c => { c with dicts := c.dicts.set i { d with words, bad := [] } })
    match m.ctxRead l.ctx (BitVec.ofNat 56 l.record.dict) (4 * l.record.dsize) with
    | (m, .bytes ds) => put m ((List.range l.record.dsize).map (fun i => BitVec.ofNat 32 (fieldAt ds (4 * i) 4)))
    | (m, _) => put m d.words
  | _, _ => m

/-- A dictionary form (R189). The fetch of a word with two errors is a consumption (R369). An index at or beyond DSIZE is ILLEGAL,
after the run length (R192). A 25th form without B that names such a word is consumed, and raises no RUNLEN: the spec orders the two
nowhere (DESIGN CHOICE, log 112). -/
def execDictionaryForm (w : WordD) (s : State) : Host.Outcome State Fault Refusal :=
  match s.issuer with
  | none => .next s
  | some (slot, g) =>
    if dictBad (s.mach.core s.curCore) g.id w then
      .next { s with mach := (s.mach.consume s.curCore slot g.pc 3).reloadDict s.curCore g.id }
    else match dictWord (s.mach.core s.curCore) g.id w with
    | none =>
      let c := if Config.runLength ≤ g.runCount && !w.e then Code.runlen else Code.illegal
      .next { s with mach := s.mach.takeFault s.curCore slot c 0 }
    | some x => issue 2 (fieldsOfWord x) (bodyOf (opOf x)) s

end Sys2Proof.Machine
end

