-- ==== Sys2Proof/Machine/Remap.lean ====
section
/-! DEFINITION. The remap of a logical cluster (R339): pre-emption of the context's groups on the old physical cluster, the move
of everything they have there, and their return on the new one; and the completion of a context switch (R315, R356, R389). -/

namespace Sys2Proof.Machine

/-- What a remap moves: the context, the old and the new cluster, the pages and the groups. -/
structure Move where
  ctx : Nat
  old : Nat
  new : Nat
  pages : List Nat
  uids : List Nat
  deriving DecidableEq, Repr

def Move.core (v : Move) (c : Nat) : Nat := if clusterOf c = v.old then 8 * v.new + memberOf c else c

def Move.loc (v : Move) : Loc → Loc
  | .spad c a => if c = v.old ∧ v.pages.contains (a / Config.pageBytes) then .spad v.new a else .spad c a
  | l => l

/-- The cores of a cluster. -/
def coresOf (cl : Nat) : List Nat := (List.range 8).map (8 * cl + ·)

/-- The blocks of a context on a cluster. -/
def Cluster.blocksOf (k : Cluster) (n : Nat) : SMap Block := k.blocks.filter (fun e => e.2.ctx == n)

/-- The pre-empted groups of a context on a core. -/
def Core.savedOf (c : Core) (n : Nat) : SMap Group := c.saved.filter (fun e => e.2.ownedBy (some n))

def Mach.moveOf (m : Mach) (n old new : Nat) : Move :=
  { ctx := n, old, new, pages := ((m.cluster old).blocksOf n).flatMap (·.2.pages)
    uids := (coresOf old).flatMap (fun c => ((m.core c).savedOf n).map (·.1)) }

/-- A place in the scratchpad of the old cluster that the remap moves. -/
def Move.holds (v : Move) : Loc → Bool
  | .spad c a => c == v.old && v.pages.contains (a / Config.pageBytes)
  | _ => false

/-- A message is on its way to what a remap moves: to its pages, or to its task slots. -/
def Move.meets (v : Move) (x : Msg) : Bool :=
  match x.body with
  | .writeBack line _ _ _ _ _ _ => v.holds line
  | .atomic _ loc _ _ _ _ _ _ _ => v.holds loc
  | .put loc _ _ _ _ ctr _ => v.holds loc || ctr.any (fun c => v.holds c.1)
  | .counter loc _ _ _ => v.holds loc
  | .tagset loc _ => v.holds loc
  | .object _ loc _ _ _ => v.holds loc
  | .waiter _ loc _ _ _ _ => v.holds loc
  | .task _ _ _ => x.place == hubPlace v.old
  | _ => false

/-- The launches with a dictionary whose groups a remap moves from a core. -/
def Mach.dictsOf (m : Mach) (v : Move) (c : Nat) : List Want :=
  ((((m.core c).savedOf v.ctx).filter (fun e => e.2.id.dsize != 0)).map (fun e => e.2.id.launch)).eraseDups.filterMap (fun lid =>
    (m.launches.get? lid).map (fun l => l.want lid false))

/-- A core takes the dictionaries of these launches, if it has the slots for them (R104, R339). -/
def Core.takeDicts (c : Core) : List Want → Option Core
  | [] => some c
  | w :: ws => match c.dictSlot w with
    | none => none
    | some _ =>
      let used : Group := { uid := 0, id := { ctx := w.ctx, launch := w.launch, dsize := 1 }, valloc := 16, pc := 0 }
      (Core.takeDicts { c.loadDict w with saved := c.saved.set (2 ^ 32 + w.launch) used } ws).map (fun d => { d with saved := c.saved })

/-- Every group is pre-empted and nothing of it is under way (R339, R356): then it is saved whole. -/
def Mach.quiet (m : Mach) (v : Move) : Bool :=
  (coresOf v.old).all (fun c =>
    let k := m.core c
    !k.groups.any (fun e => e.2.ownedBy (some v.ctx)) && (k.savedOf v.ctx).all (fun e => e.2.state == .preempted) &&
    k.drained v.ctx) &&
  !m.msgs.any (fun x => (v.uids.contains x.uid && clusterOf x.core == v.old) || v.meets x) &&
  !m.fabricAtomics.any (fun x => v.uids.contains x.uid) &&
  !m.jobs.any (fun j => j.steps.any (fun s => match s with
    | .acquire c _ u _ _ _ => v.uids.contains u && clusterOf c == v.old
    | _ => false)) &&
  v.pages.all (fun p => ((m.cluster v.old).pages.getD p {}).state != .lent)

/-- The new cluster can take it under the same numbers, and its cores have the room for the groups' estate entries (R128). -/
def Mach.fits (m : Mach) (v : Move) : Bool :=
  let k := m.cluster v.old
  let k' := m.cluster v.new
  (k.blocksOf v.ctx).all (fun e => (k'.blocks.get? e.1).isNone) &&
  v.pages.all (fun p => (k'.pages.getD p {}).state == .free) &&
  (k.wharf.filter (fun e => e.2.ctx == v.ctx)).all (fun e => (k'.wharf.get? e.1).isNone) &&
  k'.tasks.all (fun e => e.2.state == .free) &&
  (coresOf v.old).all (fun c =>
    ((m.core c).claims.filter (fun e => v.uids.contains e.2.uid)).all (fun e =>
      ((m.core (v.core c)).claims.get? e.1).isNone) &&
    ((m.core c).estate.filter (fun e => v.uids.contains e.2.uid)).length ≤ (m.core (v.core c)).estateFree &&
    ((m.core (v.core c)).takeDicts (m.dictsOf v c)).isSome &&
    (List.range 16).all (fun i => m.slotCtx c i != some v.ctx || !((m.core (v.core c)).slot i).live))

/-- The frames that these groups bind move with them: the cores, and the new number of each frame. -/
def moveFrames (v : Move) (gs : List Group) (a b : Core) : Core × Core × SMap Nat :=
  let fs := gs.flatMap (fun g => g.lines.flatMap (fun e => e.2.frames.filterMap id))
  fs.eraseDups.foldl (fun (x : Core × Core × SMap Nat) f =>
    let fr := x.1.frame f
    let n := fs.count f
    let b : Core := { x.2.1 with
      frames := x.2.1.frames.filter (fun e => e.2.line != fr.line || e.2.state == FrameState.pinned) }
    let f' := b.takeFrame
    (x.1.setFrame f { fr with pins := fr.pins - n, dirty := 0, state := if fr.pins ≤ n then .cached else fr.state },
     b.setFrame f' { fr with pins := n, line := v.loc fr.line }, x.2.2.set f f')) (a, b, [])

/-- A group as it stands on the new cluster. -/
def Group.moved (g : Group) (v : Move) (t : SMap Nat) : Group :=
  { g with lines := g.lines.mapVals (fun _ r => { r with
      locs := r.locs.map v.loc, frames := r.frames.map (fun o => o.map (fun f => t.getD f f)) }) }

/-- What one core holds of the context moves to the core of the same index, which loads the kernels' dictionaries (R104). -/
def Mach.moveCore (m : Mach) (v : Move) (c : Nat) : Mach :=
  let c' := v.core c
  let gs := (m.core c).savedOf v.ctx
  let slots := (List.range 16).filter (fun i => m.slotCtx c i == some v.ctx)
  let (a, b, t) := moveFrames v (gs.map (·.2)) (m.core c) (m.core c')
  let mine (uid : Nat) : Bool := v.uids.contains uid
  let b : Core := { b with
    saved := gs.foldl (fun s e => s.set e.1 (e.2.moved v t)) b.saved
    estate := (a.estate.filter (fun e => mine e.2.uid)).foldl (fun s e => match SMap.freeKey s Config.tableEntries with
      | some i => s.set i e.2
      | none => s) b.estate
    claims := (a.claims.filter (fun e => mine e.2.uid)).foldl (fun s e => s.set e.1 { e.2 with line := v.loc e.2.line }) b.claims
    savedAcc := a.savedAcc.foldl (fun s e => s.set e.1 e.2) b.savedAcc
    acc := slots.foldl (fun s i => s.set i (a.slot i)) b.acc }
  let b := (b.takeDicts (m.dictsOf v c)).getD b
  let a : Core := { a with
    saved := a.saved.filter (fun e => !mine e.1), estate := a.estate.filter (fun e => !mine e.2.uid)
    claims := a.claims.filter (fun e => !mine e.2.uid), savedAcc := [] }
  slots.foldl (fun m i => m.freeSlot c i) ((m.setCore c a).setCore c' b)

/-- A block as it stands on the new cluster. -/
def Block.moved (b : Block) (v : Move) : Block :=
  { b with
    members := b.members.mapVals (fun _ x => { x with core := v.core x.core })
    bars := b.bars.mapVals (fun _ x => { x with waits := x.waits.map (fun w => { w with core := v.core w.core }) })
    rings := b.rings.mapVals (fun _ x => { x with waits := x.waits.map (fun w => { w with core := v.core w.core }) })
    heldReleases := b.heldReleases.map (fun r => { r with core := v.core r.core }) }

/-- What the cluster holds of the context moves: pages with their bytes, hub state, wharf, and its whole task queue, with the tasks of
the harvest contexts there and the generation of every slot (R118, R338, R339). -/
def Mach.moveCluster (m : Mach) (v : Move) : Mach :=
  let k := m.cluster v.old
  let k' := m.cluster v.new
  let here (a : Nat) : Bool := v.pages.contains (a / Config.pageBytes)
  let k' := { k' with
    spad := (k.spad.filter (fun e => here e.1)).foldl (fun s e => s.set e.1 e.2) (k'.spad.filter (fun e => !here e.1))
    spadBad := k'.spadBad ++ k.spadBad.filter (fun w => here (4 * w))
    pages := v.pages.foldl (fun s p => s.set p (k.pages.getD p {})) k'.pages
    blocks := (k.blocksOf v.ctx).foldl (fun s e => s.set e.1 (e.2.moved v)) k'.blocks
    wharf := (k.wharf.filter (fun e => e.2.ctx == v.ctx)).foldl (fun s e => s.set e.1 e.2) k'.wharf
    tickets := k'.tickets ++ k.tickets.filter (fun t => t.ctx == v.ctx)
    tasks := k.tasks
    enqCount := if k'.enqCount.ult k.enqCount then k.enqCount else k'.enqCount }
  let k := { k with
    blocks := k.blocks.filter (fun e => e.2.ctx != v.ctx), wharf := k.wharf.filter (fun e => e.2.ctx != v.ctx)
    tickets := k.tickets.filter (fun t => t.ctx != v.ctx), layouts := k.layouts.filter (fun e => e.ctx != v.ctx)
    tasks := k.tasks.mapVals (fun _ t => t.freed) }
  v.pages.foldl (fun m p => m.freshPage v.old p (fun _ => {})) ((m.setCluster v.old k).setCluster v.new k')

/-- What waits for the moved groups, and for the words of the moved pages, follows them: waiters, watches and the marks of R319. -/
def Mach.moveWaits (m : Mach) (v : Move) : Mach :=
  let home (core uid : Nat) : Nat := if v.uids.contains uid then v.core core else core
  let mine (w : Watch) : Bool := v.uids.contains w.uid && v.holds (.spad v.old w.addr)
  let ws := ((m.cluster v.old).watches.filter mine).map (fun w => { w with core := v.core w.core })
  let m := m.modCluster v.old (fun k => { k with watches := k.watches.filter (fun w => !mine w) })
  { m.modCluster v.new (fun k => { k with watches := k.watches ++ ws }) with
    waitTab := m.waitTab.mapVals (fun _ e => { e with
      loc := v.loc e.loc, waiters := e.waiters.map (fun w => { w with core := home w.core w.uid }) })
    marks := m.marks.map (fun x => { x with word := v.loc x.word, core := home x.core x.uid }) }

/-- The notices of a cluster's cores are taken: what moves from them is as stale as it would become there (R87, R321). -/
def Mach.noticesOf (m : Mach) (cl : Nat) : Mach := (coresOf cl).foldl Mach.takeNotices m

/-- A remap that waits goes on: once everything is saved it moves, PHYS is new, and the groups return (R339). -/
def Mach.settleRemap (m : Mach) (n : Nat) : Mach :=
  match (m.ctx n).remap with
  | none => m
  | some (i, new) => match (m.ctx n).cmap.get? i with
    | none => m
    | some p =>
      let v := m.moveOf n p.toNat new
      if !m.quiet v || !m.fits v then m
      else
        let m := (((coresOf v.old).foldl (fun m c => m.moveCore v c) (m.noticesOf v.old)).moveCluster v).moveWaits v
        let m := (m.modCtx n (fun c => { c with cmap := c.cmap.set i (BitVec.ofNat 8 new), remap := none })).ctxAnswer n false
        (m.switchOn n opRestore (coresOf new)).opportunity

/-- The remaps that wait. -/
def Mach.settleRemaps (m : Mach) : Mach := (m.ctxs.map (·.1)).foldl Mach.settleRemap m

/-- A remap is refused. -/
def Mach.remapRefused (m : Mach) (n i new : Nat) : Bool :=
  let c := m.ctx n
  c.state != .live || c.harvest || c.cmd != 0 || c.remap.isSome || 32 ≤ new || (c.cmap.get? i).isNone ||
  m.clusterTaken n new || c.cmap.any (fun e => e.1 != i && e.2.toNat == new)

/-- A remap begins: pre-emption is asked of the context's groups on the old cluster, and lent pages come back (R339, R354). -/
def Mach.startRemap (m : Mach) (n i new : Nat) : Mach :=
  match (m.ctx n).cmap.get? i with
  | none => m
  | some p =>
    let old := p.toNat
    if old = new then m.ctxAnswer n false
    else
      let m := m.modCtx n (fun c => { c with remap := some (i, new) })
      let m := (coresOf old).foldl (fun m c => m.modCore c (fun k => k.askPreempt (some n) askRemap)) m
      let lent := (m.moveOf n old new).pages.filter (fun q => ((m.cluster old).pages.getD q {}).state == .lent)
      let (uid, m) := m.fresh
      let m := if lent = [] then m
        else m.reclaimPages (8 * old) { op := opReclaim, ctx := n, slot := 0, uid, kd := 47, pages := lent, due := 0 }
      m.settleRemap n

/-- REMAP (R339). -/
def execRemap (ctx logical phys : Nat) (s : State) : Host.Outcome State Fault Refusal :=
  s.host (fun m =>
    if 4096 ≤ ctx then m
    else if m.remapRefused ctx logical phys then m.modCtx ctx (fun c => { c with refused := true })
    else m.startRemap ctx logical phys)

/-- CONTEXT_SAVE_COMPLETE (R315, R339, R356, R389): what a core saves or restores is there. -/
def execContextSaveComplete (core : Nat) (s : State) : Host.Outcome State Fault Refusal :=
  s.during (s.clock core) (fun m => (m.serveOps core).settleAll.settleRemaps)

end Sys2Proof.Machine
end

