-- ==== Sys2Proof/Machine/FieldTests.lean ====
section
/-! DEFINITION. In-field tests of a cluster (R379, R408). -/

namespace Sys2Proof.Machine

/-- The test takes the cluster (R379 steps 1 and 3): pre-emption is asked of its owner groups, and harvest groups are
revoked. -/
def Mach.takeCluster (m : Mach) (cl : Nat) : Mach :=
  (coresOf cl).foldl (fun m core =>
    let m := m.modCore core (fun c => { c.askPreempt none askTest with testing := true })
    let hs := ((m.core core).groups.filter (fun e => e.2.id.harvest && e.2.state != .ending)).map (·.1)
    hs.foldl (fun m s => m.revoke core s) m) m

/-- IN_FIELD_TEST (R379, R408). -/
def execInFieldTest (cluster kind : Nat) (s : State) : Host.Outcome State Fault Refusal :=
  .next (if !s.mmio || 32 ≤ cluster || s.dev.test.any (fun t => t.aborted.isNone) then s
    else { s with mach := s.mach.takeCluster cluster, dev := { s.dev with test := some { cluster, kind } } })

/-- A group has run too far after the request, without a safe point or a wait (R379). -/
def Mach.overrun (m : Mach) (g : Group) : Bool :=
  g.preempt == some askTest && g.wait.isNone && 256 ≤ g.testRuns && 4 * (m.ctx g.id.ctx).callow.toNat < g.testRuns

/-- The lowest slot of a cluster whose group has exhausted the count. -/
def Mach.overrunSlot (m : Mach) (cl : Nat) : Option Nat :=
  (coresOf cl).findSome? (fun core => ((m.core core).groups.find? (fun e => m.overrun e.2)).map (·.1))

/-- The contexts of the groups that a test pre-empted on a core. -/
def Core.testCtxs (c : Core) : List Nat :=
  ((c.saved.filter (fun e => e.2.state == .preempted && e.2.preempt == some askTest)).map (fun e => e.2.id.ctx)).eraseDups

/-- What a test asked of a core is withdrawn, and its pre-empted groups return (R355, R379); blocks may be placed
on it again (log 105). -/
def Mach.releaseCore (m : Mach) (core : Nat) : Mach :=
  let ns := (m.core core).testCtxs
  let m := m.modCore core (fun c => { c with
    testing := false
    groups := c.groups.mapVals (fun _ g =>
      if g.preempt = some askTest then { g with preempt := none, atSafe := false, testRuns := 0 } else g) })
  (ns.foldl (fun m n => m.switchOn n opRestore [core]) m).opportunity

/-- TEST_ABORT (R379, R408): the abort is reported for each core, with the slot of the group that exhausted the count. -/
def execTestAbort (cluster : Nat) (s : State) : Host.Outcome State Fault Refusal :=
  .next (match s.dev.test, s.mach.overrunSlot cluster with
    | some t, some slot =>
      if t.cluster != cluster || t.aborted.isSome then s
      else { s with
        mach := (coresOf cluster).foldl Mach.releaseCore s.mach
        dev := { s.dev with
          test := some { t with aborted := some slot }, testReport := (coresOf cluster).map (fun core => (core, 2)) } }
    | _, _ => s)

/-- The cluster is the test's (R379 steps 2 to 4): every owner group is PREEMPTED or waits, harvest groups are parked, copies and
engine operations are DONE. -/
def Mach.clusterStill (m : Mach) (cl : Nat) : Bool :=
  (coresOf cl).all (fun core =>
    let c := m.core core
    c.groups.all (fun e => e.2.id.sup || (if e.2.id.harvest then e.2.inReserve else e.2.wait.isSome)) &&
    c.chans.all (fun ch => ch.2.entries.isEmpty) && c.engine.isEmpty)

/-- A core that failed is out of service: it places and issues nothing, and what was pre-empted from it stays (R379). -/
def Mach.failCore (m : Mach) (core : Nat) : Mach := m.modCore core (fun c => { c with outOfService := true, testing := false })

/-- TEST_REPORT (R379, R408): bit i of `pass` is the verdict on member i. -/
def execTestReport (cluster : Nat) (pass : BitVec 8) (s : State) : Host.Outcome State Fault Refusal :=
  .next (match s.dev.test with
    | none => s
    | some t =>
      if t.cluster != cluster || t.aborted.isSome || !s.mach.clusterStill cluster then s
      else { s with
        mach := (coresOf cluster).foldl (fun m core =>
          if pass.getLsbD (memberOf core) then m.releaseCore core else m.failCore core) s.mach
        dev := { s.dev with
          test := none
          testReport := (coresOf cluster).map (fun core => (core, if pass.getLsbD (memberOf core) then 1 else 0)) } })

end Sys2Proof.Machine
end

