-- ==== Sys2Proof/Machine/Gelolo.lean ====
section
/-! DEFINITION. Gelolo (R146, R147, R397 to R400): ports, requests of peer devices, reply caches, epochs and reduction
results. -/

namespace Sys2Proof.Machine

/-! ### Ports (R397, R440) -/

/-- GELOLO_PORT_TRAIN (R397, R406): on the host's command, once the device number is written. -/
def execGeloloPortTrain (port : Nat) (s : State) : Host.Outcome State Fault Refusal :=
  .next (if s.mmio && s.dev.numbered && port < 18 then { s with dev := { s.dev with ports := s.dev.ports.set port true } } else s)

/-- GELOLO_PORT_FAILURE (R397): the event is posted; requests in flight go by another port, or wait for one. -/
def execGeloloPortFailure (port : Nat) (s : State) : Host.Outcome State Fault Refusal :=
  .next (if s.dev.ports.getD port false then
    { s with mach := s.mach.postEvent 5 0xFFFF 0 (2 + port * 256), dev := { s.dev with ports := s.dev.ports.set port false } }
    else s)

/-- Some port is up, and the device runs. -/
def State.linked (s : State) : Bool := s.dev.running && s.dev.ports.contains true

/-! ### Requests of peers (R79, R83, R397) -/

/-- A page that is being migrated refuses requests at its old home (R79). -/
def Mach.migrating (m : Mach) (a : Nat) : Bool := m.migration.any (fun x => a / 65536 == x.old)

/-- A peer's write of bytes within one line. -/
def Mach.peerWrite (m : Mach) (a : Nat) (tag : FTag) (bs : List Byte) : Mach :=
  (m.writeAt (.dram a) bs (some tag) 0xFFFF 0 none none).mach

/-- A peer's read of bytes within one line is answered (R83, R397): with the bytes, or refused for a tag that disagrees (MISMATCH) or an
uncorrectable word (UNDELIVERABLE, log 26); the answer stands in place of the last one to that device for those bytes. -/
def Mach.peerRead (m : Mach) (src a : Nat) (tag : FTag) (n : Nat) : Mach :=
  let l := Loc.dram a
  let answer (m : Mach) (sts : Status) (data : List Byte) : Mach :=
    { m with peerReads := m.peerReads.filter (fun r => !(r.src == src && r.addr == a)) ++ [{ src, addr := a, sts, data }] }
  if m.anyClass l n (some tag) (· == .tagMismatch) then answer m .mismatch []
  else if m.anyClass l n (some tag) SecClass.bad then answer m .undeliverable []
  else answer (m.noteRead l n (some tag) 0xFFFF 0 none 1 0) .ok (m.bytesAt l n)

/-- A request of a peer gets to the home of its address: the device and the slice's die run (R397, R403, R404). -/
def State.takesPeer (s : State) (src addr : Nat) : Bool :=
  s.linked && src < 1024 && src != s.dev.number && addr < Config.dramBytes && s.dev.serves (sliceOf addr)

/-- PEER_REQUEST (R397): a read is answered, and a write is performed, where the tag agrees (R83). -/
def execPeerRequest (src : Nat) (addr : Nat) (tag : BitVec 4) (data : Option (List Byte)) (size : Nat) (s : State) :
    Host.Outcome State Fault Refusal :=
  .next (if !s.takesPeer src addr || Config.dramBytes < addr + size || 128 < addr % 128 + size || s.mach.migrating addr then s
    else match data with
    | none => { s with mach := s.mach.peerRead src addr tag size }
    | some bs => if bs.length != size then s else { s with mach := s.mach.peerWrite addr tag bs })

/-- The operation codes of a peer's atomic, in the order of row B of the opcode map (log 26). -/
def peerOp (n : Nat) : Option AtomOp :=
  [.add, .fadd, .minS, .maxS, .minN, .maxN, .and_, .or_, .xor_, .xchg, .cas][n]?

/-- rid is older than e, modulo 2^32 (R147). -/
def ridOlder (rid e : Word) : Bool := rid != e && !(e - rid).msb

/-- The sources that have a window in a slice's cache with a reply that is not acknowledged. -/
def openSources (rs : List Reply) : List Nat := ((rs.filter (fun r => !r.acked)).map (·.src)).eraseDups

/-- Room for one more reply of a source (R146, R147): its oldest acknowledged entry goes once it has 64, and for a new source
the entries of one whose replies are all acknowledged once there are 16 sources. -/
def roomFor (rs : List Reply) (src : Nat) : List Reply :=
  let mine := rs.filter (fun r => r.src == src)
  let srcs := (rs.map (·.src)).eraseDups
  if 64 ≤ mine.length then
    match mine.find? (·.acked) with
    | some r => rs.erase r
    | none => rs
  else if mine = [] ∧ 16 ≤ srcs.length then
    match srcs.find? (fun x => !(openSources rs).contains x) with
    | some x => rs.filter (fun r => r.src != x)
    | none => rs
  else rs

/-- The device answers a peer's atomic, in place of what it sent before under the same identifier: the status and the value, or a
refusal, which asks for the same request again (R147). -/
def Mach.peerAnswer (m : Mach) (src : Nat) (rid : Word) (reply : Option (Status × Dword)) : Mach :=
  { m with outbox := m.outbox.filter (fun x => !(x.src == src && x.rid == rid)) ++ [{ src, rid, reply }] }

/-- An identified atomic of a peer is executed, and its reply cached and sent (R146, R147): with a tag that disagrees or an
uncorrectable word it is not performed (R83, R253), and STS says so (log 26). -/
def Mach.peerAtomicDo (m : Mach) (src : Nat) (rid : Word) (op : AtomOp) (a : Nat) (tag : FTag) (n : Nat)
    (operand expected : Dword) : Mach :=
  let sl := sliceOf a
  let cls := m.secClass a (some tag)
  let old := BitVec.ofNat 64 (leNat (m.bytesAt (.dram a) n))
  let (m, sts, reply) : Mach × Status × Dword :=
    if cls == .tagMismatch then (m, Status.mismatch, 0#64)
    else if cls.bad then (m, Status.undeliverable, 0#64)
    else (m.peerWrite a tag (leBytes n (op.apply n old operand expected).toNat), Status.ok, old)
  let rs := roomFor (m.replies.getD sl []) src
  let cached : List Reply := rs ++ [{ src, sts, rid, reply, acked := false }]
  { m with replies := m.replies.set sl cached }.peerAnswer src rid (some (sts, reply))

/-- What becomes of an identified atomic (R147). -/
def Mach.peerAtomic (m : Mach) (src : Nat) (rid : Word) (op : AtomOp) (a : Nat) (tag : FTag) (n : Nat)
    (operand expected : Dword) : Mach :=
  let rs := m.replies.getD (sliceOf a) []
  let mine := rs.filter (fun r => r.src == src)
  match mine.find? (fun r => r.rid == rid) with
  | some r => m.peerAnswer src rid (some (r.sts, r.reply))
  | none =>
    if mine != [] && mine.all (fun r => ridOlder rid r.rid && r.acked) then m
    else if m.migrating a then m.peerAnswer src rid none
    else if mine != [] || (openSources rs).length < 16 then m.peerAtomicDo src rid op a tag n operand expected
    else m.peerAnswer src rid none

/-- A contribution of another device to a reduction window reaches the switches (R399). -/
def Mach.contribute (m : Mach) (src : Nat) (op : AtomOp) (a n : Nat) (operand : Dword) : Mach :=
  match m.windowOf a with
  | some (k, w) =>
    if !w.parts.getLsbD src || !op.reduces then m
    else { m with windows := m.windows.set k { w with held := w.held ++ [{ src, loc := a, op, n, operand, fabric := none }] } }
  | none => m

/-- The first address that names the fabric address space in a peer's atomic (log 26): physical addresses have 52 bits. -/
def fabricSpace : Nat := 2 ^ 52

/-- PEER_ATOMIC (R147, R399). -/
def execPeerAtomic (src : Nat) (rid : Word) (op : BitVec 4) (addr : Nat) (tag : BitVec 4) (size : Nat)
    (operand expected : Dword) (s : State) : Host.Outcome State Fault Refusal :=
  .next (match peerOp op.toNat with
    | none => s
    | some o =>
      if !s.linked || 1024 ≤ src || src = s.dev.number || !(size == 4 || size == 8) || addr % size != 0 then s
      else if fabricSpace ≤ addr then { s with mach := s.mach.contribute src o (addr - fabricSpace) size operand }
      else if !s.takesPeer src addr then s
      else { s with mach := s.mach.peerAtomic src rid o addr tag size operand expected })

/-- ACKNOWLEDGEMENT (R147): the reply has arrived. -/
def execAcknowledgement (slice src : Nat) (rid : Word) (s : State) : Host.Outcome State Fault Refusal :=
  .next { s with mach := { s.mach with
    outbox := s.mach.outbox.filter (fun x => !(x.src == src && x.rid == rid && x.reply.isSome))
    replies := s.mach.replies.mapVals (fun i rs =>
      if i = slice then rs.map (fun r => if r.src == src && r.rid == rid then { r with acked := true } else r) else rs) } }

/-! ### Epochs (R400) -/

/-- The number names the identifiers of atomics to a device: to its memory (TARGET 2), or to a window whose home it is (TARGET 3). -/
def epochOf (dev n : Nat) : Bool := n == dev || n == 1024 + dev

/-- What the switches hold for a window once one of its devices is reset: none of that device's contributions, and none at all where it is
the home (R400). -/
def RedWindow.afterReset (w : RedWindow) (dev : Nat) : RedWindow :=
  { w with held := if w.home = dev then [] else w.held.filter (fun c => c.src != dev) }

/-- A new epoch with a device: identifiers restart, its replies and the answers to it are gone, and the groups of unanswered atomics are
frozen, those of TARGET 3 too. -/
def Mach.newEpoch (m : Mach) (dev : Nat) : Mach :=
  let lost := m.fabricAtomics.filter (fun x => epochOf dev x.dev)
  let m := { m with
    replies := m.replies.mapVals (fun _ rs => rs.filter (fun r => r.src != dev))
    outbox := m.outbox.filter (fun x => x.src != dev)
    windows := m.windows.mapVals (fun _ w => w.afterReset dev)
    fabricRid := m.fabricRid.filter (fun e => !epochOf dev e.1)
    msgs := m.msgs.filter (fun x => match x.body with | .fabric d _ _ => !epochOf dev d | _ => true) }
  lost.foldl Mach.fabricFreeze m

/-- NEW_EPOCH (R400). -/
def execNewEpoch (dev : Nat) (s : State) : Host.Outcome State Fault Refusal :=
  .next (if dev < 1024 then { s with mach := s.mach.newEpoch dev } else s)

/-! ### Reduction results (R252, R399) -/

/-- The contributions that a round merges, by their numbers in the switches' list. -/
def RedWindow.round (w : RedWindow) (order : List Nat) : List Contribution := order.filterMap (fun i => w.held[i]?)

/-- The grouping of the fold from the left (R399), in postfix form: a number stands for a contribution, and none merges the two before
it. -/
def leftFold : List Nat → List (Option Nat)
  | [] => []
  | i :: is => some i :: is.flatMap (fun j => [some j, none])

/-- The merged value of a grouping in postfix form (R399), each merge one application of the operation: none where it is not one
value. -/
def RedWindow.merged (w : RedWindow) (op : AtomOp) (n : Nat) : List (Option Nat) → List Dword → Option Dword
  | [], [x] => some x
  | [], _ => none
  | some i :: r, vs => match w.held[i]? with
    | some c => w.merged op n r (c.operand :: vs)
    | none => none
  | none :: r, y :: x :: vs => w.merged op n r (op.apply n x y 0 :: vs)
  | none :: _, _ => none

/-- A contribution is its device's first to its word. -/
def RedWindow.first (w : RedWindow) (i : Nat) : Bool :=
  match w.held[i]? with
  | none => false
  | some c => !(w.held.take i).any (fun d => d.src == c.src && d.loc == c.loc)

/-- The round may close (R399): one word and one operation; in an ordered window every participant once, in rising order of
devices. -/
def RedWindow.closes (w : RedWindow) (order : List Nat) : Bool :=
  let cs := w.round order
  match cs with
  | [] => false
  | c :: _ =>
    cs.length == order.length && order.eraseDups.length == order.length &&
    cs.all (fun d => d.loc == c.loc && d.op == c.op && d.n == c.n) &&
    (w.opportunistic ||
      (order.all w.first && decide ((cs.map (·.src)).Pairwise (· < ·)) &&
        (List.range 1024).all (fun i => !w.parts.getLsbD i || cs.any (fun d => d.src == i))))

/-- The device's own contributions of a round are answered with 0. -/
def Mach.answerOwn (m : Mach) (cs : List Contribution) : Mach :=
  cs.foldl (fun m d => match d.fabric with
    | none => m
    | some (dev, rid) => match m.fabricAtomic? dev rid with
      | none => m
      | some a =>
        let done (y : FabricAtomic) : FabricAtomic := if y.dev == dev && y.rid == rid then { y with performed := some 0 } else y
        { m with fabricAtomics := m.fabricAtomics.map done }.send a.core a.slot a.uid (9000 + a.core) 0 false (.fabric dev rid true)) m

/-- One merged result x of a round is performed at the home as one atomic. -/
def Mach.reduce (m : Mach) (k : Nat) (w : RedWindow) (order : List Nat) (x : Dword) : Mach :=
  match w.round order with
  | [] => m
  | c :: cs =>
    let old := BitVec.ofNat 64 (leNat (m.bytesAt (.rwin c.loc) c.n))
    let m := (m.writeAt (.rwin c.loc) (leBytes c.n (c.op.apply c.n old x 0).toNat) none 0xFFFF 0 none none).mach
    let held := (w.held.zipIdx.filter (fun e => !order.contains e.2)).map (·.1)
    { m with windows := m.windows.set k { w with held } }.answerOwn (c :: cs)

/-- REDUCTION_RESULT (R399): a round closes, its contributions merged in a grouping given in postfix form, which in an ordered window is
the fold from the left; nothing at all says that the round of an ordered window cannot close, which the host sees as STATE 2 (log 26). -/
def execReductionResult (n : Nat) (merge : List (Option Nat)) (s : State) : Host.Outcome State Fault Refusal :=
  .next (match s.mach.windows.get? n with
    | none => s
    | some w =>
      let order := merge.filterMap id
      if !s.dev.running || w.state != 1 then s
      else if merge = [] then
        if w.opportunistic || w.held = [] then s
        else { s with mach := { s.mach with windows := s.mach.windows.set n { w with state := 2 } } }
      else match (w.round order).head?.bind (fun c => w.merged c.op c.n merge []) with
        | some x =>
          if w.closes order && (w.opportunistic || merge == leftFold order) then { s with mach := s.mach.reduce n w order x } else s
        | none => s)

end Sys2Proof.Machine
end

