-- ==== Sys2Proof/Machine/Power.lean ====
section
/-! DEFINITION. Power and temperature (R5, R385, R402 to R404): the host's power commands, the mesh planes, the thermal trip and
telemetry. -/

namespace Sys2Proof.Machine

/-! ### Power commands (R402) -/

/-- A cluster is in use: a group is resident on it, or one of its pages is ALLOC or LENT. -/
def Mach.clusterBusy (m : Mach) (cl : Nat) : Bool :=
  (List.range 8).any (fun i => (m.core (8 * cl + i)).groups.any (fun e => !e.2.id.sup)) ||
  (m.cluster cl).pages.any (fun e => e.2.state == .alloc || e.2.state == .lent)

/-- A power command is REFUSED. -/
def Mach.powerRefused (m : Mach) : PowerCmd → Bool
  | .setp die level => 4 ≤ die || 5 ≤ level
  | .gate cl off => 32 ≤ cl || (off && m.clusterBusy cl)
  | .light p => p == 0 || 4 ≤ p
  | .dark p => p == 0 || 4 ≤ p
  | .refresh stack mode => 8 ≤ stack || 3 ≤ mode || (mode == 2 && m.ctxs.any (fun e => e.2.state == .live))
  | .tripset t => t < 80 || 110 < t

/-- LIGHT: a plane that is darkening is lit once it is dark (R385). -/
def Plane.light : Plane → Plane
  | .dark => .lit
  | .darkening => .relight
  | p => p

/-- DARK: the plane takes no new packets (R385). -/
def Plane.darken : Plane → Plane
  | .lit => .darkening
  | .relight => .darkening
  | p => p

/-- What a power command does to the device. -/
def Device.power (d : Device) : PowerCmd → Device
  | .setp die level => { d with levels := d.levels.set die level }
  | .gate cl off =>
    let rest := d.gated.filter (fun x => x != cl)
    { d with gated := if off then cl :: rest else rest }
  | .light p => { d with planes := d.planes.mapIdx (fun i x => if i = p then x.light else x) }
  | .dark p => { d with planes := d.planes.mapIdx (fun i x => if i = p then x.darken else x) }
  | .refresh stack mode => { d with refresh := d.refresh.set stack mode }
  | .tripset t => { d with trip := t }

/-- The routers of a gated cluster count nothing (R158). -/
def Mach.gateCounts (m : Mach) : PowerCmd → Mach
  | .gate cl true => (List.range 8).foldl (fun m i =>
      m.modCore (8 * cl + i) (fun c => { c with congestion := [], meshSum := [], meshp := 0 }))
      { m with halves := m.halves.filter (fun e => (sliceSite (e.1 / 4)).cluster != cl) }
  | _ => m

/-- A power command is performed, and its status reads DONE or REFUSED; clocks that run again are a placement opportunity (log 105). -/
def State.perform (s : State) (c : PowerCmd) : State :=
  if s.mach.powerRefused c then { s with dev := { s.dev with cmdRefused := true } }
  else { s with mach := (s.mach.gateCounts c).opportunity, dev := { s.dev.power c with cmdRefused := false } }

/-- A LIGHT waits until its plane is dark (R385): it is not DONE, and the commands behind it wait (R402). -/
def Device.lightWaits (d : Device) : Bool := d.planes.contains .relight

/-- Commands that have waited are performed, in their order and one at a time (R402, R404). -/
def State.performAll (s : State) : List PowerCmd → State
  | [] => s
  | c :: cs =>
    if s.dev.lightWaits then { s with dev := { s.dev with queued := c :: cs } } else (s.perform c).performAll cs

/-- A power command is written: during a trip, and behind a LIGHT that waits, it is queued (R385, R402, R404). -/
def State.command (s : State) (c : PowerCmd) : Host.Outcome State Fault Refusal :=
  .next (if !s.mmio then s
    else if s.dev.tripped || s.dev.lightWaits then { s with dev := { s.dev with queued := s.dev.queued ++ [c] } }
    else s.perform c)

/-- SETP (R402, R403). -/
def execSetp (die level : Nat) (s : State) : Host.Outcome State Fault Refusal := s.command (.setp die level)

/-- GATE (R402). -/
def execGate (cluster : Nat) (off : Bool) (s : State) : Host.Outcome State Fault Refusal := s.command (.gate cluster off)

/-- LIGHT (R385, R402). -/
def execLight (plane : Nat) (s : State) : Host.Outcome State Fault Refusal := s.command (.light plane)

/-- DARK (R385, R402). -/
def execDark (plane : Nat) (s : State) : Host.Outcome State Fault Refusal := s.command (.dark plane)

/-- REFRESH (R402). -/
def execRefresh (stack mode : Nat) (s : State) : Host.Outcome State Fault Refusal := s.command (.refresh stack mode)

/-- TRIPSET (R402). -/
def execTripset (temp : Nat) (s : State) : Host.Outcome State Fault Refusal := s.command (.tripset temp)

/-- A plane's last packet is ejected: it is dark, or lit again when a LIGHT waits (R385). -/
def Plane.ejected : Plane → Plane
  | .darkening => .dark
  | .relight => .lit
  | p => p

/-- A dark plane's congestion counts are 0 (R158, R385). -/
def Mach.clearPlane (m : Mach) (p : Nat) : Mach :=
  { m with
    cores := m.cores.mapVals (fun _ c => { c with congestion := c.congestion.erase p })
    halves := m.halves.filter (fun e => e.1 % 4 != p) }

/-- PLANE_DARK (R385): a LIGHT that has waited for it is DONE, and the commands behind it follow (R402). -/
def execPlaneDark (plane : Nat) (s : State) : Host.Outcome State Fault Refusal :=
  .next (match s.dev.planes[plane]? with
    | none => s
    | some x =>
      if x == .lit || x == .dark then s
      else
        let t := { s with mach := s.mach.clearPlane plane, dev := { s.dev with planes := s.dev.planes.set plane x.ejected } }
        if x == .relight && !t.dev.tripped then { t with dev := { t.dev with queued := [] } }.performAll t.dev.queued else t)

/-! ### Temperature (R404) -/

/-- The readings of sensors: one that none is given for keeps its reading. -/
def readings (old new : List Nat) : List Nat := old.mapIdx (fun i x => new.getD i x)

/-- TELEMETRY_REFRESH (R404). -/
def execTelemetryRefresh (dieTemp diePower stackTemp : List Nat) (s : State) : Host.Outcome State Fault Refusal :=
  .next { s with dev := { s.dev with
    dieTemp := readings s.dev.dieTemp dieTemp, diePower := readings s.dev.diePower diePower
    stackTemp := readings s.dev.stackTemp stackTemp } }

/-- The reading of a sensor: 0 to 3 are the dies, 4 to 11 the stacks (log 25). -/
def Device.sensed (d : Device) (sensor temp : Nat) : Device :=
  if sensor < 4 then { d with dieTemp := d.dieTemp.set sensor temp } else { d with stackTemp := d.stackTemp.set (sensor - 4) temp }

/-- THERMAL_TRIP (R404): every clock of the compute dies stops, with all state kept, and a trip event is posted. -/
def execThermalTrip (sensor temp : Nat) (s : State) : Host.Outcome State Fault Refusal :=
  .next (if s.dev.tripped || !s.dev.running || 12 ≤ sensor || temp < s.dev.trip then s
    else { s with
      mach := s.mach.postEvent 4 0xFFFF 0 (sensor + temp * 2 ^ 16)
      dev := { s.dev.sensed sensor temp with tripped := true, running := false } })

/-- Every sensor reads 10 degrees below the trip. -/
def Device.cool (d : Device) : Bool := (d.dieTemp ++ d.stackTemp).all (fun t => t + 10 ≤ d.trip)

/-- TRIP_RESUME (R404): the clocks run again, and the commands written meanwhile are performed in their order. -/
def execTripResume (s : State) : Host.Outcome State Fault Refusal :=
  .next (if !s.mmio || !s.dev.tripped || !s.dev.cool then s
    else { s with mach := s.mach.opportunity
                  dev := { s.dev with tripped := false, running := true, queued := [] } }.performAll s.dev.queued)

end Sys2Proof.Machine
end

