-- ==== Sys2Proof/Machine/HostView.lean ====
section
/-! DEFINITION. What the host reads and writes: the MMIO regions of BAR 0 (R387, R390 to R392, R398, R440), the inject register
(R431) and the CXL.mem exposure windows (R394). Where the spec gives a register no offset, log 25 names the one used here. -/

namespace Sys2Proof.Machine

/-! ### Bytes of the regions that are read -/

/-- Byte o of a list of fields, each a width in bytes and a value. -/
def fieldByte : List (Nat × Nat) → Nat → Nat
  | [], _ => 0
  | (n, v) :: r, o => if o < n then byteOf v o else fieldByte r (o - n)

/-- The power status (log 25): 0 DONE, 1 REFUSED, 2 while commands wait (R385, R402, R404). -/
def Device.powerStatus (d : Device) : Nat := if d.lightWaits || !d.queued.isEmpty then 2 else if d.cmdRefused then 1 else 0

/-- Device control (log 25): device number, attach state, power status, MIGRATE, telemetry, plane thresholds, identity; R431 gives the
inject register its place. -/
def Device.controlByte (d : Device) (o : Nat) : Nat :=
  if 0x400 ≤ o && o < 0x408 then byteOf d.inject.toNat (o - 0x400)
  else if 0x40 ≤ o && o < 0x48 then byteOf Config.identity.toNat (o - 0x40)
  else fieldByte ([(4, d.number), (4, d.attach), (4, d.powerStatus), (4, d.migrateStatus)] ++
    d.dieTemp.map (2, ·) ++ d.diePower.map (2, ·) ++ d.stackTemp.map (2, ·) ++ d.thresholds.map (fun x => (1, x.toNat))) o

/-- A record of the event log as its number (R440). -/
def Event.bits (e : Event) : Nat :=
  e.kind + e.source * 2 ^ 16 + e.seq.toNat * 2 ^ 32 + e.cycle % 2 ^ 64 * 2 ^ 64 + e.data * 2 ^ 128

/-- The record that stands in place i of the ring: the last one posted there. -/
def EventLog.recordAt (l : EventLog) (i : Nat) : Nat :=
  let t := l.records.length
  if t ≤ i then 0
  else match l.records[t - 1 - (t - 1 - i) % 2046]? with
    | some e => e.bits
    | none => 0

def EventLog.byte (l : EventLog) (o : Nat) : Nat :=
  if 64 ≤ o then byteOf (l.recordAt ((o - 64) / 32)) ((o - 64) % 32)
  else fieldByte [(8, l.head.toNat), (8, l.tail.toNat), (8, l.lost.toNat)] o

/-- The factors' mailbox (log 26): EXHAUSTED, the slot that made a test abort, and the report of each core: 1 pass, 2 fail, 3 abort
(R408). -/
def Device.mailByte (d : Device) (o : Nat) : Nat :=
  if 0x100 ≤ o && o < 0x200 then
    match d.testReport.find? (fun e => e.1 == o - 0x100) with
    | some e => (match e.2 with | 1 => 1 | 2 => 3 | _ => 2)
    | none => 0
  else fieldByte [(4, if d.exhausted then 1 else 0),
    (4, match d.test with | some t => (match t.aborted with | some x => x + 1 | none => 0) | none => 0)] o

/-- A binding (R390). -/
def Queue.byte (q : Queue) (o : Nat) : Nat :=
  fieldByte [(1, (if q.en then 1 else 0) + (if q.keep then 2 else 0)), (5, 0), (2, q.ctx), (8, q.qcb.toNat)] o

/-- A per-core block (R391). Bits 12:8 of an event select read 0 (R9). -/
def Core.blockByte (c : Core) (o : Nat) : Nat :=
  if o < 0x40 then fieldByte [(4, c.sched.toNat), (4, 0), (4, c.capOwner), (4, c.capHarvest)] o
  else if o < 0x7C then byteOf ((c.select.getD ((o - 0x40) / 4 + 1) 0) &&& 0xE0FF).toNat ((o - 0x40) % 4)
  else if 0x100 ≤ o && o < 0x180 then byteOf (c.perf.getD ((o - 0x100) / 8) 0).toNat ((o - 0x100) % 8)
  else if 0x200 ≤ o && o < 0x208 then byteOf c.cycle (o - 0x200)
  else 0

/-- A reduction window entry (R398, log 25). -/
def RedWindow.byte (w : RedWindow) (o : Nat) : Nat :=
  fieldByte [(8, w.base), (8, w.size), (2, w.home), (1, if w.opportunistic then 1 else 0), (1, w.state), (44, 0),
    (128, w.parts.toNat)] o

/-- An exposure window (R394, log 25): base, size, tag, write enable. -/
def exposureByte (w : Nat × Nat × Nat × Bool) (o : Nat) : Nat :=
  fieldByte [(8, w.1), (8, w.2.1), (1, w.2.2.1), (1, if w.2.2.2 then 1 else 0)] o

/-- A byte of BAR 0 as the host reads it (R387). -/
def State.barByte (s : State) (a : Nat) : Nat :=
  let m := s.mach
  if a < 0x10000 then s.dev.controlByte a
  else if a < 0x20000 then m.log.byte (a - 0x10000)
  else if a < 0x30000 then s.dev.mailByte (a - 0x20000)
  else if 0x100000 ≤ a && a < 0x101000 then (m.queues.getD ((a - 0x100000) / 16) {}).byte (a % 16)
  else if 0x110000 ≤ a && a < 0x120000 then
    if a / 16 = 0x11010 then 0 else fieldByte [(4, s.dev.regStatus.getD ((a - 0x110000) / 16) 0)] (a % 16)
  else if 0x200000 ≤ a && a < 0x300000 then m.ctxByte ((a - 0x200000) / 256) (a % 256)
  else if 0x1000000 ≤ a && a < 0x1100000 then (m.core ((a - 0x1000000) / 4096)).blockByte (a % 4096)
  else if 0x2000000 ≤ a && a < 0x2001000 then (m.windows.getD ((a - 0x2000000) / 256) {}).byte (a % 256)
  else if 0x2001000 ≤ a && a < 0x2002000 then exposureByte (s.dev.exposure.getD ((a - 0x2001000) / 32) (0, 0, 0, false)) (a % 32)
  else 0

/-- An access of BAR 0 is 4 or 8 bytes, aligned to its size (R387). -/
def barAccess (off size : Nat) : Bool := (size == 4 || size == 8) && off % size == 0

/-! ### Writes -/

/-- A word of a per-core block is written (R350, R391). -/
def Core.writeBlock (c : Core) (o v : Nat) : Core :=
  if o = 0 then (if v < 2 ^ 24 then { c with sched := BitVec.ofNat 32 (v - v % 256) } else c)
  else if o = 8 then (if v ≤ Config.poolLines then { c with capOwner := v } else c)
  else if o = 12 then (if v ≤ Config.poolLines then { c with capHarvest := v } else c)
  else if 0x40 ≤ o && o < 0x7C then { c with select := c.select.set ((o - 0x40) / 4 + 1) (BitVec.ofNat 16 v) }
  else if 0x100 ≤ o && o < 0x180 then
    let i := (o - 0x100) / 8
    let old := (c.perf.getD i 0).toNat
    let x := if o % 8 = 0 then old - old % 2 ^ 32 + v else old % 2 ^ 32 + v * 2 ^ 32
    { c with perf := c.perf.set i (BitVec.ofNat 48 x) }
  else c

/-- A byte of a reduction window entry is written; STATE takes 0 or 1, and 0 discards the contributions held (R399). -/
def RedWindow.write (w : RedWindow) (o b : Nat) : RedWindow :=
  if o < 8 then { w with base := withByte w.base o b }
  else if o < 16 then { w with size := withByte w.size (o - 8) b }
  else if o < 18 then { w with home := withByte w.home (o - 16) b }
  else if o = 18 then { w with opportunistic := b % 2 = 1 }
  else if o = 19 then (match b with | 0 => { w with state := 0, held := [] } | 1 => { w with state := 1 } | _ => w)
  else if 64 ≤ o && o < 192 then { w with parts := BitVec.ofNat 1024 (withByte w.parts.toNat (o - 64) b) }
  else w

/-- A byte of an exposure window is written. -/
def writeExposure (w : Nat × Nat × Nat × Bool) (o b : Nat) : Nat × Nat × Nat × Bool :=
  if o < 8 then (withByte w.1 o b, w.2)
  else if o < 16 then (w.1, withByte w.2.1 (o - 8) b, w.2.2)
  else if o = 16 then (w.1, w.2.1, b % 16, w.2.2.2)
  else if o = 17 then (w.1, w.2.1, w.2.2.1, b % 2 = 1)
  else w

/-- SECTOR of the inject register, bits 51:5 (R431). -/
def injectSector : Dword := 0x000FFFFFFFFFFFE0

/-- The poison pattern is injected into a sector (R431): the register reads DONE or REFUSED. -/
def State.inject (s : State) (v : Dword) : State :=
  let pa := bitsOf v.toNat 5 47 * 32
  let base := v &&& injectSector
  if bitsOf v.toNat 52 9 != 0 || bitsOf v.toNat 0 5 != 0 || Config.dramBytes ≤ pa then
    { s with dev := { s.dev with inject := base ||| (2#64 <<< 61) } }
  else
    let m := { s.mach with ecc := s.mach.ecc.set (pa / 32) poisonErr }
    { s with
      mach := (m.notices (Loc.dram pa).line none).postEvent 7 0xFFFF 0 pa
      dev := { s.dev with inject := base ||| (1#64 <<< 61) } }

/-- A write of the inject register starts when GO is 1 (R431). With GO 0 it stores SECTOR: RES is the device's, and reserved bits are
stored as zero (R9). -/
def State.writeInject (s : State) (v : Dword) : State :=
  if v.msb then s.inject v
  else { s with dev := { s.dev with inject := (v &&& injectSector) ||| (s.dev.inject &&& (3#64 <<< 61)) } }

/-- Device control: the device number, the plane thresholds and the inject register (log 25). Power, attach and migration
commands have rows of their own. -/
def State.writeControl (s : State) (o size value : Nat) : State :=
  if o = 0 then { s with dev := { s.dev with number := value % 1024, numbered := true } }
  else if o = 0x30 then { s with dev := { s.dev with thresholds := (List.range 4).map (fun i => BitVec.ofNat 8 (byteOf value i)) } }
  else if o = 0x400 || o = 0x404 then
    s.writeInject (BitVec.ofNat 64 ((List.range size).foldl (fun v i => withByte v (o - 0x400 + i) (byteOf value i))
      s.dev.inject.toNat))
  else s

/-- The event log: the host writes HEAD, and a write of 0 clears LOST (R440). -/
def EventLog.write (l : EventLog) (o size value : Nat) : EventLog :=
  if o < 8 then { l with head := BitVec.ofNat 64 ((List.range size).foldl (fun v i => withByte v (o + i) (byteOf value i)) l.head.toNat) }
  else if 16 ≤ o && o < 24 && value = 0 then { l with lost := 0 }
  else l

/-- The wait-and-wake window (R392): the WAKE register at 0x100, and a registration at every other 16-byte offset, made when its bytes
15:12 are written, with its status at the same offset. -/
def State.writeWait (s : State) (o size value : Nat) : State :=
  if 0x100 ≤ o && o < 0x108 then
    let va := (List.range size).foldl (fun v i => withByte v (o - 0x100 + i) (byteOf value i)) s.dev.wakeVa.toNat
    { s with dev := { s.dev with wakeVa := BitVec.ofNat 56 va } }
  else if o = 0x108 then { s with mach := s.mach.hostWake (value % 65536) s.dev.wakeVa }
  else if o / 16 = 16 then s
  else
    let at' := 0x110000 + o / 16 * 16
    let m := (List.range size).foldl (fun m i => m.putMmio (0x110000 + o + i) (BitVec.ofNat 8 (byteOf value i))) s.mach
    if 12 ≤ o % 16 || (o % 16 = 8 && size = 8) then
      let f (i n : Nat) : Nat := leNat ((List.range n).map (fun k => m.mmioByte (at' + i + k)))
      let r := m.register (BitVec.ofNat 56 (f 0 8)) (f 8 2) (f 10 2) (BitVec.ofNat 32 (f 12 4))
      { s with mach := r.1, dev := { s.dev with regStatus := s.dev.regStatus.set (o / 16) r.2 } }
    else { s with mach := m }

/-- A write of BAR 0 (R387). -/
def State.writeBar (s : State) (a size value : Nat) : State :=
  let m := s.mach
  if a < 0x10000 then s.writeControl a size value
  else if a < 0x20000 then { s with mach := { m with log := m.log.write (a - 0x10000) size value } }
  else if 0x100000 ≤ a && a < 0x101000 then { s with mach := m.storeBinding ((a - 0x100000) / 16) (a % 16) size value }
  else if 0x110000 ≤ a && a < 0x120000 then s.writeWait (a - 0x110000) size value
  else if 0x200000 ≤ a && a < 0x300000 then
    { s with mach := m.writeCtx s.dev.number ((a - 0x200000) / 256) (a % 256) size value }
  else if 0x1000000 ≤ a && a < 0x1100000 then
    { s with mach := m.modCore ((a - 0x1000000) / 4096) (fun c =>
        let c := c.writeBlock (a % 4096) (value % 2 ^ 32)
        if size = 8 then c.writeBlock (a % 4096 + 4) (value / 2 ^ 32) else c) }
  else if 0x2000000 ≤ a && a < 0x2001000 then
    let i := (a - 0x2000000) / 256
    let w := (List.range size).foldl (fun w k => RedWindow.write w (a % 256 + k) (byteOf value k)) (m.windows.getD i {})
    { s with mach := { m with windows := m.windows.set i w } }
  else if 0x2001000 ≤ a && a < 0x2001100 then
    let i := (a - 0x2001000) / 32
    let w := (List.range size).foldl (fun w k => writeExposure w (a % 32 + k) (byteOf value k))
      (s.dev.exposure.getD i (0, 0, 0, false))
    { s with dev := { s.dev with exposure := s.dev.exposure.set i w } }
  else s

/-- MMIO_WRITE (R387): while the device runs detached, a write of a binding reaches KEEP alone (R395). -/
def execMmioWrite (off size : Nat) (value : Dword) (s : State) : Host.Outcome State Fault Refusal :=
  .next (if !barAccess off size then s
    else if s.mmio then s.writeBar off size (value.toNat % 256 ^ size)
    else if s.detached && 0x100000 ≤ off && off < 0x101000 && off % 16 = 0 then
      { s with mach := s.mach.writeKeep ((off - 0x100000) / 16) (value.getLsbD 1) }
    else s)

/-- INJECT (R431): a write of the inject register. -/
def execInject (value : BitVec 64) (s : State) : Host.Outcome State Fault Refusal :=
  .next (if s.mmio then s.writeInject value else s)

/-- REDUCTION_WINDOW_STATE_WRITE (R399): STATE 0 discards the contributions held. -/
def execReductionWindowStateWrite (entry : Nat) (s : State) : Host.Outcome State Fault Refusal :=
  s.host (fun m => match m.windows.get? entry with
    | some w => { m with windows := m.windows.set entry (w.write 19 0) }
    | none => m)

/-! ### CXL.mem (R374, R389, R394) -/

/-- The part of a save area that the host may read (R389): the fault queue, the binding table, where UNBIND
writes VALID alone (R136), and the host-write reserve. -/
def Ctx.saveByte (c : Ctx) (o : Nat) : Option Nat :=
  if o < 0x200000 then
    let i := o / 32
    (c.fq.zipIdx.find? (fun e => (c.fqhead.toNat + e.2) % 2 ^ c.fqsize == i)).map (fun e =>
      byteOf ((e.1.words.map BitVec.toNat).foldr (fun x v => x + 2 ^ 32 * v) 0) (o % 32))
  else if o < 0x208000 then
    match c.bindings.get? ((o - 0x200000) / 32) with
    | some b => some (fieldByte [(8, if b.valid then 1 else 0), (8, b.base.toNat), (8, b.limit.toNat), (8, b.obj.toNat)] (o % 32))
    | none => some 0
  else if 0x400000 ≤ o && o < 0x4400000 && !c.viral then
    let i := (o - 0x400000) / 160
    let k := (o - 0x400000) % 160
    (c.reserve.find? (fun r => r.seq.toNat % Config.reserveRecords == i)).map (fun r =>
      if 32 ≤ k then (r.data.getD (k - 32) 0).toNat
      else fieldByte [(8, r.seq.toNat), (8, r.line), (16, r.mask.toNat)] k)
  else none

/-- A byte of device memory as the host reads it. -/
def Mach.hostView (m : Mach) (a : Nat) : Byte :=
  match m.ctxs.find? (fun e => e.2.state != .free && e.2.sabase ≤ a && a < e.2.sabase + e.2.sasize * 1048576) with
  | some (_, c) => match c.saveByte (a - c.sabase) with
    | some b => BitVec.ofNat 8 b
    | none => m.dram.read a
  | none => m.dram.read a

/-- An exposure window as it maps: base and size are multiples of 64 MiB, and the access lies inside it. -/
def exposed (w : Nat × Nat × Nat × Bool) (addr n : Nat) : Bool :=
  w.1 % 67108864 == 0 && w.2.1 % 67108864 == 0 && addr + n ≤ w.2.1 && w.1 + addr + n ≤ Config.dramBytes

/-- A violation by the host function (R374): it is frozen, its requests abort, and an event is posted. -/
def Mach.freezeHost (m : Mach) (a : Nat) : Mach :=
  { m with hostFrozen := true, hostReply := none }.postEvent 6 0xFFFF 0 a

/-- The classes of the sectors of a range under a window's tag. -/
def Mach.rangeClass (m : Mach) (a n : Nat) (tag : FTag) (p : SecClass → Bool) : Bool :=
  (List.range ((a + n - 1) / 32 + 1 - a / 32)).any (fun i => p (m.secClass ((a / 32 + i) * 32) (some tag)))

/-- A host read through a window (R83, R394). -/
def Mach.hostRead (m : Mach) (w : Nat × Nat × Nat × Bool) (addr n : Nat) : Mach :=
  let a := w.1 + addr
  let tag := BitVec.ofNat 4 w.2.2.1
  if m.rangeClass a n tag (fun c => c == .tagMismatch) then m.freezeHost a
  else if m.rangeClass a n tag SecClass.bad then { m with hostReply := none }
  else
    let m := m.noteRead (.dram a) n (some tag) 0xFFFF 0 none 1 0
    { m with hostReply := some ((List.range n).map (fun i => m.hostView (a + i))) }

/-- Bytes of a host write are performed line by line at their homes; n bounds the lines. -/
def Mach.hostStoreLines (m : Mach) (a : Nat) (bs : List Byte) (tag : FTag) : Nat → Mach
  | 0 => m
  | k + 1 =>
    if bs = [] then m
    else
      let c := 128 - a % 128
      (m.writeAt (.dram a) (bs.take c) (some tag) 0xFFFF 0 none none).mach.hostStoreLines (a + c) (bs.drop c) tag k

/-- A host write through a window (R84, R394). -/
def Mach.hostWrite (m : Mach) (w : Nat × Nat × Nat × Bool) (addr : Nat) (bs : List Byte) : Mach :=
  let a := w.1 + addr
  let n := bs.length
  let tag := BitVec.ofNat 4 w.2.2.1
  let lines := (List.range ((a + n - 1) / 128 + 1 - a / 128)).map (fun i => (a / 128 + i) * 128)
  if !w.2.2.2 || lines.any (fun l => m.inSaveArea l || m.lineTag l != tag) then m.freezeHost a
  else m.hostStoreLines a bs tag (lines.length)

/-- The homes of n bytes of device memory take accesses: their dies run (R403), with no trip (R404). -/
def Device.homesRun (d : Device) (a n : Nat) : Bool :=
  (List.range ((a + n - 1) / 128 + 1 - a / 128)).all (fun i => d.serves (sliceOf ((a / 128 + i) * 128)))

/-- HOST_READ (R387, R394): windows 0 to 7 are CXL.mem; window 8 is BAR 0, which CXL.io reads in every attach state (R395, R405). A read
of homes that take no access waits at the bridge (R403). -/
def execHostRead (window addr size : Nat) (s : State) : Host.Outcome State Fault Refusal :=
  .next (if window = 8 then
      if !s.dev.linkUp then s
      else { s with mach := { s.mach with hostReply := some ((List.range size).map (fun i =>
          if barAccess addr size then BitVec.ofNat 8 (s.barByte (addr + i)) else 0)) } }
    else if !s.mmio then s
    else match s.dev.exposure.get? window with
      | none => s
      | some w =>
        if size = 0 || !exposed w addr size then s
        else if s.mach.hostFrozen then { s with mach := { s.mach with hostReply := none } }
        else if !s.dev.homesRun (w.1 + addr) size then s
        else { s with mach := s.mach.hostRead w addr size })

/-- HOST_WRITE (R394). -/
def execHostWrite (window addr : Nat) (data : List Byte) (s : State) : Host.Outcome State Fault Refusal :=
  .next (if !s.mmio then s
    else match s.dev.exposure.get? window with
      | none => s
      | some w =>
        if data = [] || !exposed w addr data.length || s.mach.hostFrozen || !s.dev.homesRun (w.1 + addr) data.length then s
        else { s with mach := s.mach.hostWrite w addr data })

/-- HOST_FUNCTION_CLEAR (R374). -/
def execHostFunctionClear (s : State) : Host.Outcome State Fault Refusal := s.host (fun m => { m with hostFrozen := false })

end Sys2Proof.Machine
end

