-- ==== Sys2Proof/Machine/Migrate.lean ====
section
/-! DEFINITION. Page migration (R79, R401): the host names the old and the new 64 KiB frame; the copy is made once nothing is
queued for the page and no frame pins a line of it. -/

namespace Sys2Proof.Machine

/-- A device address lies in a 64 KiB page frame. -/
def inFrame (frame a : Nat) : Bool := a / 65536 == frame

/-- A location lies in a page frame of device memory. -/
def Loc.inFrame (l : Loc) (frame : Nat) : Bool := match l with | .dram a => Sys2Proof.Machine.inFrame frame a | _ => false

/-- The place that a message's request is queued for. -/
def MsgBody.target : MsgBody → Option Loc
  | .fetch _ _ _ line _ => some line
  | .writeBack line _ _ _ _ _ _ => some line
  | .atomic _ loc _ _ _ _ _ _ _ => some loc
  | .put loc _ _ _ _ _ _ => some loc
  | .counter loc _ _ _ => some loc
  | .tagset loc _ => some loc
  | .tagget loc _ _ => some loc
  | .object _ loc _ _ _ => some loc
  | .waiter _ loc _ _ _ _ => some loc
  | _ => none

/-- Every request for the page has drained (R401 step 3). -/
def Mach.pageDrained (m : Mach) (frame : Nat) : Bool := !m.msgs.any (fun x => x.body.target.any (fun l => l.inFrame frame))

/-- No line of the page is pinned (R401 step 4). -/
def Mach.pageUnpinned (m : Mach) (frame : Nat) : Bool :=
  !m.cores.any (fun e => e.2.frames.any (fun f => f.2.line.inFrame frame && (f.2.state == .pinned || f.2.state == .fetching)))

/-- A location follows its page to a new frame. -/
def Loc.migrated (old new : Nat) (l : Loc) : Loc :=
  match l with
  | .dram a => if Sys2Proof.Machine.inFrame old a then .dram (a - old * 65536 + new * 65536) else l
  | _ => l

/-- The 64 KiB are copied with their tags and their code words (R401 step 5); frames of both pages that nobody pins leave the
line stores, and lines of both the slice caches. The waits for its words, and the marks of R319, go to the new home (R79). -/
def Mach.copyPage (m : Mach) (old new : Nat) : Mach :=
  let o := old * 65536
  let n := new * 65536
  let bytes := m.dram.filter (fun e => inFrame old e.1)
  let dram := bytes.foldl (fun d e => Memory.write d (e.1 - o + n) e.2) (m.dram.filter (fun e => !inFrame new e.1))
  let tags := (m.tags.filter (fun e => e.1 / 512 == old)).foldl (fun t e => SMap.set t (e.1 - old * 512 + new * 512) e.2)
    (m.tags.filter (fun e => e.1 / 512 != new))
  let ecc := (m.ecc.filter (fun e => e.1 / 2048 == old)).foldl (fun t e => SMap.set t (e.1 - old * 2048 + new * 2048) e.2)
    (m.ecc.filter (fun e => e.1 / 2048 != new))
  let slices := m.slices.mapVals (fun _ ls => ls.filter (fun l => !(inFrame old l.line || inFrame new l.line)))
  { m with
    dram, tags, ecc, slices
    waitTab := m.waitTab.mapVals (fun _ e => { e with loc := e.loc.migrated old new })
    marks := m.marks.map (fun x => { x with word := x.word.migrated old new })
    cores := m.cores.mapVals (fun _ c => { c with
      frames := c.frames.filter (fun f => !(f.2.line.inFrame old || f.2.line.inFrame new) || f.2.state == .pinned) }) }

/-- The MIGRATE register reads 0 none, 1 under way, 2 DONE, 3 BUSY (log 25). -/
def State.migrated (s : State) (m : Mach) (status : Nat) : State :=
  { s with mach := { m with migration := none }, dev := { s.dev with migrateStatus := status } }

/-- MIGRATE (R401). -/
def execMigrate (old new : Nat) (s : State) : Host.Outcome State Fault Refusal :=
  .next (if !s.mmio || s.mach.migration.isSome || Config.dramBytes < (old + 1) * 65536 || Config.dramBytes < (new + 1) * 65536
    then s
    else { s with mach := { s.mach with migration := some { old, new } }, dev := { s.dev with migrateStatus := 1 } })

/-- MIGRATE_DONE (R401). -/
def execMigrateDone (s : State) : Host.Outcome State Fault Refusal :=
  .next (match s.mach.migration with
    | none => s
    | some x => if s.dev.running && s.mach.pageDrained x.old && s.mach.pageUnpinned x.old then
        s.migrated (s.mach.copyPage x.old x.new) 2 else s)

/-- MIGRATE_BUSY (R401): the limit of step 4 has passed, and nothing is copied. -/
def execMigrateBusy (s : State) : Host.Outcome State Fault Refusal :=
  .next (match s.mach.migration with
    | none => s
    | some x => if s.mach.pageUnpinned x.old then s else s.migrated s.mach 3)

end Sys2Proof.Machine
end

