-- ==== Sys2Proof/Machine/Dispatch.lean ====
section
/-! DEFINITION. Dispatch: one arm per constructor of Instr, each a direct call of that instruction's meaning. -/

namespace Sys2Proof.Machine

/-- The effect of one instruction or event on the whole machine. -/
def exec (i : Instr) (s : State) : Host.Outcome State Fault Refusal :=
  match i with
  | .nop w => Sys2Proof.Machine.execNop w s
  | .bra w => Sys2Proof.Machine.execBra w s
  | .brany w => Sys2Proof.Machine.execBrany w s
  | .brx w => Sys2Proof.Machine.execBrx w s
  | .call w => Sys2Proof.Machine.execCall w s
  | .ret w => Sys2Proof.Machine.execRet w s
  | .pushm w => Sys2Proof.Machine.execPushm w s
  | .flipm w => Sys2Proof.Machine.execFlipm w s
  | .popm w => Sys2Proof.Machine.execPopm w s
  | .breakm w => Sys2Proof.Machine.execBreakm w s
  | .safept w => Sys2Proof.Machine.execSafept w s
  | .exit w => Sys2Proof.Machine.execExit w s
  | .yield w => Sys2Proof.Machine.execYield w s
  | .trap w => Sys2Proof.Machine.execTrap w s
  | .syscall w => Sys2Proof.Machine.execSyscall w s
  | .eret w => Sys2Proof.Machine.execEret w s
  | .iadd w => Sys2Proof.Machine.execIadd w s
  | .isub w => Sys2Proof.Machine.execIsub w s
  | .imul w => Sys2Proof.Machine.execImul w s
  | .imulhs w => Sys2Proof.Machine.execImulhs w s
  | .imulhn w => Sys2Proof.Machine.execImulhn w s
  | .imad w => Sys2Proof.Machine.execImad w s
  | .iabs w => Sys2Proof.Machine.execIabs w s
  | .ineg w => Sys2Proof.Machine.execIneg w s
  | .iminS w => Sys2Proof.Machine.execIminS w s
  | .iminN w => Sys2Proof.Machine.execIminN w s
  | .imaxS w => Sys2Proof.Machine.execImaxS w s
  | .imaxN w => Sys2Proof.Machine.execImaxN w s
  | .iaddminS w => Sys2Proof.Machine.execIaddminS w s
  | .iaddsatS w => Sys2Proof.Machine.execIaddsatS w s
  | .isubsatS w => Sys2Proof.Machine.execIsubsatS w s
  | .iaddmaxS w => Sys2Proof.Machine.execIaddmaxS w s
  | .iaddi w => Sys2Proof.Machine.execIaddi w s
  | .imuli w => Sys2Proof.Machine.execImuli w s
  | .andi w => Sys2Proof.Machine.execAndi w s
  | .ori w => Sys2Proof.Machine.execOri w s
  | .xori w => Sys2Proof.Machine.execXori w s
  | .shli w => Sys2Proof.Machine.execShli w s
  | .shrli w => Sys2Proof.Machine.execShrli w s
  | .shrai w => Sys2Proof.Machine.execShrai w s
  | .movi w => Sys2Proof.Machine.execMovi w s
  | .movhi w => Sys2Proof.Machine.execMovhi w s
  | .ldk w => Sys2Proof.Machine.execLdk w s
  | .iadd64 w => Sys2Proof.Machine.execIadd64 w s
  | .isub64 w => Sys2Proof.Machine.execIsub64 w s
  | .imadw w => Sys2Proof.Machine.execImadw w s
  | .icmpiS w => Sys2Proof.Machine.execIcmpiS w s
  | .sel w => Sys2Proof.Machine.execSel w s
  | .and_ w => Sys2Proof.Machine.execAnd w s
  | .or_ w => Sys2Proof.Machine.execOr w s
  | .xor w => Sys2Proof.Machine.execXor w s
  | .andn w => Sys2Proof.Machine.execAndn w s
  | .not_ w => Sys2Proof.Machine.execNot w s
  | .shl w => Sys2Proof.Machine.execShl w s
  | .shrl w => Sys2Proof.Machine.execShrl w s
  | .shra w => Sys2Proof.Machine.execShra w s
  | .rotl w => Sys2Proof.Machine.execRotl w s
  | .clz w => Sys2Proof.Machine.execClz w s
  | .ctz w => Sys2Proof.Machine.execCtz w s
  | .popc w => Sys2Proof.Machine.execPopc w s
  | .brev w => Sys2Proof.Machine.execBrev w s
  | .bfx w => Sys2Proof.Machine.execBfx w s
  | .bfi w => Sys2Proof.Machine.execBfi w s
  | .prmb w => Sys2Proof.Machine.execPrmb w s
  | .icmpS w => Sys2Proof.Machine.execIcmpS w s
  | .icmpN w => Sys2Proof.Machine.execIcmpN w s
  | .fcmp w => Sys2Proof.Machine.execFcmp w s
  | .pset w => Sys2Proof.Machine.execPset w s
  | .pand w => Sys2Proof.Machine.execPand w s
  | .por w => Sys2Proof.Machine.execPor w s
  | .pxor w => Sys2Proof.Machine.execPxor w s
  | .pmov w => Sys2Proof.Machine.execPmov w s
  | .voteAny w => Sys2Proof.Machine.execVoteAny w s
  | .voteAll w => Sys2Proof.Machine.execVoteAll w s
  | .ballot w => Sys2Proof.Machine.execBallot w s
  | .mov w => Sys2Proof.Machine.execMov w s
  | .movk w => Sys2Proof.Machine.execMovk w s
  | .rdsr w => Sys2Proof.Machine.execRdsr w s
  | .wrsr w => Sys2Proof.Machine.execWrsr w s
  | .wid w => Sys2Proof.Machine.execWid w s
  | .shflIdx w => Sys2Proof.Machine.execShflIdx w s
  | .shflUp w => Sys2Proof.Machine.execShflUp w s
  | .shflDn w => Sys2Proof.Machine.execShflDn w s
  | .shflXor w => Sys2Proof.Machine.execShflXor w s
  | .bcast w => Sys2Proof.Machine.execBcast w s
  | .rdth w => Sys2Proof.Machine.execRdth w s
  | .wrth w => Sys2Proof.Machine.execWrth w s
  | .redaddS w => Sys2Proof.Machine.execRedaddS w s
  | .redminS w => Sys2Proof.Machine.execRedminS w s
  | .redmaxS w => Sys2Proof.Machine.execRedmaxS w s
  | .redaddF32 w => Sys2Proof.Machine.execRedaddF32 w s
  | .scanaddS w => Sys2Proof.Machine.execScanaddS w s
  | .scanaddF32 w => Sys2Proof.Machine.execScanaddF32 w s
  | .match_ w => Sys2Proof.Machine.execMatch w s
  | .elect w => Sys2Proof.Machine.execElect w s
  | .gsize w => Sys2Proof.Machine.execGsize w s
  | .fadd w => Sys2Proof.Machine.execFadd w s
  | .fsub w => Sys2Proof.Machine.execFsub w s
  | .fmul w => Sys2Proof.Machine.execFmul w s
  | .ffma w => Sys2Proof.Machine.execFfma w s
  | .fmin w => Sys2Proof.Machine.execFmin w s
  | .fmax w => Sys2Proof.Machine.execFmax w s
  | .fneg w => Sys2Proof.Machine.execFneg w s
  | .fabs w => Sys2Proof.Machine.execFabs w s
  | .frcp w => Sys2Proof.Machine.execFrcp w s
  | .frsq w => Sys2Proof.Machine.execFrsq w s
  | .fsqrt w => Sys2Proof.Machine.execFsqrt w s
  | .fexp2 w => Sys2Proof.Machine.execFexp2 w s
  | .flog2 w => Sys2Proof.Machine.execFlog2 w s
  | .ftanh w => Sys2Proof.Machine.execFtanh w s
  | .fsig w => Sys2Proof.Machine.execFsig w s
  | .faddmin w => Sys2Proof.Machine.execFaddmin w s
  | .haddBf w => Sys2Proof.Machine.execHaddBf w s
  | .hmulBf w => Sys2Proof.Machine.execHmulBf w s
  | .hfmaBf w => Sys2Proof.Machine.execHfmaBf w s
  | .haddHf w => Sys2Proof.Machine.execHaddHf w s
  | .hmulHf w => Sys2Proof.Machine.execHmulHf w s
  | .hfmaHf w => Sys2Proof.Machine.execHfmaHf w s
  | .hminBf w => Sys2Proof.Machine.execHminBf w s
  | .hmaxBf w => Sys2Proof.Machine.execHmaxBf w s
  | .hminHf w => Sys2Proof.Machine.execHminHf w s
  | .hmaxHf w => Sys2Proof.Machine.execHmaxHf w s
  | .hdotBf w => Sys2Proof.Machine.execHdotBf w s
  | .hdotHf w => Sys2Proof.Machine.execHdotHf w s
  | .mdot4 w => Sys2Proof.Machine.execMdot4 w s
  | .idot4S w => Sys2Proof.Machine.execIdot4S w s
  | .idot8S w => Sys2Proof.Machine.execIdot8S w s
  | .frnd w => Sys2Proof.Machine.execFrnd w s
  | .cvtF32S32 w => Sys2Proof.Machine.execCvtF32S32 w s
  | .cvtS32F32 w => Sys2Proof.Machine.execCvtS32F32 w s
  | .cvtF32N32 w => Sys2Proof.Machine.execCvtF32N32 w s
  | .cvtN32F32 w => Sys2Proof.Machine.execCvtN32F32 w s
  | .cvtBfF32 w => Sys2Proof.Machine.execCvtBfF32 w s
  | .cvtF32Bf w => Sys2Proof.Machine.execCvtF32Bf w s
  | .cvtHfF32 w => Sys2Proof.Machine.execCvtHfF32 w s
  | .cvtF32Hf w => Sys2Proof.Machine.execCvtF32Hf w s
  | .cvtM8F32 w => Sys2Proof.Machine.execCvtM8F32 w s
  | .cvtF32M8 w => Sys2Proof.Machine.execCvtF32M8 w s
  | .cvtM4F32 w => Sys2Proof.Machine.execCvtM4F32 w s
  | .cvtF32M4 w => Sys2Proof.Machine.execCvtF32M4 w s
  | .cvtI8S32 w => Sys2Proof.Machine.execCvtI8S32 w s
  | .cvtI4S32 w => Sys2Proof.Machine.execCvtI4S32 w s
  | .setfmt w => Sys2Proof.Machine.execSetfmt w s
  | .getfmt w => Sys2Proof.Machine.execGetfmt w s
  | .open_ w => Sys2Proof.Machine.execOpen w s
  | .openW w => Sys2Proof.Machine.execOpenW w s
  | .recall w => Sys2Proof.Machine.execRecall w s
  | .recallD w => Sys2Proof.Machine.execRecallD w s
  | .ldB8s w => Sys2Proof.Machine.execLdB8s w s
  | .ldB8n w => Sys2Proof.Machine.execLdB8n w s
  | .ldH16s w => Sys2Proof.Machine.execLdH16s w s
  | .ldH16n w => Sys2Proof.Machine.execLdH16n w s
  | .ldW32 w => Sys2Proof.Machine.execLdW32 w s
  | .ldW64 w => Sys2Proof.Machine.execLdW64 w s
  | .ldW128 w => Sys2Proof.Machine.execLdW128 w s
  | .stB8 w => Sys2Proof.Machine.execStB8 w s
  | .stH16 w => Sys2Proof.Machine.execStH16 w s
  | .stW32 w => Sys2Proof.Machine.execStW32 w s
  | .stW64 w => Sys2Proof.Machine.execStW64 w s
  | .stW128 w => Sys2Proof.Machine.execStW128 w s
  | .spset w => Sys2Proof.Machine.execSpset w s
  | .spnarrow w => Sys2Proof.Machine.execSpnarrow w s
  | .spadv w => Sys2Proof.Machine.execSpadv w s
  | .spget w => Sys2Proof.Machine.execSpget w s
  | .spchk w => Sys2Proof.Machine.execSpchk w s
  | .spsave w => Sys2Proof.Machine.execSpsave w s
  | .spload w => Sys2Proof.Machine.execSpload w s
  | .flushl w => Sys2Proof.Machine.execFlushl w s
  | .lstat w => Sys2Proof.Machine.execLstat w s
  | .tagset w => Sys2Proof.Machine.execTagset w s
  | .tagget w => Sys2Proof.Machine.execTagget w s
  | .pref w => Sys2Proof.Machine.execPref w s
  | .grow w => Sys2Proof.Machine.execGrow w s
  | .shrink w => Sys2Proof.Machine.execShrink w s
  | .lend w => Sys2Proof.Machine.execLend w s
  | .reclaim w => Sys2Proof.Machine.execReclaim w s
  | .aadd w => Sys2Proof.Machine.execAadd w s
  | .aadd64 w => Sys2Proof.Machine.execAadd64 w s
  | .afadd w => Sys2Proof.Machine.execAfadd w s
  | .aminS w => Sys2Proof.Machine.execAminS w s
  | .amaxS w => Sys2Proof.Machine.execAmaxS w s
  | .aminN w => Sys2Proof.Machine.execAminN w s
  | .amaxN w => Sys2Proof.Machine.execAmaxN w s
  | .aand w => Sys2Proof.Machine.execAand w s
  | .aor w => Sys2Proof.Machine.execAor w s
  | .axor w => Sys2Proof.Machine.execAxor w s
  | .axchg w => Sys2Proof.Machine.execAxchg w s
  | .acas w => Sys2Proof.Machine.execAcas w s
  | .acas64 w => Sys2Proof.Machine.execAcas64 w s
  | .put w => Sys2Proof.Machine.execPut w s
  | .putv w => Sys2Proof.Machine.execPutv w s
  | .cwait w => Sys2Proof.Machine.execCwait w s
  | .copy w => Sys2Proof.Machine.execCopy w s
  | .copyTr8 w => Sys2Proof.Machine.execCopyTr8 w s
  | .copyTr16 w => Sys2Proof.Machine.execCopyTr16 w s
  | .copyMc w => Sys2Proof.Machine.execCopyMc w s
  | .drain w => Sys2Proof.Machine.execDrain w s
  | .copyl w => Sys2Proof.Machine.execCopyl w s
  | .seal w => Sys2Proof.Machine.execSeal w s
  | .waitb w => Sys2Proof.Machine.execWaitb w s
  | .wptr w => Sys2Proof.Machine.execWptr w s
  | .ringPush w => Sys2Proof.Machine.execRingPush w s
  | .ringPop w => Sys2Proof.Machine.execRingPop w s
  | .ringTry w => Sys2Proof.Machine.execRingTry w s
  | .ringAllow w => Sys2Proof.Machine.execRingAllow w s
  | .barArrive w => Sys2Proof.Machine.execBarArrive w s
  | .barWait w => Sys2Proof.Machine.execBarWait w s
  | .barExpect w => Sys2Proof.Machine.execBarExpect w s
  | .mma w => Sys2Proof.Machine.execMma w s
  | .mmaSc w => Sys2Proof.Machine.execMmaSc w s
  | .mhad w => Sys2Proof.Machine.execMhad w s
  | .mqnt w => Sys2Proof.Machine.execMqnt w s
  | .mwait w => Sys2Proof.Machine.execMwait w s
  | .mrel w => Sys2Proof.Machine.execMrel w s
  | .accrd w => Sys2Proof.Machine.execAccrd w s
  | .accwr w => Sys2Proof.Machine.execAccwr w s
  | .accz w => Sys2Proof.Machine.execAccz w s
  | .gang w => Sys2Proof.Machine.execGang w s
  | .mprog w => Sys2Proof.Machine.execMprog w s
  | .accst w => Sys2Proof.Machine.execAccst w s
  | .fenceOpnd w => Sys2Proof.Machine.execFenceOpnd w s
  | .mstat w => Sys2Proof.Machine.execMstat w s
  | .accld w => Sys2Proof.Machine.execAccld w s
  | .mcancel w => Sys2Proof.Machine.execMcancel w s
  | .acq w => Sys2Proof.Machine.execAcq w s
  | .rel w => Sys2Proof.Machine.execRel w s
  | .bind w => Sys2Proof.Machine.execBind w s
  | .unbind w => Sys2Proof.Machine.execUnbind w s
  | .fence w => Sys2Proof.Machine.execFence w s
  | .promise w => Sys2Proof.Machine.execPromise w s
  | .heir w => Sys2Proof.Machine.execHeir w s
  | .hold w => Sys2Proof.Machine.execHold w s
  | .relinq w => Sys2Proof.Machine.execRelinq w s
  | .estat w => Sys2Proof.Machine.execEstat w s
  | .waitw w => Sys2Proof.Machine.execWaitw w s
  | .wake w => Sys2Proof.Machine.execWake w s
  | .enq w => Sys2Proof.Machine.execEnq w s
  | .deq w => Sys2Proof.Machine.execDeq w s
  | .tdone w => Sys2Proof.Machine.execTdone w s
  | .depadd w => Sys2Proof.Machine.execDepadd w s
  | .mboxrd w => Sys2Proof.Machine.execMboxrd w s
  | .mboxwr w => Sys2Proof.Machine.execMboxwr w s
  | .rdg w => Sys2Proof.Machine.execRdg w s
  | .wrg w => Sys2Proof.Machine.execWrg w s
  | .gstop w => Sys2Proof.Machine.execGstop w s
  | .gresume w => Sys2Proof.Machine.execGresume w s
  | .gkill w => Sys2Proof.Machine.execGkill w s
  | .xlinv w => Sys2Proof.Machine.execXlinv w s
  | .fqpop w => Sys2Proof.Machine.execFqpop w s
  | .fqreplay w => Sys2Proof.Machine.execFqreplay w s
  | .cycles w => Sys2Proof.Machine.execCycles w s
  | .brk w => Sys2Proof.Machine.execBrk w s
  | .perfrd w => Sys2Proof.Machine.execPerfrd w s
  | .sigrd w => Sys2Proof.Machine.execSigrd w s
  | .harvest w => Sys2Proof.Machine.execHarvest w s
  | .ctxsw w => Sys2Proof.Machine.execCtxsw w s
  | .movCompact w => Sys2Proof.Machine.execMovCompact w s
  | .iaddCompact w => Sys2Proof.Machine.execIaddCompact w s
  | .isubCompact w => Sys2Proof.Machine.execIsubCompact w s
  | .imulCompact w => Sys2Proof.Machine.execImulCompact w s
  | .andCompact w => Sys2Proof.Machine.execAndCompact w s
  | .orCompact w => Sys2Proof.Machine.execOrCompact w s
  | .xorCompact w => Sys2Proof.Machine.execXorCompact w s
  | .shlCompact w => Sys2Proof.Machine.execShlCompact w s
  | .shrlCompact w => Sys2Proof.Machine.execShrlCompact w s
  | .shraCompact w => Sys2Proof.Machine.execShraCompact w s
  | .iminSCompact w => Sys2Proof.Machine.execIminSCompact w s
  | .imaxSCompact w => Sys2Proof.Machine.execImaxSCompact w s
  | .faddCompact w => Sys2Proof.Machine.execFaddCompact w s
  | .fsubCompact w => Sys2Proof.Machine.execFsubCompact w s
  | .fmulCompact w => Sys2Proof.Machine.execFmulCompact w s
  | .fmaxCompact w => Sys2Proof.Machine.execFmaxCompact w s
  | .dictionaryForm w => Sys2Proof.Machine.execDictionaryForm w s
  | .resultWrite n => Sys2Proof.Machine.execResultWrite n s
  | .runArbitration core lane => Sys2Proof.Machine.execRunArbitration core lane s
  | .fetchComplete n => Sys2Proof.Machine.execFetchComplete n s
  | .speculativeFetch core ctx va tag => Sys2Proof.Machine.execSpeculativeFetch core ctx va tag s
  | .staleNotice n => Sys2Proof.Machine.execStaleNotice n s
  | .writeBack n => Sys2Proof.Machine.execWriteBack n s
  | .writeBackAck n => Sys2Proof.Machine.execWriteBackAck n s
  | .atomicRequest n => Sys2Proof.Machine.execAtomicRequest n s
  | .putData n => Sys2Proof.Machine.execPutData n s
  | .counterAdd n => Sys2Proof.Machine.execCounterAdd n s
  | .objectStep n => Sys2Proof.Machine.execObjectStep n s
  | .ringOpAtHub n => Sys2Proof.Machine.execRingOpAtHub n s
  | .barrierOpAtHub n => Sys2Proof.Machine.execBarrierOpAtHub n s
  | .taskOpAtHub n => Sys2Proof.Machine.execTaskOpAtHub n s
  | .waiterArrival n => Sys2Proof.Machine.execWaiterArrival n s
  | .entryStart core chan => Sys2Proof.Machine.execEntryStart core chan s
  | .copyDelivery core chan => Sys2Proof.Machine.execCopyDelivery core chan s
  | .copyDone core chan => Sys2Proof.Machine.execCopyDone core chan s
  | .kBlock core => Sys2Proof.Machine.execKBlock core s
  | .operationDone core => Sys2Proof.Machine.execOperationDone core s
  | .placement => Sys2Proof.Machine.execPlacement s
  | .parkComplete core slot => Sys2Proof.Machine.execParkComplete core slot s
  | .unparkComplete core slot => Sys2Proof.Machine.execUnparkComplete core slot s
  | .contextSaveComplete core => Sys2Proof.Machine.execContextSaveComplete core s
  | .implicitRelease core slot => Sys2Proof.Machine.execImplicitRelease core slot s
  | .conveyance core slot => Sys2Proof.Machine.execConveyance core slot s
  | .launchComplete launch => Sys2Proof.Machine.execLaunchComplete launch s
  | .intervalStart core interval => Sys2Proof.Machine.execIntervalStart core interval s
  | .cwaitPoll core slot => Sys2Proof.Machine.execCwaitPoll core slot s
  | .duplexTimeout core slot => Sys2Proof.Machine.execDuplexTimeout core slot s
  | .retransmit n => Sys2Proof.Machine.execRetransmit n s
  | .telemetryRefresh dieTemp diePower stackTemp => Sys2Proof.Machine.execTelemetryRefresh dieTemp diePower stackTemp s
  | .create ctx => Sys2Proof.Machine.execCreate ctx s
  | .suspend ctx => Sys2Proof.Machine.execSuspend ctx s
  | .resume ctx => Sys2Proof.Machine.execResume ctx s
  | .teardown ctx => Sys2Proof.Machine.execTeardown ctx s
  | .remap ctx logical phys => Sys2Proof.Machine.execRemap ctx logical phys s
  | .setp die level => Sys2Proof.Machine.execSetp die level s
  | .gate cluster off => Sys2Proof.Machine.execGate cluster off s
  | .light plane => Sys2Proof.Machine.execLight plane s
  | .dark plane => Sys2Proof.Machine.execDark plane s
  | .planeDark plane => Sys2Proof.Machine.execPlaneDark plane s
  | .refresh stack mode => Sys2Proof.Machine.execRefresh stack mode s
  | .tripset temp => Sys2Proof.Machine.execTripset temp s
  | .tripResume => Sys2Proof.Machine.execTripResume s
  | .thermalTrip sensor temp => Sys2Proof.Machine.execThermalTrip sensor temp s
  | .detach => Sys2Proof.Machine.execDetach s
  | .commit => Sys2Proof.Machine.execCommit s
  | .linkFailure => Sys2Proof.Machine.execLinkFailure s
  | .linkUp => Sys2Proof.Machine.execLinkUp s
  | .inspectionReset => Sys2Proof.Machine.execInspectionReset s
  | .coreReset core => Sys2Proof.Machine.execCoreReset core s
  | .powerOn signatureOk => Sys2Proof.Machine.execPowerOn signatureOk s
  | .firmwareUpdate version => Sys2Proof.Machine.execFirmwareUpdate version s
  | .attestation nonce => Sys2Proof.Machine.execAttestation nonce s
  | .inFieldTest cluster kind => Sys2Proof.Machine.execInFieldTest cluster kind s
  | .testAbort cluster => Sys2Proof.Machine.execTestAbort cluster s
  | .testReport cluster pass => Sys2Proof.Machine.execTestReport cluster pass s
  | .migrate old new => Sys2Proof.Machine.execMigrate old new s
  | .migrateDone => Sys2Proof.Machine.execMigrateDone s
  | .migrateBusy => Sys2Proof.Machine.execMigrateBusy s
  | .hostXlinv ctx start pages => Sys2Proof.Machine.execHostXlinv ctx start pages s
  | .hostWake va ctx => Sys2Proof.Machine.execHostWake va ctx s
  | .hostRegistration va ctx line expected => Sys2Proof.Machine.execHostRegistration va ctx line expected s
  | .bindingEnable index qcb ctx en keep => Sys2Proof.Machine.execBindingEnable index qcb ctx en keep s
  | .inject value => Sys2Proof.Machine.execInject value s
  | .hostRead window addr size => Sys2Proof.Machine.execHostRead window addr size s
  | .hostWrite window addr data => Sys2Proof.Machine.execHostWrite window addr data s
  | .geloloPortFailure port => Sys2Proof.Machine.execGeloloPortFailure port s
  | .peerRequest src addr tag data size => Sys2Proof.Machine.execPeerRequest src addr tag data size s
  | .peerAtomic src rid op addr tag size operand expected => Sys2Proof.Machine.execPeerAtomic src rid op addr tag size operand expected s
  | .acknowledgement slice src rid => Sys2Proof.Machine.execAcknowledgement slice src rid s
  | .newEpoch dev => Sys2Proof.Machine.execNewEpoch dev s
  | .reductionResult n merge => Sys2Proof.Machine.execReductionResult n merge s
  | .mmioWrite off size value => Sys2Proof.Machine.execMmioWrite off size value s
  | .hostFunctionClear => Sys2Proof.Machine.execHostFunctionClear s
  | .faultQueueHeadWrite ctx head => Sys2Proof.Machine.execFaultQueueHeadWrite ctx head s
  | .geloloPortTrain port => Sys2Proof.Machine.execGeloloPortTrain port s
  | .reductionWindowStateWrite entry => Sys2Proof.Machine.execReductionWindowStateWrite entry s

end Sys2Proof.Machine
end

