-- ==== Sys2Proof/Machine/Turns.lean ====
section
/-! DEFINITION. Which event comes next when no turn says so (log 1): the oldest message that may arrive, else what a channel, an
engine, the end of a group, a park, a context switch, a launch or placement has to do. -/

namespace Sys2Proof.Machine

/-- The event row that performs message n. -/
noncomputable def MsgBody.event (n : Nat) : MsgBody → Instr
  | .result _ _ _ => .resultWrite n
  | .fetch _ _ _ _ _ => .fetchComplete n
  | .openWait _ => .fetchComplete n
  | .stale _ => .staleNotice n
  | .writeBack _ _ _ _ _ _ _ => .writeBack n
  | .wbAck _ _ => .writeBackAck n
  | .groupEnd _ _ _ => .barrierOpAtHub n
  | .atomic _ _ _ _ _ _ _ _ _ => .atomicRequest n
  | .put _ _ _ _ _ _ _ => .putData n
  | .counter _ _ _ _ => .counterAdd n
  | .tagset _ _ => .writeBack n
  | .tagget _ _ _ => .atomicRequest n
  | .fabric _ _ _ => .atomicRequest n
  | .object _ _ _ _ _ => .objectStep n
  | .ring _ _ _ _ _ _ => .ringOpAtHub n
  | .barrier _ _ _ _ _ => .barrierOpAtHub n
  | .task _ _ _ => .taskOpAtHub n
  | .waiter _ _ _ _ _ _ => .waiterArrival n
  | .wake _ _ => .waiterArrival n
  | .poison _ => .resultWrite n

/-- The oldest message that may arrive and does not wait there. -/
noncomputable def State.nextMsg (s : State) : Option Instr :=
  (s.mach.msgs.zipIdx.find? (fun x => s.mach.ready x.1 && s.dev.reaches x.1 &&
    !(s.mach.viral && x.1.body.leaves) && ((s.mach.reachDue x.1).perform s.dev.number x.2 x.1).isSome)).map (fun x =>
      x.1.body.event x.2)

/-- An event comes next only where it changes something: one that must wait comes later. -/
noncomputable def State.moving (s : State) (f : Mach → Mach) (i : Instr) : Option Instr := if f s.mach = s.mach then none else some i

/-- What a channel does next: an entry that a kill stops goes on to its boundary (R125, R370). -/
noncomputable def State.chanEvent (s : State) (core chan : Nat) (ch : Channel) : Option Instr :=
  let deliver := s.moving (fun m => m.copyDeliver s.dev core chan) (.copyDelivery core chan)
  let done := s.moving (fun m => m.copyFinish core chan) (.copyDone core chan)
  match ch.entries with
  | [] => none
  | e :: _ =>
    if e.stopping then (if s.mach.stopsHere core e then done else deliver)
    else match e.state with
      | .active => if e.done < e.len then deliver else done
      | _ => s.moving (fun m => m.entryStart core chan) (.entryStart core chan)

/-- What the engine does next. -/
noncomputable def State.engineEvent (s : State) (core : Nat) : Option Instr :=
  match (s.mach.core core).engine with
  | [] => none
  | o :: _ =>
    if 32 * o.kBlocks ≤ o.prog then some (.operationDone core)
    else s.moving (fun m => m.kBlock s.dev core) (.kBlock core)

/-- What a resident group's end or its move between banks brings next. -/
noncomputable def groupEvent (m : Mach) (core slot : Nat) (g : Group) : Option Instr :=
  if g.parking then some (.parkComplete core slot)
  else if g.unparking then some (.unparkComplete core slot)
  else match g.ending with
    | none => none
    | some e =>
      if m.viral then none
      else if m.conveyable core g then some (.conveyance core slot)
      else if e.released || (m.core core).copiesOf g.uid || g.gated || m.opening core g.uid || m.exiting core g.uid ||
        m.outstanding core g.uid m.nextUid || m.hostPending g.id.ctx (m.exitScope g) then none
      else some (.implicitRelease core slot)

/-- The clock of a core has reached its next interval (R351). -/
def State.intervalDue (s : State) (core : Nat) : Bool :=
  s.clock core && 64 * ((s.mach.core core).interval + 1) ≤ (s.mach.core core).cycle


/-- What a core does next beside its lanes: the ends of its groups are also those of groups that were pre-empted there (R370). -/
noncomputable def State.coreEvent (s : State) (core : Nat) (c : Core) : Option Instr :=
  if !s.clock core then none
  else if s.intervalDue core then some (.intervalStart core (c.interval + 1))
  else
    let work : Option Instr :=
      if !s.works core then none
      else match c.chans.findSome? (fun e => s.chanEvent core e.1 e.2) with
        | some i => some i
        | none => s.engineEvent core
    match work with
    | some i => some i
    | none => match c.groups.findSome? (fun e => groupEvent s.mach core e.1 e.2) with
      | some i => some i
      | none => c.saved.findSome? (fun e => groupEvent s.mach core e.2.home e.2)

/-- A launch that may complete. -/
noncomputable def State.launchEvent (s : State) : Option Instr :=
  (s.mach.launches.find? (fun e => s.mach.launchOver e.1 e.2)).map (fun e => .launchComplete e.1)

/-- The event that comes next. -/
noncomputable def State.nextEvent (s : State) : Option Instr :=
  match s.nextMsg with
  | some i => some i
  | none => match s.mach.cores.findSome? (fun e => s.coreEvent e.1 e.2) with
    | some i => some i
    | none =>
      if !s.dev.running || s.mach.viral then none
      else match s.launchEvent with
        | some i => some i
        | none => if s.mach.chance then some .placement else none

end Sys2Proof.Machine
end

