-- ==== Sys2Proof/Machine/Upsets.lean ====
section
/-! DEFINITION. Bit errors (R83, R85, R366, R369): what one makes of the store it strikes. No instruction and no event of the opcode
table makes one; a turn of the state does (log 79). -/

namespace Sys2Proof.Machine

/-- Error symbols add to those that a sector's code word has (R82). -/
def addErr (err new : List (Nat × Byte)) : List (Nat × Byte) :=
  new.foldl (fun l e => match l.find? (fun x => x.1 == e.1) with
    | some x => (l.erase x) ++ (if x.2 ^^^ e.2 = 0 then [] else [(e.1, x.2 ^^^ e.2)])
    | none => if e.2 = 0 then l else l ++ [e]) err

/-- A corrected error is logged: a kind-4 entry of the context whose word it is, if it is one's, and event 18 (R85, R122, R159). -/
def Mach.logSingle (m : Mach) (ctx : Option Nat) (core : Nat) (slot : Option Nat) (aux : Nat) : Mach :=
  (match ctx with
    | some n => m.postFq n 4 0 0 aux core slot []
    | none => m).modCore core (fun c => c.countFor slot 18 1)

/-- A word joins a list of bad ones. -/
def addBad (l : List Nat) (n : Nat) : List Nat := if l.contains n then l else n :: l

/-- The context of a scratchpad page, if it has one. -/
def Cluster.pageCtx (k : Cluster) (word : Nat) : Option Nat :=
  let p := k.pages.getD (4 * word / Config.pageBytes) {}
  if p.state = .free then none else some p.ctx

/-- An error that the check of a core's own tables cannot correct (R366): every group stops at its instruction, the channels and the
engine are held, the unreadable estate entries are noted, and the core posts its event. -/
def Mach.tableUpset (m : Mach) (core code : Nat) (entries : List Nat) : Mach :=
  let m := m.modCore core (fun c => { c with
    tableError := true, estateBad := if code = 0 then entries.foldl addBad c.estateBad else c.estateBad })
  m.postEvent 2 core (m.core core).cycle code

/-- A bit error strikes (R83, R85, R366): a sector of memory has it in its code word; in an on-chip store a single one is corrected
and logged, and a double one makes the word uncorrectable. A slice's error is logged for the context whose access the line is cached
from, and in no core's counters (log 79). -/
def Mach.upset (m : Mach) (u : Upset) : Mach :=
  match u.site with
  | .sector a symbols => { m with ecc := m.ecc.set (a / 32) (addErr (m.ecc.getD (a / 32) []) symbols) }
  | .slice a =>
    match m.cached a with
    | none => m
    | some e =>
      if u.double then { m with ecc := m.ecc.set (a / 32) [(0, 1), (1, 1)] } else m.postFq e.ctx 4 0 0 (a / 32 * 32) 0 none []
  | .scratch cl word =>
    if u.double then m.modCluster cl (fun k => { k with spadBad := addBad k.spadBad word })
    else m.logSingle ((m.cluster cl).pageCtx word) (8 * cl + bankMember (4 * word)) none 0
  | .wharf cl slot word =>
    match (m.cluster cl).wharf.get? slot with
    | none => m
    | some w =>
      if u.double then m.modCluster cl (fun k => { k with wharf := k.wharf.set slot { w with
          bad := (List.range 4).foldl (fun l b => addBad l (4 * word + b)) w.bad } })
      else m.logSingle (some w.ctx) (8 * cl) none 0
  | .frame core f sector =>
    let fr := (m.core core).frame f
    if fr.state = .free then m
    else if u.double then m.modCore core (fun c => c.modFrame f (fun fr => { fr with poison := fr.poison ||| (1#4 <<< sector) }))
    else m.logSingle (some fr.ctx) core none 0
  | .register core uid item thread =>
    match (m.core core).everyone.find? (fun g => g.uid == uid) with
    | none => m
    | some g =>
      if u.double then m.modUid core 0 uid (fun g => { g with bad := addBad g.bad (32 * item + thread) })
      else m.logSingle (if g.id.sup then none else some g.id.ctx) core
        (((m.core core).groups.find? (fun e => e.2.uid == uid)).map (·.1)) 0
  | .element core i e =>
    if !((m.core core).slot i).live then m
    else if u.double then m.modCore core (fun c => c.setSlot i { c.slot i with bad := addBad (c.slot i).bad e })
    else m.logSingle (m.slotCtx core i) core none 0
  | .dict core i word =>
    match (m.core core).dicts.get? i with
    | none => m
    | some d =>
      if u.double then m.modCore core (fun c => { c with dicts := c.dicts.set i { d with bad := addBad d.bad word } })
      else m.logSingle (some d.ctx) core none 0
  | .table core code entries => if u.double then m.tableUpset core code entries else m.logSingle none core none 0

end Sys2Proof.Machine
end

