-- ==== Sys2Proof/Machine/Step.lean ====
section
/-! DEFINITION. One step of the machine: the next turn, or, when no turn is listed, the turn of the default policy
(log 1). Decoding builds values of Instr and is not compiled, so the step is not either; Lean evaluates both. -/

namespace Sys2Proof.Machine

/-- Run the instruction at the program counter of the group that issues on the lane whose turn it is. -/
noncomputable def fetchAndRun (s : State) (slot : Nat) (g : Group) : Host.Outcome State Fault Refusal :=
  match s.mach.fetchAt s.curCore g g.pc with
  | (m, .bytes bs) =>
    match decode bs with
    | .ok (i, _) => exec i { s with mach := m }
    | .error _ => .next s
  | (m, .access va) => .next { s with mach := m.takeTrap s.curCore slot (.fault .access va) }
  | (m, .kill va) => .next { s with mach := m.takeTrap s.curCore slot (.kill va 3) }
  | (m, .xlat va level) => .next { s with mach := m.takeTrap s.curCore slot (.xlat va 3 level false) }
  | (m, .retry) => .next { s with mach := m.takeTrap s.curCore slot .retry }

/-- The core of the turn may issue: its cluster's clocks run (R49, R403, R404), and it has neither failed a test (R379) nor an
error in its own tables (R366). -/
def State.issues (s : State) : Bool :=
  let c := s.mach.core s.curCore
  s.dev.awake (clusterOf s.curCore) && !c.outOfService && !c.tableError

/-- An owner group that is eligible on the lane of the turn stops a harvest group that issues there (R40, R357). -/
def State.demand (s : State) : State := { s with mach := s.mach.ownerDemand s.curCore s.curLane }

/-- A lane whose run waits for a translation stands for a cycle (R25, R78); any other comes to a run boundary, of which there is none in
the viral state (R378). -/
def State.boundary (s : State) : State :=
  if s.mach.viral then s
  else if ((s.mach.core s.curCore).lane s.curLane).issuing.isSome then
    { s with mach := s.mach.modCore s.curCore (fun c => c.advance (c.cycle + 1)) }
  else { s with mach := s.mach.arbitrate s.curCore s.curLane }

/-- The lane of the turn, once owner groups have had their due: the instruction of the group that issues on it, or what the lane does
without one. -/
noncomputable def lanePlay (s : State) : Host.Outcome State Fault Refusal :=
  match s.issuer with
    | some (slot, g) => fetchAndRun s slot g
    | none => .next s.boundary

/-- The turn of a lane. -/
noncomputable def laneTurn (s : State) : Host.Outcome State Fault Refusal :=
  if !s.issues then .next s else lanePlay s.demand

/-- The lane's instruction is held until something else has happened (log 1). -/
def State.laneHeld (s : State) : Bool := ((s.mach.core s.curCore).lane s.curLane).held

/-- The lane no longer waits. -/
def State.unhold (s : State) : State :=
  { s with mach := s.mach.modCore s.curCore (fun c => c.modLane s.curLane (fun l => { l with held := false })) }

/-- The lane has an instruction to issue, or a group that may begin a run. -/
def State.laneReady (s : State) : Bool :=
  match s.issuer with
  | some _ => s.issues && !s.laneHeld
  | none => s.issues && !s.mach.viral && ((s.mach.core s.curCore).lane s.curLane).issuing.isNone &&
    (s.mach.winner s.curCore s.curLane).isSome

/-- The step when no turn is listed (log 1): the interval that the core's clock has reached (R351), else the lane while it can go on,
else the next event, else the lane waits a cycle. -/
noncomputable def defaultTurn (s : State) : Host.Outcome State Fault Refusal :=
  if s.intervalDue s.curCore then exec (.intervalStart s.curCore ((s.mach.core s.curCore).interval + 1)) s
  else if s.laneReady then laneTurn s
  else match s.nextEvent with
    | some i => exec i s.unhold
    | none => laneTurn s.unhold

/-- The router of a site holds this many flits on a plane: its congestion count, which saturates at 255, and is 0 on a dark plane and
while the router's cluster is gated (R158). Which router holds how many is timing (log 27). -/
def State.traffic (s : State) (x y plane flits : Nat) : State :=
  let site : Site := { x, y }
  if 32 ≤ x || 32 ≤ y || !(s.dev.planes.getD plane .dark == .lit || s.dev.planes.getD plane .dark == .darkening) ||
    s.dev.gated.contains site.cluster then s
  else { s with mach := s.mach.setCount site plane (BitVec.ofNat 8 (min 255 flits)) }

/-- One step. -/
noncomputable def step (s : State) : Host.Outcome State Fault Refusal :=
  match s.turns with
  | [] => defaultTurn s
  | .issue core lane :: ts => laneTurn { s with turns := ts, curCore := core, curLane := lane }
  | .event i :: ts => exec i { s with turns := ts }
  | .upset u :: ts => .next { s with turns := ts, mach := s.mach.upset u }
  | .traffic x y plane flits :: ts => .next (State.traffic { s with turns := ts } x y plane flits)

/-- The state with an instruction at the program counter of the group that issues next: its bytes, in the order memory
holds them, at that address of device memory (log 36). -/
def State.withFetchWord (s : State) (nbits w : Nat) : State :=
  match s.issuer with
  | some (_, g) =>
    { s with mach := { s.mach with dram := s.mach.dram.writeBytes g.pc.toNat (tableBytes nbits w) } }
  | none => s

end Sys2Proof.Machine
end

