-- ==== Sys2Proof/Safety.lean ====
section
/-! DEFINITION. The terms the claims use: when a group issues a word, what a step leaves alone, and what every state of a run
keeps: byte memories in canonical form (log 3), and a device part whose power, attach and reset state is legal. -/

namespace Sys2Proof.Machine

/-! ### Issuing -/

/-- The group in this slot issues the word with these fields: it raises no fault of R192, waits for nothing (R29), and reads no word in
which the check finds two errors (R369). -/
abbrev Issues (s : State) (slot : Nat) (g : Group) (f : Fields) : Prop :=
  s.issuer = some (slot, g) ∧ wordFault g f = none ∧ stalls g f = false ∧ formatFault g f = false ∧ readsBad g f = false

/-- The word's instruction acts: some thread is active, or it is an instruction for the group (R17, R195). -/
abbrev Acts (g : Group) (f : Fields) : Prop := g.amask ≠ 0 ∨ groupLevel f.op = true

/-- The group as it issues: what decides its run is forgotten (its state, its run count, what it waits for and what stops
it at the next run boundary), and which of its words have errors. -/
def Group.rest (g : Group) : Group :=
  { g with state := .ready, runCount := 0, wait := none, testRuns := 0, cause := .none, fcode := none, freeze := none, stopMark := false,
           bad := [] }

/-- The group once its word has issued (R182, R23). -/
def Group.retired (g : Group) (w : Who) : Group := { g with
  pc := w.addr + BitVec.ofNat 56 w.len
  runCount := if w.f.e then 0 else g.runCount + 1
  wait := none
  bad := g.cleared w.f
  testRuns := if mayWait w.f.op then 0 else g.testRuns
  state := if w.f.e then .ready else g.state }

/-! ### What a step leaves alone -/

/-- Every byte of device memory, host memory, peer memory and the reduction windows, every line tag and check code, and every
scratchpad is as before. -/
structure SameMemory (m m' : Mach) : Prop where
  dram : ∀ a, m'.dram.read a = m.dram.read a
  host : ∀ a, m'.hostMem.read a = m.hostMem.read a
  fabric : ∀ a, m'.fabric.read a = m.fabric.read a
  peers : ∀ d a, Memory.read (m'.peers.getD d []) a = Memory.read (m.peers.getD d []) a
  tags : m'.tags = m.tags
  ecc : m'.ecc = m.ecc
  spad : ∀ c a, (m'.cluster c).spadByte a = (m.cluster c).spadByte a
  frames : ∀ c f, (m'.core c).frame f = (m.core c).frame f

/-- Every byte at a home (device memory, host memory, peers, windows, scratchpads), every line tag and check code is as before; the
line stores may differ. -/
structure SameHome (m m' : Mach) : Prop where
  dram : ∀ a, m'.dram.read a = m.dram.read a
  host : ∀ a, m'.hostMem.read a = m.hostMem.read a
  fabric : ∀ a, m'.fabric.read a = m.fabric.read a
  peers : ∀ d a, Memory.read (m'.peers.getD d []) a = Memory.read (m.peers.getD d []) a
  tags : m'.tags = m.tags
  ecc : m'.ecc = m.ecc
  spad : ∀ c a, (m'.cluster c).spadByte a = (m.cluster c).spadByte a

/-- Outside one core nothing changes but the device event log. -/
structure OneCore (m m' : Mach) (core : Nat) : Prop where
  mach : m' = { m with cores := m'.cores, log := m'.log }
  cores : ∀ c, c ≠ core → m'.core c = m.core c

/-- Of a core only its time with the sums it takes, its lanes, its performance counters, its mailbox and the group in one slot
change. -/
structure OneGroup (c c' : Core) (slot : Nat) : Prop where
  core : c' = { c with cycle := c'.cycle, lanes := c'.lanes, perf := c'.perf, groups := c'.groups, mbox := c'.mbox,
                       stopList := c'.stopList, mseq := c'.mseq, meshSum := c'.meshSum }
  groups : ∀ k, k ≠ slot → c'.groups.get? k = c.groups.get? k

/-- The host's part of the state is as before. -/
structure SameHost (s t : State) : Prop where
  dev : t.dev = s.dev
  turns : t.turns = s.turns
  core : t.curCore = s.curCore
  lane : t.curLane = s.curLane

/-- A word that acts on its own group alone has issued: all else is as before, and at a run boundary a stop that was asked
for has taken place (R230, R310); with none asked for, the run counts on or has ended (R23). The register words it names as
destinations have good codes again (R85). -/
structure Stepped (s t : State) (slot : Nat) (f : Fields) (g g' : Group) : Prop where
  host : SameHost s t
  outside : OneCore s.mach t.mach s.curCore
  inside : OneGroup (s.mach.core s.curCore) (t.mach.core s.curCore) slot
  memory : SameMemory s.mach t.mach
  group : t.mach.group? s.curCore slot = some g'
  wait : g'.wait = none
  bad : g'.bad = g.cleared f
  run : f.e = false ∨ (g.freeze = none ∧ g.stopMark = false) →
    g'.state = (if f.e then .ready else g.state) ∧ g'.runCount = (if f.e then 0 else g.runCount + 1) ∧
    g'.cause = g.cause ∧ g'.fcode = g.fcode ∧ t.mach.log = s.mach.log ∧
    (t.mach.core s.curCore).mbox = (s.mach.core s.curCore).mbox

/-! ### Results -/

/-- After: the register that field d names holds val in the listed threads, under this tag; every other register, tag and
predicate is as before. A k register is written once a thread, each pass seeing the one before (R54); z takes nothing (R55). -/
def Holds (g g' : Group) (d : RegField) (ts : List Nat) (tag : FTag) (val : Group → Nat → Word) : Prop :=
  (∀ r t, t < 32 → g'.readV r t = if isV d ∧ r = d.toNat ∧ t ∈ ts then val g t else g.readV r t) ∧
  (∀ r, g'.tagV r = if isV d ∧ r = d.toNat ∧ ts ≠ [] then tag else g.tagV r) ∧
  (∀ j, g'.readK j = if isK d then (ts.foldl (fun h t => h.setK (d.toNat - 48) (val h t)) g).readK j else g.readK j) ∧
  g'.preds = g.preds

/-- After: the pair of registers that field d names holds val in the listed threads (R53). -/
def Holds64 (g g' : Group) (d : RegField) (ts : List Nat) (tag : FTag) (val : Group → Nat → Dword) : Prop :=
  (∀ r t, t < 32 → g'.readV r t = if isV d ∧ r = d.toNat ∧ t ∈ ts then (val g t).extractLsb' 0 32
      else if isV d ∧ r = d.toNat + 1 ∧ t ∈ ts then (val g t).extractLsb' 32 32 else g.readV r t) ∧
  (∀ r, g'.tagV r = if isV d ∧ (r = d.toNat ∨ r = d.toNat + 1) ∧ ts ≠ [] then tag else g.tagV r) ∧
  (∀ j, g'.readK j = if isK d then (ts.foldl (fun h t => (h.setK (d.toNat - 48) ((val h t).extractLsb' 0 32)).setK
      (d.toNat - 47) ((val h t).extractLsb' 32 32)) g).readK j else g.readK j) ∧
  g'.preds = g.preds

/-- After: the n registers from field d hold the words of val in the listed threads, RAW or under this tag; a k register keeps what the
last thread wrote (R10, R54), z takes nothing, and all else is as before. -/
def HoldsWide (g g' : Group) (d : RegField) (n : Nat) (ts : List Nat) (tag : FTag) (val : Nat → Nat → Word) : Prop :=
  (∀ r t, t < 32 → g'.readV r t = if isV d ∧ d.toNat ≤ r ∧ r < d.toNat + n ∧ t ∈ ts then val (r - d.toNat) t else g.readV r t) ∧
  (∀ r, g'.tagV r = if isV d ∧ d.toNat ≤ r ∧ r < d.toNat + n ∧ ts ≠ [] then tag else g.tagV r) ∧
  (∀ j, g'.readK j = if isK d ∧ d.toNat ≤ j + 48 ∧ j + 48 < d.toNat + n then
      (match ts.getLast? with | some t => val (j + 48 - d.toNat) t | none => g.readK j) else g.readK j) ∧
  g'.preds = g.preds

/-- After: predicate p holds val in the listed threads; every other predicate and every register is as before. -/
def HoldsPred (g g' : Group) (p : Nat) (ts : List Nat) (val : Nat → Bool) : Prop :=
  (∀ q t, t < 32 → g'.pred q t = if q = p ∧ t ∈ ts then val t else g.pred q t) ∧
  g'.v = g.v ∧ g'.vtag = g.vtag ∧ g'.k = g.k

/-- Of the group only its registers, tags and predicates, its program counter and its run have changed. -/
def OnlyRegs (g g' : Group) (len : Nat) : Prop :=
  g'.rest = ({ g with v := g'.v, vtag := g'.vtag, k := g'.k, preds := g'.preds, pc := g.pc + BitVec.ofNat 56 len } : Group).rest

/-- The word changes its own group alone: whenever its group issues it and P holds of the group, the step answers a next state in
which the group is upd of itself, and nothing else has changed but the run. -/
def GroupResult (i : Instr) (f : Fields) (P : Group → Prop) (upd : Group → Group) : Prop :=
  ∀ s slot g, Issues s slot g f → P g → ∃ t g', exec i s = .next t ∧ Stepped s t slot f g g' ∧ g'.rest = (upd g).rest

/-! ### Stops -/

/-- A record of this stop is in the first FREE mailbox entry with the next MSEQ; it is said for a core in which no stop waits for
an entry and one is FREE (R121). -/
def Records (c c' : Core) (r : MboxRec) : Prop :=
  c.stopList = [] → ∀ e, e < 16 → c.mbox.get? e = none → (∀ k, k < e → c.mbox.get? k ≠ none) →
    c'.mbox = c.mbox.set e { r with seq := c.mseq } ∧ c'.mseq = c.mseq + 1 ∧ c'.stopList = []

/-- A group has stopped with this cause and code: all else is as before but the mailbox, which holds the record. -/
structure StopsAs (s t : State) (slot : Nat) (g' : Group) (cause : Cause) (fcode : Option Code) (r : MboxRec) : Prop where
  host : SameHost s t
  outside : OneCore s.mach t.mach s.curCore
  inside : OneGroup (s.mach.core s.curCore) (t.mach.core s.curCore) slot
  memory : SameMemory s.mach t.mach
  group : t.mach.group? s.curCore slot = some g'
  state : g'.state = .stopped
  cause : g'.cause = cause
  code : g'.fcode = fcode
  run : g'.runCount = 0
  record : Records (s.mach.core s.curCore) (t.mach.core s.curCore) r

/-- A precise fault of a group other than the supervisor group, at an address (R31, R361): the faulting word has no effect, the
group is STOPPED with CAUSE 1 and this FCODE at the word, and the record is of KIND 1. -/
def Faults (i : Instr) (s : State) (slot : Nat) (g : Group) (c : Code) (addr : Va) : Prop :=
  ∃ t, exec i s = .next t ∧ StopsAs s t slot { g with state := .stopped, cause := .fault, fcode := some c, runCount := 0 }
    .fault (some c) { kw := [g.readK 0, g.readK 1, g.readK 2, g.readK 3], pc := g.pc, addr, amask := g.amask, code := c.num, seq := 0,
                      slot, ctx := g.id.ctx, vfirst := 0, vcount := 0, kind := 1, taken := false } ∧
    t.mach.log = s.mach.log

/-- The word with these fields gives one register result a thread: whenever its group issues it, the step answers a next state
in which D holds val under this tag in each acting thread, and nothing else has changed but the run. -/
def RegisterResult (i : Instr) (f : Fields) (len : Nat) (tag : Group → FTag) (val : Group → Nat → Word) : Prop :=
  ∀ s slot g, Issues s slot g f → ∃ t g', exec i s = .next t ∧ Stepped s t slot f g g' ∧ OnlyRegs g g' len ∧
    Holds g g' f.fd (g.actors f) (tag g) val

/-- The same for a pair of registers (R53). -/
def PairResult (i : Instr) (f : Fields) (len : Nat) (tag : Group → FTag) (val : Group → Nat → Dword) : Prop :=
  ∀ s slot g, Issues s slot g f → ∃ t g', exec i s = .next t ∧ Stepped s t slot f g g' ∧ OnlyRegs g g' len ∧
    Holds64 g g' f.fd (g.actors f) (tag g) val

/-- The same for a predicate (R214). -/
def PredicateResult (i : Instr) (f : Fields) (len : Nat) (val : Group → Nat → Bool) : Prop :=
  ∀ s slot g, Issues s slot g f → ∃ t g', exec i s = .next t ∧ Stepped s t slot f g g' ∧ OnlyRegs g g' len ∧
    HoldsPred g g' f.p.toNat (g.actors f) (val g)

/-- A word has issued and sent requests of its group: memory, every other core and every other group are as before, and the
messages in flight are those before and the new ones. -/
structure Sends (s t : State) (slot : Nat) (g g' : Group) (new : List MsgBody) : Prop where
  host : SameHost s t
  memory : SameMemory s.mach t.mach
  cores : ∀ c, c ≠ s.curCore → t.mach.core c = s.mach.core c
  inside : OneGroup (s.mach.core s.curCore) (t.mach.core s.curCore) slot
  group : t.mach.group? s.curCore slot = some g'
  msgs : ∃ l, t.mach.msgs = s.mach.msgs ++ l ∧ l.map (·.body) = new ∧
    ∀ x ∈ l, x.core = s.curCore ∧ x.slot = slot ∧ x.uid = g.uid

/-- A word has issued and its group has sent new messages: every byte, every other core and every other group of this core is as
before; of this core more than the group may have changed. -/
structure Replies (s t : State) (slot : Nat) (g g' : Group) (new : List MsgBody) : Prop where
  host : SameHost s t
  memory : SameMemory s.mach t.mach
  cores : ∀ c, c ≠ s.curCore → t.mach.core c = s.mach.core c
  groups : ∀ k, k ≠ slot → t.mach.group? s.curCore k = s.mach.group? s.curCore k
  group : t.mach.group? s.curCore slot = some g'
  msgs : ∃ l, t.mach.msgs = s.mach.msgs ++ l ∧ l.map (·.body) = new ∧
    ∀ x ∈ l, x.core = s.curCore ∧ x.slot = slot ∧ x.uid = g.uid

/-- The word's issuer, as the shared checks name it. -/
abbrev State.who (s : State) (slot : Nat) (g : Group) (f : Fields) : Who := ⟨s.curCore, slot, f, g.pc, 4⟩

/-- A status that a scoreboarded word brings back in field d (R73, R266). -/
abbrev answer (d : RegField) (st : Status) : MsgBody := .result (statusWrites d st) (regItems d 1) false

/-- The results of a scoreboarded word, one for each of its threads; the pending bits clear with the last (R197). -/
def laterResults (items : BitVec 96) : List (List RegWrite) → List MsgBody
  | [] => []
  | [ws] => [.result ws items false]
  | ws :: r => .result ws 0 false :: laterResults items r

/-- The word with these fields gives a scoreboarded register result (R26, R197): D's pending bits are set and the registers
stay; each acting thread is sent one result, which arrives 16 cycles after that thread's pass, and together they put val into D
in the acting threads. With no acting thread nothing is sent. -/
def LaterResult (i : Instr) (f : Fields) (len : Nat) (tag : FTag) (val : Group → Nat → Word) : Prop :=
  ∀ s slot g, Issues s slot g f → ∃ t g', exec i s = .next t ∧
    (g.actors f = [] → Sends s t slot g g' [] ∧ g'.rest = ({ g with pc := g.pc + BitVec.ofNat 56 len } : Group).rest) ∧
    (g.actors f ≠ [] → g'.rest = ({ g with pc := g.pc + BitVec.ofNat 56 len, sb := g.sb ||| regItems f.fd 1 } : Group).rest ∧
      ∃ wss, wss.length = (g.actors f).length ∧ Sends s t slot g g' (laterResults (regItems f.fd 1) wss) ∧
        Holds g (applyWrites g wss.flatten) f.fd (g.actors f) tag val ∧
        ∀ i u, (g.actors f)[i]? = some u → ∃ x, t.mach.msgs[s.mach.msgs.length + i]? = some x ∧
          x.due = max (s.mach.core s.curCore).cycle ((s.mach.core s.curCore).lane (laneOf slot)).busyUntil +
            (g.active.filter (· < u)).length + 16)

/-- A status that arrives in D and LSTS (R73, R229): D's bit is pending, and the one message the word sends carries it. -/
def AnswersLater (s t : State) (slot : Nat) (g g' : Group) (d : RegField) (st : Status) : Prop :=
  Sends s t slot g g' [.result (statusWrites d st) (regItems d 1) false] ∧
  g'.rest = ({ g with pc := g.pc + 4, sb := g.sb ||| regItems d 1 } : Group).rest

/-! ### Lines (R62, R65) -/

/-- The way and the position of thread t's access of n bytes: OFF + O + S * n (R65). -/
def wayAt (g : Group) (w : WordM) (t : Nat) : Nat := ((g.line w.l.toNat).way.getD t 0).toNat
def posAt (g : Group) (w : WordM) (n t : Nat) : Nat :=
  ((g.line w.l.toNat).off.getD t 0).toNat + (g.reg w.o t).toNat + w.s.toNat * n

/-- The checks of R65 and R238 hold for every participant. -/
def Reaches (g : Group) (w : WordM) (n : Nat) (write : Bool) : Prop :=
  (g.line w.l.toNat).state = .open_ ∧ (write = true → (g.line w.l.toNat).w = true) ∧
  ∀ t ∈ g.participants w.g, (g.line w.l.toNat).bound.getLsbD t = true ∧ posAt g w n t % n = 0 ∧ posAt g w n t + n ≤ 128

/-- The first failing check of thread t (R65, R238): the fault and its ADDR. -/
def lineFault (g : Group) (w : WordM) (n : Nat) (write : Bool) (t : Nat) : Option (Code × Va) :=
  let r := g.line w.l.toNat
  let at' := r.lines.getD (wayAt g w t) 0 + BitVec.ofNat 56 (posAt g w n t)
  match r.state with
  | .closed => some (.lineclosed, 0)
  | .pending => some (.lineclosed, 0)
  | .error => some (.access, at')
  | .lost => some (.leaselost, 0)
  | .open_ =>
    if write && !r.w then some (.protect, at')
    else if !r.bound.getLsbD t then some (.lineclosed, 0)
    else if posAt g w n t % n ≠ 0 then some (.align, at')
    else if 128 < posAt g w n t + n then some (.linebound, at')
    else none

/-- The bytes that thread t reads, the lowest first. -/
def lineBytes (s : State) (g : Group) (w : WordM) (n t : Nat) : List Byte :=
  s.mach.wayBytes s.curCore (g.line w.l.toNat) (wayAt g w t) (posAt g w n t) n

/-- No atomic, put or counter add of the group that is still in flight meets the bytes that the participants' accesses name
(R318). -/
def Undisturbed (s : State) (g : Group) (w : WordM) (n : Nat) : Prop :=
  ∀ t ∈ g.participants w.g,
    s.mach.spadBusy s.curCore g.uid ((g.line w.l.toNat).locs.getD (wayAt g w t) (.dram 0)) (rangeMask (posAt g w n t) n) = false

/-- A load (R237): D's bits are pending, and the one message the word sends writes k registers from D, RAW, in each participant. -/
def Loads (i : Instr) (w : WordM) (op n k : Nat) (val : List Byte → Nat → Word) : Prop :=
  ∀ s slot g, Issues s slot g (fieldsM op w) → Reaches g w n false → Undisturbed s g w n → g.participants w.g ≠ [] →
    (∀ t ∈ g.participants w.g, ∀ j, j < n →
      s.mach.wayBad s.curCore (g.line w.l.toNat) (wayAt g w t) (posAt g w n t + j) = false) →
    ∃ t g' ws, exec i s = .next t ∧ Sends s t slot g g' [.result ws (regItems w.d k) false] ∧
      g'.rest = ({ g with pc := g.pc + 4, sb := g.sb ||| regItems w.d k } : Group).rest ∧
      HoldsWide g (applyWrites g ws) w.d k (g.participants w.g) 0 (fun j t => val (lineBytes s g w n t) j)

/-- The thread whose store last covers byte x of what its way names, in ascending order (R238). -/
def storer (g : Group) (w : WordM) (n x : Nat) (names : Nat → Bool) : Option Nat :=
  (g.participants w.g).reverse.find? (fun t => names (wayAt g w t) && decide (posAt g w n t ≤ x ∧ x < posAt g w n t + n))

/-- A store (R238, R234): into the frames of a global line, byte by byte, with DIRTY set, or into the scratchpad in place; every other
byte stays. A duplex group also extends its signature by one store a participant (R160). -/
def Stores (i : Instr) (w : WordM) (op n : Nat) (val : Group → Nat → Nat → Byte) : Prop :=
  ∀ s slot g, Issues s slot g (fieldsM op w) → Reaches g w n true → Undisturbed s g w n → g.participants w.g ≠ [] →
    g.gated = false → g.state ≠ .ending →
    (g.id.duplex = true → g.dup.nst + (g.participants w.g).length < 64) →
    let r := g.line w.l.toNat
    ((∀ t ∈ g.participants w.g, ∃ f, r.frames[wayAt g w t]? = some (some f) ∧ ((s.mach.core s.curCore).frame f).state ≠ .free) →
      ∃ t g', exec i s = .next t ∧ SameHost s t ∧ SameHome s.mach t.mach ∧ (∀ c, c ≠ s.curCore → t.mach.core c = s.mach.core c) ∧
        t.mach.group? s.curCore slot = some g' ∧ g'.rest = ({ g with pc := g.pc + 4, dup := g'.dup } : Group).rest ∧
        g'.dup.nst = (if g.id.duplex then g.dup.nst + (g.participants w.g).length else g.dup.nst) ∧
        ∀ f x, x < 128 →
          ((t.mach.core s.curCore).frame f).data.getD x 0 = (match storer g w n x (fun way => r.frames[way]? == some (some f)) with
            | some j => val g j (x - posAt g w n j)
            | none => ((s.mach.core s.curCore).frame f).data.getD x 0) ∧
          ((t.mach.core s.curCore).frame f).dirty.getLsbD x = (((s.mach.core s.curCore).frame f).dirty.getLsbD x ||
            (storer g w n x (fun way => r.frames[way]? == some (some f))).isSome)) ∧
    ((∀ t ∈ g.participants w.g, (r.frames[wayAt g w t]? = some none ∧
        ∃ c a, r.locs.getD (wayAt g w t) (.dram 0) = .spad c a ∧ a % 128 = 0)) →
      ∃ t g', exec i s = .next t ∧ SameHost s t ∧ (∀ a, t.mach.dram.read a = s.mach.dram.read a) ∧
        (∀ c f, (t.mach.core c).frame f = (s.mach.core c).frame f) ∧
        t.mach.group? s.curCore slot = some g' ∧ g'.rest = ({ g with pc := g.pc + 4, dup := g'.dup } : Group).rest ∧
        g'.dup.nst = (if g.id.duplex then g.dup.nst + (g.participants w.g).length else g.dup.nst) ∧
        ∀ c a, (t.mach.cluster c).spadByte a =
          (match storer g w n (a % 128) (fun way => r.locs.getD way (.dram 0) == .spad c (a / 128 * 128)) with
            | some j => val g j (a % 128 - posAt g w n j)
            | none => (s.mach.cluster c).spadByte a))

/-- len low ones, len the number in bits 13:8 of a second source, at most 32 (R213). -/
def lowOnes (b : Word) : Word := BitVec.ofNat 32 (2 ^ min ((b.toNat / 256) % 64) 32 - 1)

/-- Byte i of PRMB's result (R213). -/
def pickByte (a d b : Word) (i : Nat) : Byte :=
  let s := (b.extractLsb' (4 * i) 4).toNat
  if 8 ≤ s then 0 else if s < 4 then a.extractLsb' (8 * s) 8 else d.extractLsb' (8 * (s - 4)) 8

/-- The signed 32-bit word nearest to an integer (R194's sat_s). -/
def sat32 (x : Int) : Word := BitVec.ofInt 32 (max (-2 ^ 31) (min (2 ^ 31 - 1) x))

/-- EQ, NE, LT, LE, GT, GE of two integers, by the condition code (R187). -/
def ordered (cc : Nat) (a b : Int) : Bool :=
  match cc with
  | 0 => a = b
  | 1 => a ≠ b
  | 2 => a < b
  | 3 => a ≤ b
  | 4 => b < a
  | _ => b ≤ a

/-- FCMP's table (R214): a NaN makes every ordering false, NE true, ORD false and UNO true. -/
def floatOrdered (cc : Nat) (x y : FVal) : Bool :=
  let un := x == .nan || y == .nan
  match cc with
  | 0 => !un && x.eqv y
  | 1 => un || !x.eqv y
  | 2 => !un && x.ltv y
  | 3 => !un && (x.ltv y || x.eqv y)
  | 4 => !un && y.ltv x
  | 5 => !un && (y.ltv x || x.eqv y)
  | 6 => !un
  | _ => un

/-- The word puts val into D of each participant, every source read as it stood before (R196), under this tag. -/
def FoldsTo (i : Instr) (f : Fields) (s : State) (slot : Nat) (g : Group) (w : WordA) (tag : FTag) (val : Nat → Word) : Prop :=
  ∃ t g', exec i s = .next t ∧ Stepped s t slot f g g' ∧ OnlyRegs g g' 4 ∧
    Holds g g' w.d (g.participants w.g) tag (fun _ => val)

/-- The same under the tag of A (R217). -/
def MovesTo (i : Instr) (f : Fields) (s : State) (slot : Nat) (g : Group) (w : WordA) (val : Nat → Word) : Prop :=
  FoldsTo i f s slot g w (g.tagOf w.a) val

/-- D plus the sum of n products of signed elements of this many bits (R223), exact. -/
def dotSum (n bits : Nat) (a b d : Word) : Int :=
  d.toInt + ((List.range n).map (fun i => (a.extractLsb' (bits * i) bits).toInt * (b.extractLsb' (bits * i) bits).toInt)).sum

/-- IDOT4.S and IDOT8.S (R223): D takes the clamped sum in each participant, and LSTS says whether a participant's sum was clamped.
A k register as D sees the passes before (R54). With no participant nothing is written. -/
def DotClamps (i : Instr) (f : Fields) (w : WordA) (n bits : Nat) : Prop :=
  ∀ s slot g, Issues s slot g f → ∃ t g', exec i s = .next t ∧ Stepped s t slot f g g' ∧
    let ps := g.participants w.g
    let sum := fun (h : Group) t => dotSum n bits (h.reg w.a t) (h.reg w.b t) (h.reg w.d t)
    let before := fun j => if isK w.d then (ps.take j).foldl (fun h t => h.setK (w.d.toNat - 48) (sat32 (sum h t))) g else g
    let clamped := (List.range ps.length).any (fun j => decide ((sat32 (sum (before j) (ps.getD j 0))).toInt ≠ sum (before j) (ps.getD j 0)))
    g'.rest = ({ g with v := g'.v, vtag := g'.vtag, k := g'.k, pc := g.pc + 4,
                        lsts := if ps = [] then g.lsts else if clamped then .saturated else .ok } : Group).rest ∧
    Holds g g' w.d ps 1 (fun h t => sat32 (sum h t))

/-- The machine once a word has left its lane, before its effect: the next program counter, the run and the lane (R23, R182). -/
def State.issued (s : State) (slot : Nat) (g : Group) (f : Fields) (len : Nat) : Mach :=
  s.mach.retire { core := s.curCore, slot, f, addr := g.pc, len } g

/-! ### Messages that arrive -/

/-- Message n is x, and nothing keeps it from the place where it is performed (R318, R377, R384, R403). -/
structure Arrives (s : State) (n : Nat) (x : Msg) : Prop where
  there : s.mach.msgs[n]? = some x
  ready : s.mach.ready x = true
  reached : s.dev.reaches x = true
  stays : (s.mach.viral && x.body.leaves) = false

/-- The message's group is resident in the slot that it was sent from. -/
def Seats (s : State) (x : Msg) (g : Group) : Prop := s.mach.group? x.core x.slot = some g ∧ g.uid = x.uid

/-- A group has been sent an answer. -/
def Answered (t : State) (x : Msg) (b : MsgBody) : Prop :=
  ∃ y ∈ t.mach.msgs, y.body = b ∧ y.core = x.core ∧ y.slot = x.slot ∧ y.uid = x.uid

/-- n bytes of device memory from a hold these; every other byte is as before. -/
def Stored (s t : State) (a n : Nat) (byte : Nat → Byte) : Prop :=
  ∀ b, t.mach.dram.read b = if a ≤ b ∧ b < a + n then byte (b - a) else s.mach.dram.read b

/-- A device event of this kind, source and data has been logged; it is said while the log's ring has room (R440). -/
def Logged (s t : State) (kind source data : Nat) : Prop :=
  s.mach.log.tail - s.mach.log.head ≠ 2046#64 → ∃ e, t.mach.log.records = s.mach.log.records ++ [e] ∧
    e.kind = kind ∧ e.source = source ∧ e.data = data ∧ e.seq = s.mach.log.tail.setWidth 32

/-! ### What a run keeps -/

/-- The host's part of the machine is legal: four dies at levels 0 to 4 (R402, R403), plane 0 lit (R385), refresh modes 0 to 2
and a trip temperature of 80 to 110 degrees (R402), clusters gated once each, no clock after a trip (R404), and the coded
registers at codes they have (R392, R395, R397, R401). -/
structure Device.Legal (d : Device) : Prop where
  levels : d.levels.length = 4 ∧ ∀ x ∈ d.levels, x ≤ 4
  planes : d.planes.length = 4 ∧ d.planes[0]? = some .lit
  refresh : d.refresh.length = 8 ∧ ∀ x ∈ d.refresh, x ≤ 2
  trip : 80 ≤ d.trip ∧ d.trip ≤ 110
  gated : d.gated.Nodup ∧ ∀ x ∈ d.gated, x < 32
  tripped : d.tripped = true → d.running = false
  codes : d.attach ≤ 2 ∧ d.migrateStatus ≤ 3 ∧ (∀ e ∈ d.regStatus, e.2 ≤ 2) ∧ d.number < 1024

/-- The rows that act on the host's part of the machine: the host's commands and register writes, and the events of the platform (power,
link and ports, sensors, the ends of in-field tests and of page migration). -/
def setsDevice : Instr → Bool
  | .setp _ _ | .gate _ _ | .light _ | .dark _ | .refresh _ _ | .tripset _ | .tripResume => true
  | .detach | .commit | .inspectionReset | .powerOn _ | .firmwareUpdate _ | .attestation _ => true
  | .inFieldTest _ _ | .testAbort _ | .testReport _ _ | .migrate _ _ | .migrateDone | .migrateBusy => true
  | .hostWake _ _ | .hostRegistration _ _ _ _ | .inject _ | .mmioWrite _ _ _ | .geloloPortTrain _ | .geloloPortFailure _ => true
  | .planeDark _ | .thermalTrip _ _ | .telemetryRefresh _ _ _ | .linkFailure | .linkUp => true
  | _ => false

/-- Every byte memory of the machine is in canonical form. -/
def Mach.MemoriesWf (m : Mach) : Prop :=
  m.dram.wf = true ∧ m.hostMem.wf = true ∧ m.fabric.wf = true ∧ ∀ e ∈ m.peers, Memory.wf e.2 = true

/-- The machine's own part is legal: byte memories in canonical form (log 3), and for every group of a core, resident or saved, at most 16
masks on its stack (R20) and p0 true in every thread (R56). -/
structure Mach.Legal (m : Mach) : Prop where
  memories : m.MemoriesWf
  masks : ∀ c ∈ m.cores, ∀ g ∈ c.2.everyone, g.depth ≤ 16
  p0 : ∀ c ∈ m.cores, ∀ g ∈ c.2.everyone, ∀ t, g.pred 0 t = true

/-- The step answers a next state. -/
def Runs (s : State) : Prop := ∃ t, step s = .next t

end Sys2Proof.Machine
end

