-- ==== Sys2Proof/WellFormed.lean ====
section
/-! DEFINITION. Which instructions are well formed: those that none of the ILLEGAL rows of R192 names. The rows
themselves are read off the operand forms of each opcode. -/

namespace Sys2Proof

open Machine

/-- The fields of an encoded instruction, by name; an event has none. A dictionary form is the word it refers to. -/
def Instr.fields? (i : Instr) : Option Fields :=
  match i with
  | .nop w => some (fieldsA 0x00 w)
  | .bra w => some (fieldsJ 0x01 w)
  | .brany w => some (fieldsJ 0x02 w)
  | .brx w => some (fieldsA 0x03 w)
  | .call w => some (fieldsJ 0x04 w)
  | .ret w => some (fieldsA 0x05 w)
  | .pushm w => some (fieldsC 0x06 w)
  | .flipm w => some (fieldsA 0x07 w)
  | .popm w => some (fieldsA 0x08 w)
  | .breakm w => some (fieldsC 0x09 w)
  | .safept w => some (fieldsJ 0x0A w)
  | .exit w => some (fieldsA 0x0B w)
  | .yield w => some (fieldsA 0x0C w)
  | .trap w => some (fieldsI 0x0D w)
  | .syscall w => some (fieldsI 0x0E w)
  | .eret w => some (fieldsA 0x0F w)
  | .iadd w => some (fieldsA 0x10 w)
  | .isub w => some (fieldsA 0x11 w)
  | .imul w => some (fieldsA 0x12 w)
  | .imulhs w => some (fieldsA 0x13 w)
  | .imulhn w => some (fieldsA 0x14 w)
  | .imad w => some (fieldsA 0x15 w)
  | .iabs w => some (fieldsA 0x16 w)
  | .ineg w => some (fieldsA 0x17 w)
  | .iminS w => some (fieldsA 0x18 w)
  | .iminN w => some (fieldsA 0x19 w)
  | .imaxS w => some (fieldsA 0x1A w)
  | .imaxN w => some (fieldsA 0x1B w)
  | .iaddminS w => some (fieldsA 0x1C w)
  | .iaddsatS w => some (fieldsA 0x1D w)
  | .isubsatS w => some (fieldsA 0x1E w)
  | .iaddmaxS w => some (fieldsA 0x1F w)
  | .iaddi w => some (fieldsI 0x20 w)
  | .imuli w => some (fieldsI 0x21 w)
  | .andi w => some (fieldsI 0x22 w)
  | .ori w => some (fieldsI 0x23 w)
  | .xori w => some (fieldsI 0x24 w)
  | .shli w => some (fieldsI 0x25 w)
  | .shrli w => some (fieldsI 0x26 w)
  | .shrai w => some (fieldsI 0x27 w)
  | .movi w => some (fieldsI 0x28 w)
  | .movhi w => some (fieldsI 0x29 w)
  | .ldk w => some (fieldsI 0x2A w)
  | .iadd64 w => some (fieldsA 0x2B w)
  | .isub64 w => some (fieldsA 0x2C w)
  | .imadw w => some (fieldsA 0x2D w)
  | .icmpiS w => some (fieldsC 0x2E w)
  | .sel w => some (fieldsA 0x2F w)
  | .and_ w => some (fieldsA 0x30 w)
  | .or_ w => some (fieldsA 0x31 w)
  | .xor w => some (fieldsA 0x32 w)
  | .andn w => some (fieldsA 0x33 w)
  | .not_ w => some (fieldsA 0x34 w)
  | .shl w => some (fieldsA 0x35 w)
  | .shrl w => some (fieldsA 0x36 w)
  | .shra w => some (fieldsA 0x37 w)
  | .rotl w => some (fieldsA 0x38 w)
  | .clz w => some (fieldsA 0x39 w)
  | .ctz w => some (fieldsA 0x3A w)
  | .popc w => some (fieldsA 0x3B w)
  | .brev w => some (fieldsA 0x3C w)
  | .bfx w => some (fieldsA 0x3D w)
  | .bfi w => some (fieldsA 0x3E w)
  | .prmb w => some (fieldsA 0x3F w)
  | .icmpS w => some (fieldsC 0x40 w)
  | .icmpN w => some (fieldsC 0x41 w)
  | .fcmp w => some (fieldsC 0x42 w)
  | .pset w => some (fieldsC 0x43 w)
  | .pand w => some (fieldsC 0x44 w)
  | .por w => some (fieldsC 0x45 w)
  | .pxor w => some (fieldsC 0x46 w)
  | .pmov w => some (fieldsC 0x47 w)
  | .voteAny w => some (fieldsC 0x48 w)
  | .voteAll w => some (fieldsC 0x49 w)
  | .ballot w => some (fieldsA 0x4A w)
  | .mov w => some (fieldsA 0x4B w)
  | .movk w => some (fieldsA 0x4C w)
  | .rdsr w => some (fieldsI 0x4D w)
  | .wrsr w => some (fieldsI 0x4E w)
  | .wid w => some (fieldsI 0x4F w)
  | .shflIdx w => some (fieldsA 0x50 w)
  | .shflUp w => some (fieldsA 0x51 w)
  | .shflDn w => some (fieldsA 0x52 w)
  | .shflXor w => some (fieldsA 0x53 w)
  | .bcast w => some (fieldsA 0x54 w)
  | .rdth w => some (fieldsA 0x55 w)
  | .wrth w => some (fieldsA 0x56 w)
  | .redaddS w => some (fieldsA 0x57 w)
  | .redminS w => some (fieldsA 0x58 w)
  | .redmaxS w => some (fieldsA 0x59 w)
  | .redaddF32 w => some (fieldsA 0x5A w)
  | .scanaddS w => some (fieldsA 0x5B w)
  | .scanaddF32 w => some (fieldsA 0x5C w)
  | .match_ w => some (fieldsA 0x5D w)
  | .elect w => some (fieldsC 0x5E w)
  | .gsize w => some (fieldsA 0x5F w)
  | .fadd w => some (fieldsA 0x60 w)
  | .fsub w => some (fieldsA 0x61 w)
  | .fmul w => some (fieldsA 0x62 w)
  | .ffma w => some (fieldsA 0x63 w)
  | .fmin w => some (fieldsA 0x64 w)
  | .fmax w => some (fieldsA 0x65 w)
  | .fneg w => some (fieldsA 0x66 w)
  | .fabs w => some (fieldsA 0x67 w)
  | .frcp w => some (fieldsA 0x68 w)
  | .frsq w => some (fieldsA 0x69 w)
  | .fsqrt w => some (fieldsA 0x6A w)
  | .fexp2 w => some (fieldsA 0x6B w)
  | .flog2 w => some (fieldsA 0x6C w)
  | .ftanh w => some (fieldsA 0x6D w)
  | .fsig w => some (fieldsA 0x6E w)
  | .faddmin w => some (fieldsA 0x6F w)
  | .haddBf w => some (fieldsA 0x70 w)
  | .hmulBf w => some (fieldsA 0x71 w)
  | .hfmaBf w => some (fieldsA 0x72 w)
  | .haddHf w => some (fieldsA 0x73 w)
  | .hmulHf w => some (fieldsA 0x74 w)
  | .hfmaHf w => some (fieldsA 0x75 w)
  | .hminBf w => some (fieldsA 0x76 w)
  | .hmaxBf w => some (fieldsA 0x77 w)
  | .hminHf w => some (fieldsA 0x78 w)
  | .hmaxHf w => some (fieldsA 0x79 w)
  | .hdotBf w => some (fieldsA 0x7A w)
  | .hdotHf w => some (fieldsA 0x7B w)
  | .mdot4 w => some (fieldsA 0x7C w)
  | .idot4S w => some (fieldsA 0x7D w)
  | .idot8S w => some (fieldsA 0x7E w)
  | .frnd w => some (fieldsA 0x7F w)
  | .cvtF32S32 w => some (fieldsA 0x80 w)
  | .cvtS32F32 w => some (fieldsA 0x81 w)
  | .cvtF32N32 w => some (fieldsA 0x82 w)
  | .cvtN32F32 w => some (fieldsA 0x83 w)
  | .cvtBfF32 w => some (fieldsA 0x84 w)
  | .cvtF32Bf w => some (fieldsA 0x85 w)
  | .cvtHfF32 w => some (fieldsA 0x86 w)
  | .cvtF32Hf w => some (fieldsA 0x87 w)
  | .cvtM8F32 w => some (fieldsA 0x88 w)
  | .cvtF32M8 w => some (fieldsA 0x89 w)
  | .cvtM4F32 w => some (fieldsA 0x8A w)
  | .cvtF32M4 w => some (fieldsA 0x8B w)
  | .cvtI8S32 w => some (fieldsA 0x8C w)
  | .cvtI4S32 w => some (fieldsA 0x8D w)
  | .setfmt w => some (fieldsI 0x8E w)
  | .getfmt w => some (fieldsA 0x8F w)
  | .open_ w => some (fieldsO 0x90 w)
  | .openW w => some (fieldsO 0x91 w)
  | .recall w => some (fieldsO 0x92 w)
  | .recallD w => some (fieldsO 0x93 w)
  | .ldB8s w => some (fieldsM 0x94 w)
  | .ldB8n w => some (fieldsM 0x95 w)
  | .ldH16s w => some (fieldsM 0x96 w)
  | .ldH16n w => some (fieldsM 0x97 w)
  | .ldW32 w => some (fieldsM 0x98 w)
  | .ldW64 w => some (fieldsM 0x99 w)
  | .ldW128 w => some (fieldsM 0x9A w)
  | .stB8 w => some (fieldsM 0x9B w)
  | .stH16 w => some (fieldsM 0x9C w)
  | .stW32 w => some (fieldsM 0x9D w)
  | .stW64 w => some (fieldsM 0x9E w)
  | .stW128 w => some (fieldsM 0x9F w)
  | .spset w => some (fieldsA 0xA0 w)
  | .spnarrow w => some (fieldsA 0xA1 w)
  | .spadv w => some (fieldsA 0xA2 w)
  | .spget w => some (fieldsA 0xA3 w)
  | .spchk w => some (fieldsA 0xA4 w)
  | .spsave w => some (fieldsM 0xA5 w)
  | .spload w => some (fieldsM 0xA6 w)
  | .flushl w => some (fieldsO 0xA7 w)
  | .lstat w => some (fieldsM 0xA8 w)
  | .tagset w => some (fieldsA 0xA9 w)
  | .tagget w => some (fieldsA 0xAA w)
  | .pref w => some (fieldsO 0xAB w)
  | .grow w => some (fieldsI 0xAC w)
  | .shrink w => some (fieldsI 0xAD w)
  | .lend w => some (fieldsA 0xAE w)
  | .reclaim w => some (fieldsA 0xAF w)
  | .aadd w => some (fieldsM 0xB0 w)
  | .aadd64 w => some (fieldsM 0xB1 w)
  | .afadd w => some (fieldsM 0xB2 w)
  | .aminS w => some (fieldsM 0xB3 w)
  | .amaxS w => some (fieldsM 0xB4 w)
  | .aminN w => some (fieldsM 0xB5 w)
  | .amaxN w => some (fieldsM 0xB6 w)
  | .aand w => some (fieldsM 0xB7 w)
  | .aor w => some (fieldsM 0xB8 w)
  | .axor w => some (fieldsM 0xB9 w)
  | .axchg w => some (fieldsM 0xBA w)
  | .acas w => some (fieldsM 0xBB w)
  | .acas64 w => some (fieldsM 0xBC w)
  | .put w => some (fieldsA 0xBD w)
  | .putv w => some (fieldsA 0xBE w)
  | .cwait w => some (fieldsA 0xBF w)
  | .copy w => some (fieldsA 0xC0 w)
  | .copyTr8 w => some (fieldsA 0xC1 w)
  | .copyTr16 w => some (fieldsA 0xC2 w)
  | .copyMc w => some (fieldsA 0xC3 w)
  | .drain w => some (fieldsA 0xC4 w)
  | .copyl w => some (fieldsA 0xC5 w)
  | .seal w => some (fieldsA 0xC6 w)
  | .waitb w => some (fieldsI 0xC7 w)
  | .wptr w => some (fieldsI 0xC8 w)
  | .ringPush w => some (fieldsI 0xC9 w)
  | .ringPop w => some (fieldsI 0xCA w)
  | .ringTry w => some (fieldsI 0xCB w)
  | .ringAllow w => some (fieldsI 0xCC w)
  | .barArrive w => some (fieldsI 0xCD w)
  | .barWait w => some (fieldsI 0xCE w)
  | .barExpect w => some (fieldsI 0xCF w)
  | .mma w => some (fieldsA 0xD0 w)
  | .mmaSc w => some (fieldsA 0xD1 w)
  | .mhad w => some (fieldsA 0xD2 w)
  | .mqnt w => some (fieldsA 0xD3 w)
  | .mwait w => some (fieldsI 0xD4 w)
  | .mrel w => some (fieldsA 0xD5 w)
  | .accrd w => some (fieldsA 0xD6 w)
  | .accwr w => some (fieldsA 0xD7 w)
  | .accz w => some (fieldsA 0xD8 w)
  | .gang w => some (fieldsA 0xD9 w)
  | .mprog w => some (fieldsA 0xDA w)
  | .accst w => some (fieldsA 0xDB w)
  | .fenceOpnd w => some (fieldsA 0xDC w)
  | .mstat w => some (fieldsA 0xDD w)
  | .accld w => some (fieldsA 0xDE w)
  | .mcancel w => some (fieldsA 0xDF w)
  | .acq w => some (fieldsA 0xE0 w)
  | .rel w => some (fieldsA 0xE1 w)
  | .bind w => some (fieldsA 0xE2 w)
  | .unbind w => some (fieldsA 0xE3 w)
  | .fence w => some (fieldsI 0xE4 w)
  | .promise w => some (fieldsA 0xE5 w)
  | .heir w => some (fieldsA 0xE6 w)
  | .hold w => some (fieldsA 0xE7 w)
  | .relinq w => some (fieldsA 0xE8 w)
  | .estat w => some (fieldsA 0xE9 w)
  | .waitw w => some (fieldsA 0xEA w)
  | .wake w => some (fieldsA 0xEB w)
  | .enq w => some (fieldsA 0xEC w)
  | .deq w => some (fieldsA 0xED w)
  | .tdone w => some (fieldsA 0xEE w)
  | .depadd w => some (fieldsA 0xEF w)
  | .mboxrd w => some (fieldsA 0xF0 w)
  | .mboxwr w => some (fieldsA 0xF1 w)
  | .rdg w => some (fieldsA 0xF2 w)
  | .wrg w => some (fieldsA 0xF3 w)
  | .gstop w => some (fieldsA 0xF4 w)
  | .gresume w => some (fieldsA 0xF5 w)
  | .gkill w => some (fieldsA 0xF6 w)
  | .xlinv w => some (fieldsA 0xF7 w)
  | .fqpop w => some (fieldsA 0xF8 w)
  | .fqreplay w => some (fieldsA 0xF9 w)
  | .cycles w => some (fieldsA 0xFA w)
  | .brk w => some (fieldsI 0xFB w)
  | .perfrd w => some (fieldsA 0xFC w)
  | .sigrd w => some (fieldsA 0xFD w)
  | .harvest w => some (fieldsA 0xFE w)
  | .ctxsw w => some (fieldsA 0xFF w)
  | .movCompact w => some (fieldsHMov w)
  | .iaddCompact w => some (fieldsH 0x10 w)
  | .isubCompact w => some (fieldsH 0x11 w)
  | .imulCompact w => some (fieldsH 0x12 w)
  | .andCompact w => some (fieldsH 0x30 w)
  | .orCompact w => some (fieldsH 0x31 w)
  | .xorCompact w => some (fieldsH 0x32 w)
  | .shlCompact w => some (fieldsH 0x35 w)
  | .shrlCompact w => some (fieldsH 0x36 w)
  | .shraCompact w => some (fieldsH 0x37 w)
  | .iminSCompact w => some (fieldsH 0x18 w)
  | .imaxSCompact w => some (fieldsH 0x1A w)
  | .faddCompact w => some (fieldsH 0x60 w)
  | .fsubCompact w => some (fieldsH 0x61 w)
  | .fmulCompact w => some (fieldsH 0x62 w)
  | .fmaxCompact w => some (fieldsH 0x65 w)
  | .dictionaryForm _ => none
  | .resultWrite _ => none
  | .runArbitration _ _ => none
  | .fetchComplete _ => none
  | .speculativeFetch _ _ _ _ => none
  | .staleNotice _ => none
  | .writeBack _ => none
  | .writeBackAck _ => none
  | .atomicRequest _ => none
  | .putData _ => none
  | .counterAdd _ => none
  | .objectStep _ => none
  | .ringOpAtHub _ => none
  | .barrierOpAtHub _ => none
  | .taskOpAtHub _ => none
  | .waiterArrival _ => none
  | .entryStart _ _ => none
  | .copyDelivery _ _ => none
  | .copyDone _ _ => none
  | .kBlock _ => none
  | .operationDone _ => none
  | .placement => none
  | .parkComplete _ _ => none
  | .unparkComplete _ _ => none
  | .contextSaveComplete _ => none
  | .implicitRelease _ _ => none
  | .conveyance _ _ => none
  | .launchComplete _ => none
  | .intervalStart _ _ => none
  | .cwaitPoll _ _ => none
  | .duplexTimeout _ _ => none
  | .retransmit _ => none
  | .telemetryRefresh _ _ _ => none
  | .create _ => none
  | .suspend _ => none
  | .resume _ => none
  | .teardown _ => none
  | .remap _ _ _ => none
  | .setp _ _ => none
  | .gate _ _ => none
  | .light _ => none
  | .dark _ => none
  | .planeDark _ => none
  | .refresh _ _ => none
  | .tripset _ => none
  | .tripResume => none
  | .thermalTrip _ _ => none
  | .detach => none
  | .commit => none
  | .linkFailure => none
  | .linkUp => none
  | .inspectionReset => none
  | .coreReset _ => none
  | .powerOn _ => none
  | .firmwareUpdate _ => none
  | .attestation _ => none
  | .inFieldTest _ _ => none
  | .testAbort _ => none
  | .testReport _ _ => none
  | .migrate _ _ => none
  | .migrateDone => none
  | .migrateBusy => none
  | .hostXlinv _ _ _ => none
  | .hostWake _ _ => none
  | .hostRegistration _ _ _ _ => none
  | .bindingEnable _ _ _ _ _ => none
  | .inject _ => none
  | .hostRead _ _ _ => none
  | .hostWrite _ _ _ => none
  | .geloloPortFailure _ => none
  | .peerRequest _ _ _ _ _ => none
  | .peerAtomic _ _ _ _ _ _ _ _ => none
  | .acknowledgement _ _ _ => none
  | .newEpoch _ => none
  | .reductionResult _ _ => none
  | .mmioWrite _ _ _ => none
  | .hostFunctionClear => none
  | .faultQueueHeadWrite _ _ => none
  | .geloloPortTrain _ => none
  | .reductionWindowStateWrite _ => none

/-- The check of one instruction: the first ILLEGAL row of R192 it meets, or none. A dictionary form is itself illegal
only by its guard override (R192); its index and its word are judged where its group's dictionary is known. -/
def Instr.check (i : Instr) : Option IllFormed :=
  match i with
  | .dictionaryForm w => if w.go == 4 then some .reservedGuard else none
  | i => i.fields?.bind illFormed

/-- The instruction is well formed. -/
def WellFormed (i : Instr) : Prop := i.check = none

end Sys2Proof
end

