-- ==== Sys2Proof/Certificates/Slice0/Obligations.lean ====
section
/-! DEFINITION. The statements for the provers. Their terms are in Safety; each cites the rule of spec/ it follows. A statement
about a word holds for every state in which its group issues it (no fault of R192, no pending result of R29). -/

open Sys2Proof Sys2Proof.Machine

/-- After device reset (R406, R41, R49, R434): every core holds its supervisor group alone, a general group with all its registers
outside the lane banks, its clock reads 0, and no context, queue, launch or message exists; plane 0 is lit and every die is at
level 2; no Gelolo port has trained; the attach state reads 1; the machine's own part (byte memories in canonical form, log 3) and the host's part are legal. The first instruction's address is the model's choice (log 4). -/
def Obligations.ResetState : Prop :=
  let m := State.reset.mach
  (∀ c slot, m.group? c slot = if slot = 1280 then some Group.supervisor else none) ∧
  (∀ c, (m.core c).cycle = 0 ∧ (m.core c).estate = [] ∧ (m.core c).claims = [] ∧ (m.core c).mbox = []) ∧
  Group.supervisor.id.sup = true ∧ Group.supervisor.id.role = .general ∧ Group.supervisor.valloc = 47 ∧
  Group.supervisor.pc = Group.supervisor.id.entry ∧ Group.supervisor.callow = 0 ∧ Group.supervisor.id.ctx = 0xFFFF ∧
  m.ctxs = [] ∧ m.queues = [] ∧ m.launches = [] ∧ m.msgs = [] ∧ m.Legal ∧ State.reset.dev.Legal ∧
  State.reset.dev.planes = [.lit, .dark, .dark, .dark] ∧ State.reset.dev.levels = [2, 2, 2, 2] ∧
  State.reset.dev.ports = List.replicate 18 false ∧ State.reset.dev.attach = 1

/-- A step runs the decoded instruction. With no turn listed and a word ready on the lane (its core's next interval not due), and for
a listed turn of a lane whose core may issue, the step is exec of the instruction that the bytes at the program counter decode to,
on the machine as owner groups have had their due (R40) and as the fetch left it (its walker cache, log 15); a listed event is exec of
its row, and a listed bit error or router load is that alone. What the listed turns are, and the order of the default policy, is the
model's choice (logs 1, 27 and 79). -/
def Obligations.StepRunsDecoded : Prop :=
  (∀ s slot g m bs i n, s.turns = [] → s.intervalDue s.curCore = false → s.laneReady = true → s.demand.issuer = some (slot, g) →
    s.demand.mach.fetchAt s.curCore g g.pc = (m, .bytes bs) → decode bs = .ok (i, n) → step s = exec i { s with mach := m }) ∧
  (∀ s ts core lane slot g m bs i n, s.turns = .issue core lane :: ts →
    let p := ({ s with turns := ts, curCore := core, curLane := lane } : State)
    p.issues = true → p.demand.issuer = some (slot, g) → p.demand.mach.fetchAt core g g.pc = (m, .bytes bs) →
    decode bs = .ok (i, n) → step s = exec i { p with mach := m }) ∧
  (∀ s ts i, s.turns = .event i :: ts → step s = exec i { s with turns := ts }) ∧
  (∀ s ts u, s.turns = .upset u :: ts → step s = .next { s with turns := ts, mach := s.mach.upset u }) ∧
  (∀ s ts x y p n, s.turns = .traffic x y p n :: ts → step s = .next (State.traffic { s with turns := ts } x y p n))

/-- Eight words of the table "Encodings at a glance" decode to the instructions they stand for, and a single byte decodes to none: a sanity
statement about a few words. -/
def Obligations.WordsDecode : Prop :=
  decode [0x31, 0x40, 0x00, 0x00] = .ok (.pushm { b := 0, a := 0, cc := 0, p := 1, g := 0, u := false, e := false }, 4) ∧
  decode [0x31, 0x40, 0x02, 0x00] = .ok (.pushm { b := 0, a := 0, cc := 1, p := 1, g := 0, u := false, e := false }, 4) ∧
  decode [0x53, 0xC0, 0x23, 0x00] = .ok (.safept { off := 0x8F, g := 0, u := false, e := true }, 4) ∧
  decode [0x71, 0x41, 0x34, 0xEC] = .ok (.icmpiS { b := 0x3B, a := 3, cc := 2, p := 1, g := 0, u := false, e := false }, 4) ∧
  decode [0x01, 0x41, 0xF0, 0xFF] = .ok (.iaddi { imm := 0xFFF, d := 1, g := 0, u := false, e := false }, 4) ∧
  decode [0xD1, 0x82, 0x21, 0x00] = .ok (.redaddF32 { b := 0, a := 2, d := 6, g := 0, u := false, e := false }, 4) ∧
  decode [0x49, 0x84, 0x50, 0x0C] = .ok (.cvtF32M8 { b := 3, a := 5, d := 2, g := 0, u := false, e := false }, 4) ∧
  decode [0x13, 0x80, 0xFE, 0xFF] = .ok (.brany { off := 0x3FFFA, g := 0, u := false, e := true }, 4) ∧
  decode [0x08] = .error .truncated

/-- Decode and encode agree: for every instruction that has an encoding, with every operand at every value, its bytes decode to
it, whatever follows them. -/
def Obligations.DecodeEncode : Prop := ∀ i rest, encode i ≠ [] → decode (encode i ++ rest) = .ok (i, (encode i).length)

/-- Every word with bit 0 set, and every halfword with bit 0 clear, is the encoding of the one instruction it decodes to (R182,
R184, R190): no bit is dropped. -/
def Obligations.EncodeDecode : Prop :=
  (∀ b0 b1 b2 b3 : Byte, b0.getLsbD 0 = true → ∃ i, decode [b0, b1, b2, b3] = .ok (i, 4) ∧ encode i = [b0, b1, b2, b3]) ∧
  (∀ b0 b1 : Byte, b0.getLsbD 0 = false → ∃ i, decode [b0, b1] = .ok (i, 2) ∧ encode i = [b0, b1])

/-- A precise fault of the word itself (R31, R192, R193, R361): for every encoded instruction but a dictionary form, whose word is read
through its dictionary, the first row of R192 that it meets stops its group at the word, with CAUSE 1, its FCODE and a mailbox
record of KIND 1 with ADDR 0; nothing else changes. FORMAT is judged once no source has a pending result. -/
def Obligations.WordFaultTaken : Prop := ∀ i f, i.fields? = some f → ∀ s slot g c, s.issuer = some (slot, g) →
  g.id.sup = false →
  (wordFault g f = some c ∨ wordFault g f = none ∧ stalls g f = false ∧ formatFault g f = true ∧ c = .format) →
  Faults i s slot g c 0

/-- A word that touches a pending item waits (R29): no register, predicate or byte of memory changes; the core's time goes on to the
cycle after the one in which the word would have issued, and the lane is held. Counter 0 counts each stalled cycle of each lane
that is held so (R159); said where the lane's last word is over and counter 0 counts nothing else. -/
def Obligations.PendingResultHolds : Prop := ∀ i f, i.fields? = some f → ∀ s slot g, s.issuer = some (slot, g) →
  wordFault g f = none → stalls g f = true →
  let c := s.mach.core s.curCore
  ∃ t, exec i s = .next t ∧ SameHost s t ∧ OneCore s.mach t.mach s.curCore ∧ SameMemory s.mach t.mach ∧
    (∀ k, t.mach.group? s.curCore k = s.mach.group? s.curCore k) ∧
    (t.mach.core s.curCore).cycle = max c.cycle (c.lane (laneOf slot)).busyUntil + 1 ∧
    (t.mach.core s.curCore).lane (laneOf slot) = { c.lane (laneOf slot) with held := true, stalled := true } ∧
    ((c.lane (laneOf slot)).busyUntil ≤ c.cycle → c.select.get? 0 = none →
      (t.mach.core s.curCore).perf.getD 0 0 = c.perf.getD 0 0 + BitVec.ofNat 48 (t.mach.core s.curCore).stalledLanes)

/-- Row 1 (R208): each participant's D takes the table's value under the table's tag, the group's k register takes it pass by pass (R54), z takes nothing, and every other register, predicate and byte of memory is as before. Row 2, format I (R209): D is the first source and the destination, IMM12 the second operand. -/
def Obligations.IntegerResults : Prop :=
  (∀ w : WordA,
  RegisterResult (.iadd w) (fieldsA 0x10 w) 4 (fun g => mixedTag g [w.a, w.b]) (fun g t => g.reg w.a t + g.reg w.b t) ∧
  RegisterResult (.isub w) (fieldsA 0x11 w) 4 (fun g => mixedTag g [w.a, w.b]) (fun g t => g.reg w.a t - g.reg w.b t) ∧
  RegisterResult (.imul w) (fieldsA 0x12 w) 4 (fun g => mixedTag g [w.a, w.b]) (fun g t => g.reg w.a t * g.reg w.b t) ∧
  RegisterResult (.imulhs w) (fieldsA 0x13 w) 4 (fun _ => 1) (fun g t => ((g.reg w.a t).signExtend 64 * (g.reg w.b t).signExtend 64).extractLsb' 32 32) ∧
  RegisterResult (.imulhn w) (fieldsA 0x14 w) 4 (fun _ => 2) (fun g t => ((g.reg w.a t).setWidth 64 * (g.reg w.b t).setWidth 64).extractLsb' 32 32) ∧
  RegisterResult (.imad w) (fieldsA 0x15 w) 4 (fun g => mixedTag g [w.a, w.b, w.d]) (fun g t => g.reg w.a t * g.reg w.b t + g.reg w.d t) ∧
  RegisterResult (.iabs w) (fieldsA 0x16 w) 4 (fun g => mixedTag g [w.a]) (fun g t => BitVec.ofInt 32 |(g.reg w.a t).toInt|) ∧
  RegisterResult (.ineg w) (fieldsA 0x17 w) 4 (fun g => mixedTag g [w.a]) (fun g t => -g.reg w.a t) ∧
  RegisterResult (.iminS w) (fieldsA 0x18 w) 4 (fun _ => 1) (fun g t => BitVec.ofInt 32 (min (g.reg w.a t).toInt (g.reg w.b t).toInt)) ∧
  RegisterResult (.iminN w) (fieldsA 0x19 w) 4 (fun _ => 2) (fun g t => BitVec.ofNat 32 (min (g.reg w.a t).toNat (g.reg w.b t).toNat)) ∧
  RegisterResult (.imaxS w) (fieldsA 0x1A w) 4 (fun _ => 1) (fun g t => BitVec.ofInt 32 (max (g.reg w.a t).toInt (g.reg w.b t).toInt)) ∧
  RegisterResult (.imaxN w) (fieldsA 0x1B w) 4 (fun _ => 2) (fun g t => BitVec.ofNat 32 (max (g.reg w.a t).toNat (g.reg w.b t).toNat)) ∧
  RegisterResult (.iaddminS w) (fieldsA 0x1C w) 4 (fun _ => 1) (fun g t => BitVec.ofInt 32 (min (g.reg w.d t).toInt (sat32 ((g.reg w.a t).toInt + (g.reg w.b t).toInt)).toInt)) ∧
  RegisterResult (.iaddsatS w) (fieldsA 0x1D w) 4 (fun _ => 1) (fun g t => sat32 ((g.reg w.a t).toInt + (g.reg w.b t).toInt)) ∧
  RegisterResult (.isubsatS w) (fieldsA 0x1E w) 4 (fun _ => 1) (fun g t => sat32 ((g.reg w.a t).toInt - (g.reg w.b t).toInt)) ∧
  RegisterResult (.iaddmaxS w) (fieldsA 0x1F w) 4 (fun _ => 1) (fun g t => BitVec.ofInt 32 (max (g.reg w.d t).toInt (sat32 ((g.reg w.a t).toInt + (g.reg w.b t).toInt)).toInt))) ∧
  (∀ w : WordI,
  RegisterResult (.iaddi w) (fieldsI 0x20 w) 4 (fun g => mixedTag g [w.d]) (fun g t => g.reg w.d t + w.imm.signExtend 32) ∧
  RegisterResult (.imuli w) (fieldsI 0x21 w) 4 (fun g => mixedTag g [w.d]) (fun g t => g.reg w.d t * w.imm.signExtend 32) ∧
  RegisterResult (.andi w) (fieldsI 0x22 w) 4 (fun g => mixedTag g [w.d]) (fun g t => g.reg w.d t &&& w.imm.signExtend 32) ∧
  RegisterResult (.ori w) (fieldsI 0x23 w) 4 (fun g => mixedTag g [w.d]) (fun g t => g.reg w.d t ||| w.imm.signExtend 32) ∧
  RegisterResult (.xori w) (fieldsI 0x24 w) 4 (fun g => mixedTag g [w.d]) (fun g t => g.reg w.d t ^^^ w.imm.signExtend 32) ∧
  RegisterResult (.shli w) (fieldsI 0x25 w) 4 (fun g => mixedTag g [w.d]) (fun g t => g.reg w.d t <<< w.imm) ∧
  RegisterResult (.shrli w) (fieldsI 0x26 w) 4 (fun g => mixedTag g [w.d]) (fun g t => g.reg w.d t >>> w.imm) ∧
  RegisterResult (.shrai w) (fieldsI 0x27 w) 4 (fun g => mixedTag g [w.d]) (fun g t => BitVec.ofInt 32 ((g.reg w.d t).toInt / 2 ^ w.imm.toNat)) ∧
  RegisterResult (.movi w) (fieldsI 0x28 w) 4 (fun _ => 1) (fun _ _ => BitVec.ofInt 32 w.imm.toInt) ∧
  RegisterResult (.movhi w) (fieldsI 0x29 w) 4 (fun g => mixedTag g [w.d]) (fun g t => w.imm ++ (g.reg w.d t).extractLsb' 0 20))

/-- Row 2, 64-bit and selecting words (R211): the pair D takes the sum, the difference or the multiply-accumulate, ICMPI.S
writes P, and SEL takes A or B in every active thread as the guard says. -/
def Obligations.PairAndSelectResults : Prop :=
  (∀ w : WordA, PairResult (.iadd64 w) (fieldsA 0x2B w) 4 (fun g => mixedTag g [w.a, w.b])
    (fun g t => g.reg64 w.a t + g.reg64 w.b t)) ∧
  (∀ w : WordA, PairResult (.isub64 w) (fieldsA 0x2C w) 4 (fun g => mixedTag g [w.a, w.b])
    (fun g t => g.reg64 w.a t - g.reg64 w.b t)) ∧
  (∀ w : WordA, PairResult (.imadw w) (fieldsA 0x2D w) 4 (fun g => mixedTag g [w.a, w.b, w.d])
    (fun g t => (g.reg w.a t).signExtend 64 * (g.reg w.b t).signExtend 64 + g.reg64 w.d t)) ∧
  (∀ w : WordC, PredicateResult (.icmpiS w) (fieldsC 0x2E w) 4
    (fun g t => ordered w.cc.toNat (g.reg w.a t).toInt (w.b.signExtend 32).toInt)) ∧
  (∀ w : WordA, ∀ s slot g, Issues s slot g (fieldsA 0x2F w) → ∃ t g', exec (.sel w) s = .next t ∧
    Stepped s t slot (fieldsA 0x2F w) g g' ∧ OnlyRegs g g' 4 ∧
    Holds g g' w.d (if w.u then g.active.head?.toList else g.active) (if g.tagOf w.a = g.tagOf w.b then g.tagOf w.a else 0)
      (fun h t => if h.guard w.g t then h.reg w.a t else h.reg w.b t))

/-- Row 3 (R212, R213): the logic, shift, count and field words, every result tagged RAW. -/
def Obligations.LogicResults : Prop := ∀ w : WordA,
  RegisterResult (.and_ w) (fieldsA 0x30 w) 4 (fun _ => 0) (fun g t => g.reg w.a t &&& g.reg w.b t) ∧
  RegisterResult (.or_ w) (fieldsA 0x31 w) 4 (fun _ => 0) (fun g t => g.reg w.a t ||| g.reg w.b t) ∧
  RegisterResult (.xor w) (fieldsA 0x32 w) 4 (fun _ => 0) (fun g t => g.reg w.a t ^^^ g.reg w.b t) ∧
  RegisterResult (.andn w) (fieldsA 0x33 w) 4 (fun _ => 0) (fun g t => g.reg w.a t &&& ~~~g.reg w.b t) ∧
  RegisterResult (.not_ w) (fieldsA 0x34 w) 4 (fun _ => 0) (fun g t => ~~~g.reg w.a t) ∧
  RegisterResult (.shl w) (fieldsA 0x35 w) 4 (fun _ => 0) (fun g t => g.reg w.a t <<< (g.reg w.b t &&& 31)) ∧
  RegisterResult (.shrl w) (fieldsA 0x36 w) 4 (fun _ => 0) (fun g t => g.reg w.a t >>> (g.reg w.b t &&& 31)) ∧
  RegisterResult (.shra w) (fieldsA 0x37 w) 4 (fun _ => 0) (fun g t => (g.reg w.a t).sshiftRight (g.reg w.b t &&& 31).toNat) ∧
  RegisterResult (.rotl w) (fieldsA 0x38 w) 4 (fun _ => 0) (fun g t => (g.reg w.a t).rotateLeft (g.reg w.b t &&& 31).toNat) ∧
  RegisterResult (.clz w) (fieldsA 0x39 w) 4 (fun _ => 0) (fun g t => BitVec.ofNat 32 ((List.range 32).takeWhile (fun i => !(g.reg w.a t).getLsbD (31 - i))).length) ∧
  RegisterResult (.ctz w) (fieldsA 0x3A w) 4 (fun _ => 0) (fun g t => BitVec.ofNat 32 ((List.range 32).takeWhile (fun i => !(g.reg w.a t).getLsbD i)).length) ∧
  RegisterResult (.popc w) (fieldsA 0x3B w) 4 (fun _ => 0) (fun g t => BitVec.ofNat 32 ((List.range 32).filter (fun i => (g.reg w.a t).getLsbD i)).length) ∧
  RegisterResult (.brev w) (fieldsA 0x3C w) 4 (fun _ => 0) (fun g t => (g.reg w.a t).reverse) ∧
  RegisterResult (.bfx w) (fieldsA 0x3D w) 4 (fun _ => 0) (fun g t => (g.reg w.a t >>> (g.reg w.b t &&& 31)) &&& lowOnes (g.reg w.b t)) ∧
  RegisterResult (.bfi w) (fieldsA 0x3E w) 4 (fun _ => 0) (fun g t => (g.reg w.d t &&& ~~~(lowOnes (g.reg w.b t) <<< (g.reg w.b t &&& 31))) ||| ((g.reg w.a t <<< (g.reg w.b t &&& 31)) &&& (lowOnes (g.reg w.b t) <<< (g.reg w.b t &&& 31)))) ∧
  RegisterResult (.prmb w) (fieldsA 0x3F w) 4 (fun _ => 0) (fun g t => pickByte (g.reg w.a t) (g.reg w.d t) (g.reg w.b t) 3 ++ pickByte (g.reg w.a t) (g.reg w.d t) (g.reg w.b t) 2 ++ pickByte (g.reg w.a t) (g.reg w.d t) (g.reg w.b t) 1 ++ pickByte (g.reg w.a t) (g.reg w.d t) (g.reg w.b t) 0)

/-- Row 4 (R214): the compares and the predicate words write P in each participant and leave every register. -/
def Obligations.PredicateResults : Prop := ∀ w : WordC,
  PredicateResult (.icmpS w) (fieldsC 0x40 w) 4 (fun g t => ordered w.cc.toNat (g.reg w.a t).toInt (g.reg w.b t).toInt) ∧
  PredicateResult (.icmpN w) (fieldsC 0x41 w) 4 (fun g t => ordered w.cc.toNat ((g.reg w.a t).toNat : Int) ((g.reg w.b t).toNat : Int)) ∧
  PredicateResult (.fcmp w) (fieldsC 0x42 w) 4 (fun g t => floatOrdered w.cc.toNat (f32.decode (g.reg w.a t).toNat)
    (f32.decode (g.reg w.b t).toNat)) ∧
  PredicateResult (.pset w) (fieldsC 0x43 w) 4 (fun _ _ => w.cc == 1) ∧
  PredicateResult (.pand w) (fieldsC 0x44 w) 4 (fun g t => g.pcode w.a t && g.pcode w.b t) ∧
  PredicateResult (.por w) (fieldsC 0x45 w) 4 (fun g t => g.pcode w.a t || g.pcode w.b t) ∧
  PredicateResult (.pxor w) (fieldsC 0x46 w) 4 (fun g t => xor (g.pcode w.a t) (g.pcode w.b t)) ∧
  PredicateResult (.pmov w) (fieldsC 0x47 w) 4 (fun g t => g.pcode w.a t) ∧
  PredicateResult (.voteAny w) (fieldsC 0x48 w) 4 (fun g _ => (g.participants w.g).any (g.pcode w.a)) ∧
  PredicateResult (.voteAll w) (fieldsC 0x49 w) 4 (fun g _ => (g.participants w.g).all (g.pcode w.a)) ∧
  PredicateResult (.elect w) (fieldsC 0x5E w) 4
    (fun g t => g.pcode w.a t && (g.participants w.g).all (fun u => decide (t ≤ u) || !g.pcode w.a u))

/-- Rows 4 and 5, moves and readers (R215, R217): BALLOT, MOV, MOVK, WID, RDTH, WRTH and GSIZE. -/
def Obligations.MoveResults : Prop :=
  (∀ w : WordA, RegisterResult (.ballot w) (fieldsA 0x4A w) 4 (fun _ => 2)
    (fun g _ => maskOf ((g.participants w.g).filter (g.pcode w.a)))) ∧
  (∀ w : WordA, RegisterResult (.mov w) (fieldsA 0x4B w) 4 (fun g => g.tagOf w.a) (fun g t => g.reg w.a t)) ∧
  (∀ w : WordI, RegisterResult (.wid w) (fieldsI 0x4F w) 4 (fun _ => 2) (fun g t => g.widField w.imm.toNat t)) ∧
  (∀ w : WordA, RegisterResult (.gsize w) (fieldsA 0x5F w) 4 (fun _ => 2)
    (fun g _ => BitVec.ofNat 32 ((List.range 32).countP (fun t => g.amask.getLsbD t)))) ∧
  (∀ w : WordA, ∀ s slot g, Issues s slot g (fieldsA 0x4C w) → ∃ t g', exec (.movk w) s = .next t ∧
    Stepped s t slot (fieldsA 0x4C w) g g' ∧ OnlyRegs g g' 4 ∧
    Holds g g' w.d ((g.participants w.g).head?.toList) 0 (fun h t => h.reg w.a t)) ∧
  (∀ w : WordA, ∀ s slot g, Issues s slot g (fieldsA 0x55 w) → ∃ t g', exec (.rdth w) s = .next t ∧
    Stepped s t slot (fieldsA 0x55 w) g g' ∧ OnlyRegs g g' 4 ∧
    Holds g g' w.d (if g.participants w.g = [] then [] else [(g.reg w.b 0 &&& 31).toNat]) 0 (fun h t => h.reg w.a t)) ∧
  (∀ w : WordA, ∀ s slot g, Issues s slot g (fieldsA 0x56 w) → ∃ t g', exec (.wrth w) s = .next t ∧
    Stepped s t slot (fieldsA 0x56 w) g g' ∧ OnlyRegs g g' 4 ∧
    Holds g g' w.d ((g.participants w.g).filter (fun t => t == (g.reg w.b 0 &&& 31).toNat)) (g.tagOf w.a)
      (fun h _ => h.reg w.a 0))

/-- The system registers (R67, R68, R71, R215, R216): RDSR completes, and D holds the numbered register in each acting thread, tagged
N32; WRSR completes, and the bereavement bits written as 1 are clear, COUNT too with bit 0, once for each acting thread. PCORE and
PCLUSTER are the supervisor group's alone: RDSR of them raises PRIV in any other group with an active thread. What the registers of
the group, of its place and of its core read is listed, ROLE (R38), CLASS and the pool counts (R91, R92, R434) among it; that a saved group
counts as resident for POOLUSE and POOLCAP is the model's choice (log 87). -/
def Obligations.SystemRegisterResults : Prop :=
  (∀ w : WordI, ∀ s slot g, Issues s slot g (fieldsI 0x4D w) →
    (w.imm ≠ 0x40 ∧ w.imm ≠ 0x41 ∨ g.id.sup = true ∨ g.amask = 0) → ∃ t g', exec (.rdsr w) s = .next t ∧
    Stepped s t slot (fieldsI 0x4D w) g g' ∧ OnlyRegs g g' 4 ∧
    Holds g g' w.d (g.actors (fieldsI 0x4D w)) 2
      (fun h t => (s.issued slot g (fieldsI 0x4D w) 4).sysReg s.curCore slot (h.retired ⟨s.curCore, slot, fieldsI 0x4D w, g.pc, 4⟩) w.imm.toNat t)) ∧
  (∀ w : WordI, ∀ s slot g, Issues s slot g (fieldsI 0x4D w) → (w.imm = 0x40 ∨ w.imm = 0x41) → g.id.sup = false → g.amask ≠ 0 →
    Faults (.rdsr w) s slot g .priv 0) ∧
  (∀ w : WordI, ∀ s slot g, Issues s slot g (fieldsI 0x4E w) → ∃ t g', exec (.wrsr w) s = .next t ∧
    Stepped s t slot (fieldsI 0x4E w) g g' ∧
    g'.rest = ({ g with pc := g.pc + 4, bereave := (g.actors (fieldsI 0x4E w)).foldl (fun b t =>
      let b := b &&& ~~~(g.reg w.d t &&& 0x7F)
      if (g.reg w.d t).getLsbD 0 then b &&& 0xFFFF else b) g.bereave } : Group).rest) ∧
  (∀ m core slot g t,
    let reg := fun n => Mach.sysReg m core slot g n t
    (∀ i, i < 6 → reg i = g.widField i t) ∧ reg 0x06 = (g.widOf t).setWidth 32 ∧ reg 0x07 = (g.widOf t).extractLsb' 32 32 ∧
    reg 0x10 = BitVec.ofNat 32 (core % 8) ∧ reg 0x11 = BitVec.ofNat 32 (if g.id.sup then core / 8 else g.id.logical) ∧
    reg 0x12 = BitVec.ofNat 32 (laneOf slot) ∧ reg 0x13 = BitVec.ofNat 32 (slotOf slot) ∧
    reg 0x15 = BitVec.ofNat 32 g.id.ctx ∧ reg 0x17 = BitVec.ofNat 32 g.valloc ∧ reg 0x18 = BitVec.ofNat 32 g.id.gindex ∧
    reg 0x19 = g.gang.setWidth 32 ∧ reg 0x20 = g.amask ∧ reg 0x21 = BitVec.ofNat 32 g.depth ∧
    reg 0x22 = g.statusWord .issuing ∧ reg 0x23 = g.bereave ∧ reg 0x24 = g.callow.setWidth 32 ∧
    reg 0x14 = (match g.id.role with | .general => 0 | .copy => 1 | .matrix => 2 | .vector => 3) ∧
    (∀ b, b < 32 → (reg 0x16).getLsbD b = (decide (b = 0) && g.id.harvest || decide (b = 1) && g.id.sup || decide (b = 2) && g.id.viral ||
      decide (b = 3) && g.id.duplex || decide (b = 4) && g.id.copyIndex)) ∧
    (let all := (m.core core).groups.map (·.2) ++ (m.core core).saved.map (·.2)
     let owner := all.any (fun x => !x.id.sup && !x.id.harvest)
     reg 0x31 = BitVec.ofNat 32 (if g.id.harvest || owner then ((all.filter (fun x => x.id.harvest == g.id.harvest)).map (fun x =>
       (x.lines.map (fun e => ((e.2.frames.drop 1).filter Option.isSome).length)).sum)).sum else 0) ∧
     reg 0x32 = BitVec.ofNat 32 (if g.id.harvest then (m.core core).capHarvest else if owner then (m.core core).capOwner else 2040)) ∧
    reg 0x30 = (m.core core).meshp.setWidth 32 ∧ reg 0x40 = BitVec.ofNat 32 core ∧ reg 0x41 = BitVec.ofNat 32 (core / 8))

/-- Row 5, movement (R217): each participant takes another thread's A as it stood before, under A's tag. Row 5, reductions, scans and MATCH (R218): each participant takes the fold over the participants in ascending order, all
sources as they stood before. -/
def Obligations.LaneExchangeResults : Prop :=
  (∀ w : WordA, ∀ s slot g,
  let n := fun t => (g.reg w.b t &&& 31).toNat
  (Issues s slot g (fieldsA 0x50 w) → MovesTo (.shflIdx w) (fieldsA 0x50 w) s slot g w (fun t => g.reg w.a (n t))) ∧
  (Issues s slot g (fieldsA 0x51 w) → MovesTo (.shflUp w) (fieldsA 0x51 w) s slot g w
    (fun t => if n t ≤ t then g.reg w.a (t - n t) else g.reg w.a t)) ∧
  (Issues s slot g (fieldsA 0x52 w) → MovesTo (.shflDn w) (fieldsA 0x52 w) s slot g w
    (fun t => if t + n t ≤ 31 then g.reg w.a (t + n t) else g.reg w.a t)) ∧
  (Issues s slot g (fieldsA 0x53 w) → MovesTo (.shflXor w) (fieldsA 0x53 w) s slot g w (fun t => g.reg w.a (t ^^^ n t))) ∧
  (Issues s slot g (fieldsA 0x54 w) → MovesTo (.bcast w) (fieldsA 0x54 w) s slot g w
    (fun _ => g.reg w.a (g.reg w.b 0 &&& 31).toNat))) ∧
  (∀ w : WordA, ∀ s slot g,
  let ps := g.participants w.g
  let a := fun t => g.reg w.a t
  let fsum := fun (l : List Nat) => l.tail.foldl (fun x u => BitVec.ofNat 32 (f32.addB x.toNat (a u).toNat))
    (BitVec.ofNat 32 (f32.canonB (a (l.headD 0)).toNat))
  (Issues s slot g (fieldsA 0x57 w) → FoldsTo (.redaddS w) (fieldsA 0x57 w) s slot g w 1 (fun _ => (ps.map a).sum)) ∧
  (Issues s slot g (fieldsA 0x58 w) → FoldsTo (.redminS w) (fieldsA 0x58 w) s slot g w 1
    (fun t => BitVec.ofInt 32 (ps.foldl (fun x u => min x (a u).toInt) (a t).toInt))) ∧
  (Issues s slot g (fieldsA 0x59 w) → FoldsTo (.redmaxS w) (fieldsA 0x59 w) s slot g w 1
    (fun t => BitVec.ofInt 32 (ps.foldl (fun x u => max x (a u).toInt) (a t).toInt))) ∧
  (Issues s slot g (fieldsA 0x5A w) → FoldsTo (.redaddF32 w) (fieldsA 0x5A w) s slot g w 3 (fun _ => fsum ps)) ∧
  (Issues s slot g (fieldsA 0x5B w) → FoldsTo (.scanaddS w) (fieldsA 0x5B w) s slot g w 1
    (fun t => ((ps.filter (· ≤ t)).map a).sum)) ∧
  (Issues s slot g (fieldsA 0x5C w) → FoldsTo (.scanaddF32 w) (fieldsA 0x5C w) s slot g w 3 (fun t => fsum (ps.filter (· ≤ t)))) ∧
  (Issues s slot g (fieldsA 0x5D w) → FoldsTo (.match_ w) (fieldsA 0x5D w) s slot g w 2
    (fun t => maskOf (ps.filter (fun u => a u = a t)))))

/-- Row 6, fixed-latency words (R219, R220): the exact value of the operands, rounded once to F32; FNEG and FABS change bit 31 alone; FADDMIN rounds the sum before it compares. Row 6, the seven functions (R197, R219): scoreboarded; the result that arrives puts the function's value into D of each participant, tagged F32. -/
def Obligations.FloatResults : Prop :=
  (∀ w : WordA,
  RegisterResult (.fadd w) (fieldsA 0x60 w) 4 (fun _ => 3) (fun g t => BitVec.ofNat 32 (f32.encode ((f32.decode (g.reg w.a t).toNat).add (f32.decode (g.reg w.b t).toNat)))) ∧
  RegisterResult (.fsub w) (fieldsA 0x61 w) 4 (fun _ => 3) (fun g t => BitVec.ofNat 32 (f32.encode ((f32.decode (g.reg w.a t).toNat).add (f32.decode (g.reg w.b t).toNat).neg))) ∧
  RegisterResult (.fmul w) (fieldsA 0x62 w) 4 (fun _ => 3) (fun g t => BitVec.ofNat 32 (f32.encode ((f32.decode (g.reg w.a t).toNat).mul (f32.decode (g.reg w.b t).toNat)))) ∧
  RegisterResult (.ffma w) (fieldsA 0x63 w) 4 (fun _ => 3) (fun g t => BitVec.ofNat 32 (f32.encode (((f32.decode (g.reg w.a t).toNat).mul (f32.decode (g.reg w.b t).toNat)).add (f32.decode (g.reg w.d t).toNat)))) ∧
  RegisterResult (.fmin w) (fieldsA 0x64 w) 4 (fun _ => 3) (fun g t => BitVec.ofNat 32 (f32.encode ((f32.decode (g.reg w.a t).toNat).min164 (f32.decode (g.reg w.b t).toNat)))) ∧
  RegisterResult (.fmax w) (fieldsA 0x65 w) 4 (fun _ => 3) (fun g t => BitVec.ofNat 32 (f32.encode ((f32.decode (g.reg w.a t).toNat).max164 (f32.decode (g.reg w.b t).toNat)))) ∧
  RegisterResult (.fneg w) (fieldsA 0x66 w) 4 (fun _ => 3) (fun g t => (BitVec.ofBool (!(g.reg w.a t).msb) ++ (g.reg w.a t).extractLsb' 0 31 : Word)) ∧
  RegisterResult (.fabs w) (fieldsA 0x67 w) 4 (fun _ => 3) (fun g t => ((g.reg w.a t).extractLsb' 0 31).setWidth 32) ∧
  RegisterResult (.faddmin w) (fieldsA 0x6F w) 4 (fun _ => 3) (fun g t => BitVec.ofNat 32 (f32.encode ((f32.decode (g.reg w.d t).toNat).min164 (f32.decode (f32.encode ((f32.decode (g.reg w.a t).toNat).add (f32.decode (g.reg w.b t).toNat)))))))) ∧
  (∀ w : WordA,
  LaterResult (.frcp w) (fieldsA 0x68 w) 4 3 (fun g t => BitVec.ofNat 32 (frcp (g.reg w.a t))) ∧
  LaterResult (.frsq w) (fieldsA 0x69 w) 4 3 (fun g t => BitVec.ofNat 32 (frsq (g.reg w.a t))) ∧
  LaterResult (.fsqrt w) (fieldsA 0x6A w) 4 3 (fun g t => BitVec.ofNat 32 (fsqrt (g.reg w.a t))) ∧
  LaterResult (.fexp2 w) (fieldsA 0x6B w) 4 3 (fun g t => BitVec.ofNat 32 (fexp2 (g.reg w.a t))) ∧
  LaterResult (.flog2 w) (fieldsA 0x6C w) 4 3 (fun g t => BitVec.ofNat 32 (flog2 (g.reg w.a t))) ∧
  LaterResult (.ftanh w) (fieldsA 0x6D w) 4 3 (fun g t => BitVec.ofNat 32 (ftanh (g.reg w.a t))) ∧
  LaterResult (.fsig w) (fieldsA 0x6E w) 4 3 (fun g t => BitVec.ofNat 32 (fsig (g.reg w.a t))))

/-- Row 7, packed words (R222): elements 0 and 1 separately, each rounded once in its own format. Row 7, dot products and FRND (R223, R224): HDOT and MDOT4 take the block sum of R174 over the exact products; IDOT4.S and IDOT8.S
clamp and return SATURATED in LSTS when some participant's sum was clamped, OK otherwise; FRND rounds by its mode. -/
def Obligations.PackedAndDotResults : Prop :=
  (∀ w : WordA,
  RegisterResult (.haddBf w) (fieldsA 0x70 w) 4 (fun _ => 4) (fun g t => (BitVec.ofNat 16 (bf16.encode ((bf16.decode ((g.reg w.a t).extractLsb' 16 16).toNat).add (bf16.decode ((g.reg w.b t).extractLsb' 16 16).toNat))) ++ BitVec.ofNat 16 (bf16.encode ((bf16.decode ((g.reg w.a t).extractLsb' 0 16).toNat).add (bf16.decode ((g.reg w.b t).extractLsb' 0 16).toNat))) : Word)) ∧
  RegisterResult (.hmulBf w) (fieldsA 0x71 w) 4 (fun _ => 4) (fun g t => (BitVec.ofNat 16 (bf16.encode ((bf16.decode ((g.reg w.a t).extractLsb' 16 16).toNat).mul (bf16.decode ((g.reg w.b t).extractLsb' 16 16).toNat))) ++ BitVec.ofNat 16 (bf16.encode ((bf16.decode ((g.reg w.a t).extractLsb' 0 16).toNat).mul (bf16.decode ((g.reg w.b t).extractLsb' 0 16).toNat))) : Word)) ∧
  RegisterResult (.hfmaBf w) (fieldsA 0x72 w) 4 (fun _ => 4) (fun g t => (BitVec.ofNat 16 (bf16.encode (((bf16.decode ((g.reg w.a t).extractLsb' 16 16).toNat).mul (bf16.decode ((g.reg w.b t).extractLsb' 16 16).toNat)).add (bf16.decode ((g.reg w.d t).extractLsb' 16 16).toNat))) ++ BitVec.ofNat 16 (bf16.encode (((bf16.decode ((g.reg w.a t).extractLsb' 0 16).toNat).mul (bf16.decode ((g.reg w.b t).extractLsb' 0 16).toNat)).add (bf16.decode ((g.reg w.d t).extractLsb' 0 16).toNat))) : Word)) ∧
  RegisterResult (.haddHf w) (fieldsA 0x73 w) 4 (fun _ => 5) (fun g t => (BitVec.ofNat 16 (hf16.encode ((hf16.decode ((g.reg w.a t).extractLsb' 16 16).toNat).add (hf16.decode ((g.reg w.b t).extractLsb' 16 16).toNat))) ++ BitVec.ofNat 16 (hf16.encode ((hf16.decode ((g.reg w.a t).extractLsb' 0 16).toNat).add (hf16.decode ((g.reg w.b t).extractLsb' 0 16).toNat))) : Word)) ∧
  RegisterResult (.hmulHf w) (fieldsA 0x74 w) 4 (fun _ => 5) (fun g t => (BitVec.ofNat 16 (hf16.encode ((hf16.decode ((g.reg w.a t).extractLsb' 16 16).toNat).mul (hf16.decode ((g.reg w.b t).extractLsb' 16 16).toNat))) ++ BitVec.ofNat 16 (hf16.encode ((hf16.decode ((g.reg w.a t).extractLsb' 0 16).toNat).mul (hf16.decode ((g.reg w.b t).extractLsb' 0 16).toNat))) : Word)) ∧
  RegisterResult (.hfmaHf w) (fieldsA 0x75 w) 4 (fun _ => 5) (fun g t => (BitVec.ofNat 16 (hf16.encode (((hf16.decode ((g.reg w.a t).extractLsb' 16 16).toNat).mul (hf16.decode ((g.reg w.b t).extractLsb' 16 16).toNat)).add (hf16.decode ((g.reg w.d t).extractLsb' 16 16).toNat))) ++ BitVec.ofNat 16 (hf16.encode (((hf16.decode ((g.reg w.a t).extractLsb' 0 16).toNat).mul (hf16.decode ((g.reg w.b t).extractLsb' 0 16).toNat)).add (hf16.decode ((g.reg w.d t).extractLsb' 0 16).toNat))) : Word)) ∧
  RegisterResult (.hminBf w) (fieldsA 0x76 w) 4 (fun _ => 4) (fun g t => (BitVec.ofNat 16 (bf16.encode ((bf16.decode ((g.reg w.a t).extractLsb' 16 16).toNat).min164 (bf16.decode ((g.reg w.b t).extractLsb' 16 16).toNat))) ++ BitVec.ofNat 16 (bf16.encode ((bf16.decode ((g.reg w.a t).extractLsb' 0 16).toNat).min164 (bf16.decode ((g.reg w.b t).extractLsb' 0 16).toNat))) : Word)) ∧
  RegisterResult (.hmaxBf w) (fieldsA 0x77 w) 4 (fun _ => 4) (fun g t => (BitVec.ofNat 16 (bf16.encode ((bf16.decode ((g.reg w.a t).extractLsb' 16 16).toNat).max164 (bf16.decode ((g.reg w.b t).extractLsb' 16 16).toNat))) ++ BitVec.ofNat 16 (bf16.encode ((bf16.decode ((g.reg w.a t).extractLsb' 0 16).toNat).max164 (bf16.decode ((g.reg w.b t).extractLsb' 0 16).toNat))) : Word)) ∧
  RegisterResult (.hminHf w) (fieldsA 0x78 w) 4 (fun _ => 5) (fun g t => (BitVec.ofNat 16 (hf16.encode ((hf16.decode ((g.reg w.a t).extractLsb' 16 16).toNat).min164 (hf16.decode ((g.reg w.b t).extractLsb' 16 16).toNat))) ++ BitVec.ofNat 16 (hf16.encode ((hf16.decode ((g.reg w.a t).extractLsb' 0 16).toNat).min164 (hf16.decode ((g.reg w.b t).extractLsb' 0 16).toNat))) : Word)) ∧
  RegisterResult (.hmaxHf w) (fieldsA 0x79 w) 4 (fun _ => 5) (fun g t => (BitVec.ofNat 16 (hf16.encode ((hf16.decode ((g.reg w.a t).extractLsb' 16 16).toNat).max164 (hf16.decode ((g.reg w.b t).extractLsb' 16 16).toNat))) ++ BitVec.ofNat 16 (hf16.encode ((hf16.decode ((g.reg w.a t).extractLsb' 0 16).toNat).max164 (hf16.decode ((g.reg w.b t).extractLsb' 0 16).toNat))) : Word))) ∧
  (∀ w : WordA,
  RegisterResult (.hdotBf w) (fieldsA 0x7A w) 4 (fun _ => 3) (fun g t => BitVec.ofNat 32 (blockUpdate 47 (g.reg w.d t).toNat
    [(bf16.decode (elemOf 16 (g.reg w.a t) 0)).mul (bf16.decode (elemOf 16 (g.reg w.b t) 0)),
     (bf16.decode (elemOf 16 (g.reg w.a t) 1)).mul (bf16.decode (elemOf 16 (g.reg w.b t) 1))] 0 false)) ∧
  RegisterResult (.hdotHf w) (fieldsA 0x7B w) 4 (fun _ => 3) (fun g t => BitVec.ofNat 32 (blockUpdate 47 (g.reg w.d t).toNat
    [(hf16.decode (elemOf 16 (g.reg w.a t) 0)).mul (hf16.decode (elemOf 16 (g.reg w.b t) 0)),
     (hf16.decode (elemOf 16 (g.reg w.a t) 1)).mul (hf16.decode (elemOf 16 (g.reg w.b t) 1))] 0 false)) ∧
  RegisterResult (.mdot4 w) (fieldsA 0x7C w) 4 (fun _ => 3) (fun g t => BitVec.ofNat 32 (blockUpdate 38 (g.reg w.d t).toNat
    ([0, 1, 2, 3].map (fun i => (m8Val (elemOf 8 (g.reg w.a t) i)).mul (m8Val (elemOf 8 (g.reg w.b t) i)))) 0 false)) ∧
  RegisterResult (.frnd w) (fieldsA 0x7F w) 4 (fun _ => 3) (fun g t => BitVec.ofNat 32 (frnd w.b.toNat (g.reg w.a t))) ∧
  DotClamps (.idot4S w) (fieldsA 0x7D w) w 4 8 ∧
  DotClamps (.idot8S w) (fieldsA 0x7E w) w 8 4)

/-- Row 8 (R225, R226): the conversions, the inserts into one element, and GETFMT. SETFMT (R226): with a participant D's tag becomes the code and D's bits stay; with none nothing changes. -/
def Obligations.ConversionResults : Prop :=
  (∀ w : WordA,
  RegisterResult (.cvtF32S32 w) (fieldsA 0x80 w) 4 (fun _ => 3) (fun g t => BitVec.ofNat 32 (f32.encode (.fin (decide ((g.reg w.a t).toInt < 0)) (g.reg w.a t).toInt.natAbs 0))) ∧
  RegisterResult (.cvtS32F32 w) (fieldsA 0x81 w) 4 (fun _ => 1) (fun g t => cvtS32 (g.reg w.a t)) ∧
  RegisterResult (.cvtF32N32 w) (fieldsA 0x82 w) 4 (fun _ => 3) (fun g t => BitVec.ofNat 32 (f32.encode (.fin false (g.reg w.a t).toNat 0))) ∧
  RegisterResult (.cvtN32F32 w) (fieldsA 0x83 w) 4 (fun _ => 2) (fun g t => cvtN32 (g.reg w.a t)) ∧
  RegisterResult (.cvtBfF32 w) (fieldsA 0x84 w) 4 (fun _ => 4) (fun g t => (BitVec.ofNat 16 (bf16.encode (f32.decode (g.reg w.b t).toNat)) ++ BitVec.ofNat 16 (bf16.encode (f32.decode (g.reg w.a t).toNat)) : Word)) ∧
  RegisterResult (.cvtF32Bf w) (fieldsA 0x85 w) 4 (fun _ => 3) (fun g t => BitVec.ofNat 32 (f32.encode (bf16.decode ((g.reg w.a t).extractLsb' (16 * w.b.toNat) 16).toNat))) ∧
  RegisterResult (.cvtHfF32 w) (fieldsA 0x86 w) 4 (fun _ => 5) (fun g t => (BitVec.ofNat 16 (hf16.encode (f32.decode (g.reg w.b t).toNat)) ++ BitVec.ofNat 16 (hf16.encode (f32.decode (g.reg w.a t).toNat)) : Word)) ∧
  RegisterResult (.cvtF32Hf w) (fieldsA 0x87 w) 4 (fun _ => 3) (fun g t => BitVec.ofNat 32 (f32.encode (hf16.decode ((g.reg w.a t).extractLsb' (16 * w.b.toNat) 16).toNat))) ∧
  RegisterResult (.cvtM8F32 w) (fieldsA 0x88 w) 4 (fun _ => 6) (fun g t => setElem 8 (g.reg w.d t) w.b.toNat (toM8 (f32.decode (g.reg w.a t).toNat))) ∧
  RegisterResult (.cvtF32M8 w) (fieldsA 0x89 w) 4 (fun _ => 3) (fun g t => BitVec.ofNat 32 (f32.encode (m8Val ((g.reg w.a t).extractLsb' (8 * w.b.toNat) 8).toNat))) ∧
  RegisterResult (.cvtM4F32 w) (fieldsA 0x8A w) 4 (fun _ => 7) (fun g t => setElem 4 (g.reg w.d t) w.b.toNat (toM4 (f32.decode (g.reg w.a t).toNat))) ∧
  RegisterResult (.cvtF32M4 w) (fieldsA 0x8B w) 4 (fun _ => 3) (fun g t => BitVec.ofNat 32 (f32.encode (m4Val ((g.reg w.a t).extractLsb' (4 * w.b.toNat) 4).toNat))) ∧
  RegisterResult (.cvtI8S32 w) (fieldsA 0x8C w) 4 (fun _ => 8) (fun g t => setElem 8 (g.reg w.d t) w.b.toNat (BitVec.ofInt 8 (max (-128) (min 127 (g.reg w.a t).toInt))).toNat) ∧
  RegisterResult (.cvtI4S32 w) (fieldsA 0x8D w) 4 (fun _ => 9) (fun g t => setElem 4 (g.reg w.d t) w.b.toNat (BitVec.ofInt 4 (max (-8) (min 7 (g.reg w.a t).toInt))).toNat) ∧
  RegisterResult (.getfmt w) (fieldsA 0x8F w) 4 (fun _ => 2) (fun g _ => (g.tagOf w.a).setWidth 32)) ∧
  (∀ w : WordI, ∀ s slot g, Issues s slot g (fieldsI 0x8E w) →
  ∃ t g', exec (.setfmt w) s = .next t ∧ Stepped s t slot (fieldsI 0x8E w) g g' ∧ OnlyRegs g g' 4 ∧
    g'.v = g.v ∧ g'.k = g.k ∧ g'.preds = g.preds ∧
    ∀ r, g'.tagV r = if r = w.d.toNat ∧ g.participants w.g ≠ [] then w.imm.setWidth 4 else g.tagV r)

/-- The sixteen compact forms (R188): two bytes long, unguarded, D the first source and destination and SB the second source; MOV copies SB. -/
def Obligations.CompactResults : Prop := ∀ w : WordH,
  RegisterResult (.movCompact w) (fieldsHMov w) 2 (fun g => g.tagOf (w.sb.setWidth 6)) (fun g t => g.reg (w.sb.setWidth 6) t) ∧
  RegisterResult (.iaddCompact w) (fieldsH 0x10 w) 2 (fun g => mixedTag g [w.d.setWidth 6, w.sb.setWidth 6]) (fun g t => g.reg (w.d.setWidth 6) t + g.reg (w.sb.setWidth 6) t) ∧
  RegisterResult (.isubCompact w) (fieldsH 0x11 w) 2 (fun g => mixedTag g [w.d.setWidth 6, w.sb.setWidth 6]) (fun g t => g.reg (w.d.setWidth 6) t - g.reg (w.sb.setWidth 6) t) ∧
  RegisterResult (.imulCompact w) (fieldsH 0x12 w) 2 (fun g => mixedTag g [w.d.setWidth 6, w.sb.setWidth 6]) (fun g t => g.reg (w.d.setWidth 6) t * g.reg (w.sb.setWidth 6) t) ∧
  RegisterResult (.andCompact w) (fieldsH 0x30 w) 2 (fun _ => 0) (fun g t => g.reg (w.d.setWidth 6) t &&& g.reg (w.sb.setWidth 6) t) ∧
  RegisterResult (.orCompact w) (fieldsH 0x31 w) 2 (fun _ => 0) (fun g t => g.reg (w.d.setWidth 6) t ||| g.reg (w.sb.setWidth 6) t) ∧
  RegisterResult (.xorCompact w) (fieldsH 0x32 w) 2 (fun _ => 0) (fun g t => g.reg (w.d.setWidth 6) t ^^^ g.reg (w.sb.setWidth 6) t) ∧
  RegisterResult (.shlCompact w) (fieldsH 0x35 w) 2 (fun _ => 0) (fun g t => g.reg (w.d.setWidth 6) t <<< (g.reg (w.sb.setWidth 6) t &&& 31)) ∧
  RegisterResult (.shrlCompact w) (fieldsH 0x36 w) 2 (fun _ => 0) (fun g t => g.reg (w.d.setWidth 6) t >>> (g.reg (w.sb.setWidth 6) t &&& 31)) ∧
  RegisterResult (.shraCompact w) (fieldsH 0x37 w) 2 (fun _ => 0) (fun g t => (g.reg (w.d.setWidth 6) t).sshiftRight (g.reg (w.sb.setWidth 6) t &&& 31).toNat) ∧
  RegisterResult (.iminSCompact w) (fieldsH 0x18 w) 2 (fun _ => 1) (fun g t => BitVec.ofInt 32 (min (g.reg (w.d.setWidth 6) t).toInt (g.reg (w.sb.setWidth 6) t).toInt)) ∧
  RegisterResult (.imaxSCompact w) (fieldsH 0x1A w) 2 (fun _ => 1) (fun g t => BitVec.ofInt 32 (max (g.reg (w.d.setWidth 6) t).toInt (g.reg (w.sb.setWidth 6) t).toInt)) ∧
  RegisterResult (.faddCompact w) (fieldsH 0x60 w) 2 (fun _ => 3) (fun g t => BitVec.ofNat 32 (f32.encode ((f32.decode (g.reg (w.d.setWidth 6) t).toNat).add (f32.decode (g.reg (w.sb.setWidth 6) t).toNat)))) ∧
  RegisterResult (.fsubCompact w) (fieldsH 0x61 w) 2 (fun _ => 3) (fun g t => BitVec.ofNat 32 (f32.encode ((f32.decode (g.reg (w.d.setWidth 6) t).toNat).add (f32.decode (g.reg (w.sb.setWidth 6) t).toNat).neg))) ∧
  RegisterResult (.fmulCompact w) (fieldsH 0x62 w) 2 (fun _ => 3) (fun g t => BitVec.ofNat 32 (f32.encode ((f32.decode (g.reg (w.d.setWidth 6) t).toNat).mul (f32.decode (g.reg (w.sb.setWidth 6) t).toNat)))) ∧
  RegisterResult (.fmaxCompact w) (fieldsH 0x65 w) 2 (fun _ => 3) (fun g t => BitVec.ofNat 32 (f32.encode ((f32.decode (g.reg (w.d.setWidth 6) t).toNat).max164 (f32.decode (g.reg (w.sb.setWidth 6) t).toNat))))

/-- Row 0, control transfers (R200): NOP changes nothing; BRA is taken when its guard holds in every active thread and BRANY when it
holds in some; both count their offset in halfwords from their own address, CALL too, which leaves the offset of the next
word from ENTRY in k15; BRX and RET go to ENTRY plus A, and raise ALIGN with that address when it is odd. -/
def Obligations.ControlTransfers : Prop :=
  let near (g : Group) (w : WordJ) : Va := g.pc + (2 * w.off.signExtend 56)
  (∀ w, GroupResult (.nop w) (fieldsA 0x00 w) (fun _ => True) (fun g => { g with pc := g.pc + 4 })) ∧
  (∀ w, GroupResult (.bra w) (fieldsJ 0x01 w) (fun _ => True)
    (fun g => { g with pc := if ∀ t ∈ g.active, g.guard w.g t = true then near g w else g.pc + 4 })) ∧
  (∀ w, GroupResult (.brany w) (fieldsJ 0x02 w) (fun _ => True)
    (fun g => { g with pc := if ∃ t ∈ g.active, g.guard w.g t = true then near g w else g.pc + 4 })) ∧
  (∀ w, GroupResult (.call w) (fieldsJ 0x04 w) (fun _ => True)
    (fun g => { g with pc := near g w, k := g.k.set 15 ((g.pc + 4 - g.id.entry).setWidth 32) })) ∧
  (∀ w, GroupResult (.brx w) (fieldsA 0x03 w) (fun g => (g.id.entry + (g.reg w.a 0).setWidth 56).getLsbD 0 = false)
    (fun g => { g with pc := g.id.entry + (g.reg w.a 0).setWidth 56 })) ∧
  (∀ w, GroupResult (.ret w) (fieldsA 0x05 w) (fun g => (g.id.entry + (g.reg w.a 0).setWidth 56).getLsbD 0 = false)
    (fun g => { g with pc := g.id.entry + (g.reg w.a 0).setWidth 56 })) ∧
  (∀ w s slot g, Issues s slot g (fieldsA 0x03 w) → g.id.sup = false → (g.id.entry + (g.reg w.a 0).setWidth 56).getLsbD 0 = true →
    Faults (.brx w) s slot g .align (g.id.entry + (g.reg w.a 0).setWidth 56)) ∧
  (∀ w s slot g, Issues s slot g (fieldsA 0x05 w) → g.id.sup = false → (g.id.entry + (g.reg w.a 0).setWidth 56).getLsbD 0 = true →
    Faults (.ret w) s slot g .align (g.id.entry + (g.reg w.a 0).setWidth 56))

/-- Row 0, the mask stack (R20, R201): PUSHM stacks the active mask and keeps the threads whose predicate holds, FLIPM takes the other
threads of the mask on top, POPM returns to that mask, BREAKM drops the threads whose predicate holds. The seventeenth PUSHM,
and FLIPM and POPM at depth 0, raise ILLEGAL. That the guard field of these words changes nothing is the model's choice (log 96: R185
leaves it legal and the steps of R201 do not read it). -/
def Obligations.MaskStack : Prop :=
  let top (g : Group) : Mask := g.stack.getD (g.depth - 1) 0
  (∀ w : WordC, ∀ s slot g, Issues s slot g (fieldsC 0x06 w) → g.depth ≠ 16 → ∃ t g' m, exec (.pushm w) s = .next t ∧
    Stepped s t slot (fieldsC 0x06 w) g g' ∧
    (∀ j, j < 32 → m.getLsbD j = (g.amask.getLsbD j && (g.pred w.p.toNat j != (w.cc == 1)))) ∧
    g'.rest = ({ g with pc := g.pc + 4, stack := g.stack.set g.depth g.amask, depth := g.depth + 1, amask := m } : Group).rest) ∧
  (∀ w : WordC, ∀ s slot g, Issues s slot g (fieldsC 0x09 w) → ∃ t g' m, exec (.breakm w) s = .next t ∧
    Stepped s t slot (fieldsC 0x09 w) g g' ∧
    (∀ j, j < 32 → m.getLsbD j = (g.amask.getLsbD j && (g.pred w.p.toNat j == (w.cc == 1)))) ∧
    g'.rest = ({ g with pc := g.pc + 4, amask := m } : Group).rest) ∧
  (∀ w, GroupResult (.flipm w) (fieldsA 0x07 w) (fun g => g.depth ≠ 0)
    (fun g => { g with pc := g.pc + 4, amask := top g &&& ~~~g.amask })) ∧
  (∀ w, GroupResult (.popm w) (fieldsA 0x08 w) (fun g => g.depth ≠ 0)
    (fun g => { g with pc := g.pc + 4, depth := g.depth - 1, amask := top g })) ∧
  (∀ w s slot g, Issues s slot g (fieldsC 0x06 w) → g.id.sup = false → g.depth = 16 → Faults (.pushm w) s slot g .illegal 0) ∧
  (∀ w s slot g, Issues s slot g (fieldsA 0x07 w) → g.id.sup = false → g.depth = 0 → Faults (.flipm w) s slot g .illegal 0) ∧
  (∀ w s slot g, Issues s slot g (fieldsA 0x08 w) → g.id.sup = false → g.depth = 0 → Faults (.popm w) s slot g .illegal 0)

/-- SAFEPT and YIELD (R42, R43, R45, R203, R348): a safe point without a pending pre-emption, or in a critical group, only passes; with
one, a group without a pending result in its live state leaves its slot PREEMPTED and is kept with the next word's address, its
registers and its slot. YIELD sets the group's YMARK. -/
def Obligations.SafePoints : Prop :=
  (∀ w, GroupResult (.safept w) (fieldsJ 0x0A w)
    (fun g => g.preempt = none ∨ g.id.sup = true ∨ g.id.harvest = true ∨ (g.crit = true ∧ g.callow ≠ 0))
    (fun g => { g with pc := g.pc + 4 })) ∧
  (∀ w : WordJ, ∀ s slot g, Issues s slot g (fieldsJ 0x0A w) → g.preempt ≠ none → g.id.sup = false → g.id.harvest = false →
    ¬ (g.crit = true ∧ g.callow ≠ 0) → g.sb = 0 → ∃ t g', exec (.safept w) s = .next t ∧ t.mach.group? s.curCore slot = none ∧
      (t.mach.core s.curCore).saved.get? g.uid = some g' ∧ g'.state = .preempted ∧ g'.atSafe = false ∧
      g'.rest = ({ g with pc := g.pc + 4, live := w.off.setWidth 16, home := slot, atSafe := false } : Group).rest) ∧
  (∀ w, GroupResult (.yield w) (fieldsA 0x0C w) (fun _ => True)
    (fun g => { g with pc := g.pc + 4, arb := { g.arb with ymark := true } }))

/-- EXIT (R21, R204): with no participant nothing happens; the participants leave the active mask and every stacked mask; when they
are the last threads the group goes to ENDING and its hub hears of it, unless a holding of it other than a write claim would
have no heir, which raises HEIRLESS. -/
def Obligations.ExitEnds : Prop := ∀ w : WordA, ∀ s slot g, Issues s slot g (fieldsA 0x0B w) →
  let ps := g.participants w.g
  (ps = [] → ∃ t g', exec (.exit w) s = .next t ∧ Stepped s t slot (fieldsA 0x0B w) g g' ∧
    g'.rest = ({ g with pc := g.pc + 4 } : Group).rest) ∧
  (ps ≠ [] → (∃ j, j < 32 ∧ g.exited.getLsbD j = false ∧ j ∉ ps) → ∃ t g', exec (.exit w) s = .next t ∧
    Stepped s t slot (fieldsA 0x0B w) g g' ∧
    (∀ j, j < 32 → g'.exited.getLsbD j = (g.exited.getLsbD j || decide (j ∈ ps))) ∧
    (∀ j, j < 32 → g'.amask.getLsbD j = (g.amask.getLsbD j && decide (j ∉ ps))) ∧
    (∀ d j, j < 32 → (g'.stack.getD d 0).getLsbD j = ((g.stack.getD d 0).getLsbD j && decide (j ∉ ps))) ∧
    g'.rest = ({ g with pc := g.pc + 4, exited := g'.exited, amask := g'.amask, stack := g'.stack } : Group).rest) ∧
  (ps ≠ [] → (∀ j, j < 32 → g.exited.getLsbD j = true ∨ j ∈ ps) → (s.issued slot g (fieldsA 0x0B w) 4).heirless s.curCore g = false →
    ∃ t g' x, exec (.exit w) s = .next t ∧ SameHost s t ∧ SameMemory s.mach t.mach ∧ t.mach.group? s.curCore slot = some g' ∧
      g'.state = .ending ∧ g'.ending = some { killed := false, released := false } ∧
      t.mach.msgs = s.mach.msgs ++ [x] ∧ x.body = .groupEnd g.id.gindex false [] ∧ x.uid = g.uid) ∧
  (ps ≠ [] → (∀ j, j < 32 → g.exited.getLsbD j = true ∨ j ∈ ps) → g.id.sup = false →
    (s.issued slot g (fieldsA 0x0B w) 4).heirless s.curCore g = true → Faults (.exit w) s slot g .heirless 0)

/-- TRAP (R205): with a participant the group stops with FCODE TRAP at the word; with none it goes on. SYSCALL (R206, R120): with a participant the group is STOPPED with CAUSE 2 at the next word, and a record of KIND 0 holds the code,
the word's own address, the active mask, k0 to k3 and the range of v registers handed over; with none it goes on. That SYSCALL holds the program counter at the next word is the model's
choice (log 42), and so is that its stop leaves FCODE without a code (log 84). -/
def Obligations.TrapAndSyscallStops : Prop :=
  (∀ w : WordI, ∀ s slot g, Issues s slot g (fieldsI 0x0D w) →
  (g.participants w.g ≠ [] → g.id.sup = false → Faults (.trap w) s slot g .trap 0) ∧
  (g.participants w.g = [] → ∃ t g', exec (.trap w) s = .next t ∧ Stepped s t slot (fieldsI 0x0D w) g g' ∧
    g'.rest = ({ g with pc := g.pc + 4 } : Group).rest)) ∧
  (∀ w : WordI, ∀ s slot g, Issues s slot g (fieldsI 0x0E w) →
  (g.participants w.g ≠ [] → ∃ t g', exec (.syscall w) s = .next t ∧
    StopsAs s t slot g' .syscall none {
      kw := [g.readK 0, g.readK 1, g.readK 2, g.readK 3], pc := g.pc, addr := 0, amask := g.amask, code := w.imm.toNat % 256,
      seq := 0, slot, ctx := g.id.ctx, vfirst := w.d.toNat, vcount := w.imm.toNat / 256, kind := 0, taken := false } ∧
    g'.rest = ({ g with pc := g.pc + 4 } : Group).rest) ∧
  (g.participants w.g = [] → ∃ t g', exec (.syscall w) s = .next t ∧ Stepped s t slot (fieldsI 0x0E w) g g' ∧
    g'.rest = ({ g with pc := g.pc + 4 } : Group).rest))

/-- ERET (R207, R308, R362): the supervisor group resumes the group of the slot in A when it is STOPPED by other than a SYSCALL: READY
with a fresh run, at the word that stopped it (mode 0) or at the next one (mode 1), its mailbox entry free; D and LSTS read OK.
Any other slot, cause or mode answers MISMATCH and resumes nothing. -/
def Obligations.EretResumes : Prop := ∀ w : WordA, ∀ s slot g, Issues s slot g (fieldsA 0x0F w) →
  let n := (g.reg w.a 0).toNat % 2048
  let mode := g.reg w.b 0
  let answered (g' : Group) (st : Status) : Prop :=
    g'.lsts = st ∧ g'.k = (if isK w.d then g.k.set (w.d.toNat - 48) st.word else g.k) ∧
    g'.rest = ({ g with pc := g.pc + 4, lsts := st, k := g'.k } : Group).rest
  (∀ x, n ≠ slot → s.mach.group? s.curCore n = some x → x.state = .stopped → x.cause ≠ .syscall → x.freeze = none → x.stopMark = false →
    x.inReserve = false → x.parking = false → x.atSafe = false → x.recovers = false → x.xlatFailed = none → x.owed = none → (s.mach.core s.curCore).stopList = [] →
    ∀ pc, (mode = 0 ∧ pc = x.pc ∨ mode = 1 ∧
      ∃ len, (s.issued slot g (fieldsA 0x0F w) 4).formLength s.curCore x = some len ∧ pc = x.pc + BitVec.ofNat 56 len) →
    ∃ t g' x', exec (.eret w) s = .next t ∧ SameHost s t ∧ SameMemory s.mach t.mach ∧
      t.mach.group? s.curCore slot = some g' ∧ t.mach.group? s.curCore n = some x' ∧ answered g' .ok ∧
      x' = { x with pc, state := .ready, cause := .none, runCount := 0, sb := x.sb &&& ~~~x.freezeBits, freezeBits := 0 } ∧
      ∀ e ∈ (t.mach.core s.curCore).mbox, e.2.slot ≠ n) ∧
  ((∀ x, s.mach.group? s.curCore n = some x → n ≠ slot → x.state ≠ .stopped ∨ x.cause = .syscall ∨ 1 < mode.toNat) →
    ∃ t g', exec (.eret w) s = .next t ∧ Stepped s t slot (fieldsA 0x0F w) g g' ∧ answered g' .mismatch)

/-- LDK (R210): the little-endian word at CPOOL + 4 * IMM12, as the group's translation reads it, arrives in D of each acting thread, RAW; D is
pending until then. The loads (R237): the n bytes at OFF + O + S * n of each participant's way arrive in D, sign- or zero-extended, or as the words of a pair
or quad, low word first. The stores (R238): byte x of D, of the pair or of the quad goes to position OFF + O + S * n + x of each participant's way, in ascending order
of threads. -/
def Obligations.LoadAndStoreResults : Prop :=
  (∀ w : WordI, ∀ s slot g m bs, Issues s slot g (fieldsI 0x2A w) → g.actors (fieldsI 0x2A w) ≠ [] →
  (s.issued slot g (fieldsI 0x2A w) 4).readVa s.curCore g (g.id.cpool + BitVec.ofNat 56 (4 * w.imm.toNat)) 4 none = .ok (m, bs) →
  ∃ t g' ws, exec (.ldk w) s = .next t ∧ Sends s t slot g g' [.result ws (regItems w.d 1) false] ∧
    g'.rest = ({ g with pc := g.pc + 4, sb := g.sb ||| regItems w.d 1 } : Group).rest ∧
    HoldsWide g (applyWrites g ws) w.d 1 (g.actors (fieldsI 0x2A w)) 0 (fun _ _ => BitVec.ofNat 32 (leNat bs))) ∧
  (∀ w : WordM,
  Loads (.ldB8s w) w 0x94 1 1 (fun bs _ => (BitVec.ofNat 8 (leNat bs)).signExtend 32) ∧
  Loads (.ldB8n w) w 0x95 1 1 (fun bs _ => BitVec.ofNat 32 (leNat bs)) ∧
  Loads (.ldH16s w) w 0x96 2 1 (fun bs _ => (BitVec.ofNat 16 (leNat bs)).signExtend 32) ∧
  Loads (.ldH16n w) w 0x97 2 1 (fun bs _ => BitVec.ofNat 32 (leNat bs)) ∧
  Loads (.ldW32 w) w 0x98 4 1 (fun bs _ => BitVec.ofNat 32 (leNat bs)) ∧
  Loads (.ldW64 w) w 0x99 8 2 (fun bs j => BitVec.ofNat 32 (leNat bs / 2 ^ (32 * j))) ∧
  Loads (.ldW128 w) w 0x9A 16 4 (fun bs j => BitVec.ofNat 32 (leNat bs / 2 ^ (32 * j)))) ∧
  (∀ w : WordM,
  let one := fun (g : Group) t x => (g.reg w.d t).extractLsb' (8 * x) 8
  let wide := fun (g : Group) t x => (g.regAt w.d (x / 4) t).extractLsb' (8 * (x % 4)) 8
  Stores (.stB8 w) w 0x9B 1 one ∧ Stores (.stH16 w) w 0x9C 2 one ∧ Stores (.stW32 w) w 0x9D 4 one ∧
  Stores (.stW64 w) w 0x9E 8 wide ∧ Stores (.stW128 w) w 0x9F 16 wide)

/-- The dictionary form (R142, R189, R192): the word it names in its group's dictionary issues at the form's address with the form's
length, its own B and its guard override: the same effect runs as for the word itself. IADD as an instance: D takes A + B and the
program counter moves by 2. An index at or beyond DSIZE raises ILLEGAL. (A word of the dictionary with two errors is consumed, R369.) -/
def Obligations.DictionaryForms : Prop := ∀ w : WordD, ∀ s slot g, s.issuer = some (slot, g) →
  (∀ x, dictBad (s.mach.core s.curCore) g.id w = false → dictWord (s.mach.core s.curCore) g.id w = some x →
    ∃ b, exec (.dictionaryForm w) s = issue 2 (fieldsOfWord x) b s ∧ ∀ s', exec (decodeWord x) s' = issue 4 (fieldsOfWord x) b s') ∧
  (∀ d y, w.idx.toNat < g.id.dsize → (s.mach.core s.curCore).dict g.id = some d → d.words[w.idx.toNat]? = some y →
    ∃ x, dictWord (s.mach.core s.curCore) g.id w = some x ∧ (fieldsOfWord x).e = w.e ∧ opOf x = opOf y ∧
      (fieldsOfWord x).g = (if w.go = 0 then (fieldsOfWord y).g else w.go) ∧
      (fieldsOfWord x).fa = (fieldsOfWord y).fa ∧ (fieldsOfWord x).fb = (fieldsOfWord y).fb ∧ (fieldsOfWord x).fd = (fieldsOfWord y).fd) ∧
  (∀ x v, dictBad (s.mach.core s.curCore) g.id w = false → dictWord (s.mach.core s.curCore) g.id w = some x → decodeWord x = .iadd v → Issues s slot g (fieldsOfWord x) →
    ∃ t g', exec (.dictionaryForm w) s = .next t ∧ Stepped s t slot (fieldsOfWord x) g g' ∧ OnlyRegs g g' 2 ∧
      Holds g g' v.d (g.actors (fieldsOfWord x)) (mixedTag g [v.a, v.b]) (fun h j => h.reg v.a j + h.reg v.b j)) ∧
  (g.id.dsize ≤ w.idx.toNat → g.id.sup = false → g.runCount < 24 → Faults (.dictionaryForm w) s slot g .illegal 0)

/-- OPEN and OPEN.W (R62, R63, R232, R233, R234): the participants' lines, each once and rising, at most four, bind to register l; each
participant of a kept line gets its way and its byte offset, P says which they are, and LSTS is OK or PARTIAL by the last. Stated for
lines outside the windows that translate with the permissions, fit the pool, are not in the line store yet, and that no group
has claimed, and for an open that no other of a higher slot has come before in this cycle (R427, log 103): their data are fetched, and until then l is pending; an OPEN.W holds a claim on each. -/
def Obligations.LineOpens : Prop := ∀ (w : WordO) (write : Bool) s slot g,
  let f := fieldsO (if write then 0x91 else 0x90) w
  let ps := g.participants w.g
  let sp := g.span w.sp.toNat
  let c := s.mach.core s.curCore
  let aim := fun t => sp.ptr + (g.reg w.b t).setWidth 56
  let ln := fun t => aim t - BitVec.ofNat 56 ((aim t).toNat % 128)
  ∀ kept m ls, Issues s slot g f → ps ≠ [] → (g.line w.l.toNat).state = .closed →
    (∀ t ∈ ps, sp.valid = true ∧ sp.base.toNat ≤ (ln t).toNat ∧ (ln t).toNat + 128 ≤ sp.limit.toNat ∧ sp.perm.getLsbD 0 = true ∧
      (write = true → sp.perm.getLsbD 1 = true) ∧ (ln t).toNat < Config.peerWindow) →
    kept.Pairwise (fun x y : Va => x.toNat < y.toNat) → kept.length = min 4 (ps.map ln).dedup.length → (∀ x ∈ kept, x ∈ ps.map ln) →
    (∀ t ∈ ps, ln t ∉ kept → ∀ x ∈ kept, x.toNat < (ln t).toNat) →
    (s.issued slot g f 4).locate s.curCore g (if write then 1 else 0) kept = (m, .ok ls) →
    (∀ e ∈ ls, e.2.rd = true ∧ (write = true → e.2.w = true) ∧ c.findFrame e.1 = none ∧ c.claimOf e.1 = none) →
    ((s.issued slot g f 4).core s.curCore).poolFits g.id.harvest (kept.length - 1) = true → 4 ≤ c.estateFree → c.claims.length + 4 ≤ 4096 → c.estate.length + 4 ≤ 4096 →
    ((s.issued slot g f 4).core s.curCore).opensLater slot = false →
    ∃ t g', exec (if write then .openW w else .open_ w) s = .next t ∧ SameHost s t ∧ SameHome s.mach t.mach ∧
      t.mach.group? s.curCore slot = some g' ∧
      let r := g'.line w.l.toNat
      r.state = .open_ ∧ r.w = write ∧ r.tag = sp.tag ∧ r.lines = kept ∧ r.spad = false ∧
      (∀ j, j < 32 → r.bound.getLsbD j = decide (j ∈ ps ∧ ln j ∈ kept)) ∧
      (∀ j ∈ ps, ln j ∈ kept → kept[(r.way.getD j 0).toNat]? = some (ln j) ∧ (r.off.getD j 0).toNat = (aim j).toNat % 128) ∧
      (∀ j ∈ ps, w.p ≠ 0 → g'.pred w.p.toNat j = decide (ln j ∈ kept)) ∧
      (∀ j, ps.getLast? = some j → g'.lsts = if ln j ∈ kept then .ok else .partial_) ∧
      g'.sb.getLsbD (72 + w.l.toNat) = true ∧
      (∃ frame : Nat → Nat, t.mach.msgs.map (·.body) = s.mach.msgs.map (·.body) ++
        ls.mapIdx (fun way e => .fetch w.l.toNat way (frame way) e.1 sp.tag)) ∧
      (write = true → g.id.copyIndex = false → ∀ e ∈ ls, ∃ i cl, (t.mach.core s.curCore).claimOf e.1 = some (i, cl) ∧ cl.uid = g.uid) ∧
      g'.rest = ({ g with pc := g.pc + 4, lines := g'.lines, preds := g'.preds, lsts := g'.lsts, sb := g'.sb, eseq := g'.eseq } : Group).rest

/-- RECALL, RECALL.D and FLUSHL (R64, R86, R235, R236) on an OPEN register: a RECALL or a FLUSHL sends the dirty bytes of each frame way to
their home as one write-back by byte mask; with none dirty a RECALL closes the register at once; RECALL.D sends nothing. While a
write-back is on its way l is pending. On a CLOSED register the RECALLs do nothing, and FLUSHL raises LINECLOSED. -/
def Obligations.LineCloses : Prop := ∀ w : WordO, ∀ s slot g,
  let l := w.l.toNat
  let r := g.line l
  let fs := r.frames.filterMap id
  let c := s.mach.core s.curCore
  let back := fun (close : Bool) f => MsgBody.writeBack (c.frame f).line (c.frame f).va (c.frame f).dirty (c.frame f).poison (c.frame f).data
    (c.frame f).tag (.line l close)
  let moved := fun (t : State) (g' : Group) (bodies : List MsgBody) => SameHost s t ∧ SameHome s.mach t.mach ∧
    t.mach.group? s.curCore slot = some g' ∧ t.mach.msgs.map (·.body) = s.mach.msgs.map (·.body) ++ bodies ∧
    g'.rest = ({ g with pc := g.pc + 4, lines := g'.lines, sb := g'.sb } : Group).rest
  let go := g.participants w.g ≠ [] ∧ g.gated = false ∧ fs.Nodup ∧ s.mach.writingBack g.uid s.curCore l = false ∧ r.state = .open_ ∧
    s.mach.flushFull s.curCore g r = false
  let dirty := fs.filter (fun f => (c.frame f).dirty != 0)
  (Issues s slot g (fieldsO 0x92 w) → go → ∃ t g', exec (.recall w) s = .next t ∧ moved t g' (dirty.map (back true)) ∧
    (dirty = [] → g'.line l = { r with state := .closed, w := false, bound := 0, frames := [], locs := [] } ∧ g'.sb = g.sb) ∧
    (dirty ≠ [] → (g'.line l).state = .open_ ∧ g'.sb.getLsbD (72 + l) = true)) ∧
  (Issues s slot g (fieldsO 0x93 w) → go → ∃ t g', exec (.recallD w) s = .next t ∧ moved t g' [] ∧ g'.sb = g.sb ∧
    g'.line l = { r with state := .closed, w := false, bound := 0, frames := [], locs := [] }) ∧
  (Issues s slot g (fieldsO 0xA7 w) → go → ∃ t g', exec (.flushl w) s = .next t ∧ moved t g' (dirty.map (back false)) ∧ g'.line l = r ∧
    (g'.sb.getLsbD (72 + l) = decide (dirty ≠ []) ∨ g.sb.getLsbD (72 + l) = true)) ∧
  (∀ i f, (i = .recall w ∧ f = fieldsO 0x92 w ∨ i = .recallD w ∧ f = fieldsO 0x93 w) → Issues s slot g f → r.state = .closed →
    ∃ t g', exec i s = .next t ∧ Stepped s t slot f g g' ∧ g'.rest = ({ g with pc := g.pc + 4 } : Group).rest) ∧
  (Issues s slot g (fieldsO 0xA7 w) → r.state = .closed → g.id.sup = false → g.participants w.g ≠ [] → Faults (.flushl w) s slot g .lineclosed 0)

/-- The checks of R65, R237, R238 and R251, for every load, store and atomic: the fault of the lowest participant that fails one is raised, with its
ADDR, and nothing is loaded, stored or sent. That a position is taken without wrap, so that a wrapped one raises LINEBOUND, is the model's choice (log 50). -/
def Obligations.LineAccessFaults : Prop := ∀ w : WordM, ∀ s slot g i op n write,
  (i, op, n, write) ∈ [((.ldB8s w : Instr), 0x94, 1, false), (.ldB8n w, 0x95, 1, false), (.ldH16s w, 0x96, 2, false), (.ldH16n w, 0x97, 2, false),
    (.ldW32 w, 0x98, 4, false), (.ldW64 w, 0x99, 8, false), (.ldW128 w, 0x9A, 16, false), (.stB8 w, 0x9B, 1, true), (.stH16 w, 0x9C, 2, true),
    (.stW32 w, 0x9D, 4, true), (.stW64 w, 0x9E, 8, true), (.stW128 w, 0x9F, 16, true), (.aadd w, 0xB0, 4, true),
    (.aadd64 w, 0xB1, 8, true), (.afadd w, 0xB2, 4, true), (.aminS w, 0xB3, 4, true), (.amaxS w, 0xB4, 4, true), (.aminN w, 0xB5, 4, true),
    (.amaxN w, 0xB6, 4, true), (.aand w, 0xB7, 4, true), (.aor w, 0xB8, 4, true), (.axor w, 0xB9, 4, true), (.axchg w, 0xBA, 4, true),
    (.acas w, 0xBB, 4, true), (.acas64 w, 0xBC, 8, true)] →
  Issues s slot g (fieldsM op w) → g.id.sup = false →
  ∀ t ps qs c a, g.participants w.g = ps ++ t :: qs → (∀ j ∈ ps, lineFault g w n write j = none) → lineFault g w n write t = some (c, a) →
    Faults i s slot g c a

/-- The span words (R59, R228, R239 to R243): SPSET (the supervisor group's alone) builds the span its block spells, SPNARROW intersects bounds and
permissions and keeps PTR and TAG, SPADV moves PTR within the bounds or raises SPAN, SPGET reads a part, SPCHK writes the FCODE that an
access would raise. A block with a nonzero bit that its entry calls zero, or a value it calls ILLEGAL, raises ILLEGAL, in each of SPSET, SPNARROW, SPGET and SPCHK. -/
def Obligations.SpanResults : Prop := ∀ w : WordA,
  let kb := fun (g : Group) i => g.readK (w.a.toNat - 48 + i)
  let ps := fun (g : Group) => g.participants w.g
  let sn := fun (g : Group) => g.span ((kb g 0).toNat % 16)
  let aim := fun (g : Group) => (sn g).ptr + (g.reg w.b 0).signExtend 56
  GroupResult (.spset w) (fieldsA 0xA0 w)
    (fun g => ps g ≠ [] ∧ (kb g 1).toNat < 2 ^ 28 ∧ (kb g 3).toNat < 2 ^ 24 ∧ (kb g 5).toNat < 2 ^ 24 ∧ (kb g 6).toNat < 2 ^ 7 ∧ (kb g 7).toNat < 16)
    (fun g => { g with pc := g.pc + 4, spans := g.spans.set (kb g 7).toNat {
      valid := true, ptr := BitVec.ofNat 56 ((kb g 1).toNat * 2 ^ 32 + (kb g 0).toNat), tag := BitVec.ofNat 4 ((kb g 1).toNat / 2 ^ 24),
      base := BitVec.ofNat 56 ((kb g 3).toNat * 2 ^ 32 + (kb g 2).toNat), limit := BitVec.ofNat 56 ((kb g 5).toNat * 2 ^ 32 + (kb g 4).toNat),
      perm := (kb g 6).setWidth 7 } }) ∧
  GroupResult (.spnarrow w) (fieldsA 0xA1 w)
    (fun g => ps g ≠ [] ∧ (kb g 3).toNat < 2 ^ 31 ∧ (g.span ((kb g 1).toNat / 2 ^ 28)).valid = true)
    (fun g =>
      let src := g.span ((kb g 1).toNat / 2 ^ 28)
      let b := max src.base.toNat ((kb g 1).toNat % 2 ^ 24 * 2 ^ 32 + (kb g 0).toNat)
      let l := min src.limit.toNat ((kb g 3).toNat % 2 ^ 24 * 2 ^ 32 + (kb g 2).toNat)
      { g with pc := g.pc + 4, spans := g.spans.set ((kb g 1).toNat / 2 ^ 24 % 16) { src with
        base := BitVec.ofNat 56 b, limit := BitVec.ofNat 56 (max b l), perm := src.perm &&& (kb g 3).extractLsb' 24 7 } }) ∧
  GroupResult (.spadv w) (fieldsA 0xA2 w)
    (fun g => ps g ≠ [] ∧ (sn g).valid = true ∧ (sn g).base.toNat ≤ (aim g).toNat ∧ (aim g).toNat ≤ (sn g).limit.toNat)
    (fun g => { g with pc := g.pc + 4, spans := g.spans.set ((kb g 0).toNat % 16) { sn g with ptr := aim g } }) ∧
  (∀ s slot g, Issues s slot g (fieldsA 0xA2 w) → g.id.sup = false → ps g ≠ [] →
    ¬ ((sn g).valid = true ∧ (sn g).base.toNat ≤ (aim g).toNat ∧ (aim g).toNat ≤ (sn g).limit.toNat) → Faults (.spadv w) s slot g .span (aim g)) ∧
  (∀ s slot g part, Issues s slot g (fieldsA 0xA3 w) → ps g ≠ [] → part < 7 → (kb g 0).toNat = part * 256 + (kb g 0).toNat % 16 →
    ∃ t g', exec (.spget w) s = .next t ∧ Stepped s t slot (fieldsA 0xA3 w) g g' ∧ OnlyRegs g g' 4 ∧
      Holds g g' w.d (ps g) 2 (fun _ _ => BitVec.ofNat 32 (match part with
        | 0 => (sn g).ptr.toNat
        | 1 => (sn g).tag.toNat * 2 ^ 24 + (sn g).ptr.toNat / 2 ^ 32
        | 2 => (sn g).base.toNat
        | 3 => (sn g).base.toNat / 2 ^ 32
        | 4 => (sn g).limit.toNat
        | 5 => (sn g).limit.toNat / 2 ^ 32
        | _ => (sn g).perm.toNat + if (sn g).valid then 256 else 0))) ∧
  (∀ s slot g perm size, Issues s slot g (fieldsA 0xA4 w) → ps g ≠ [] → perm < 7 → 0 < size → size ≤ 128 →
    (kb g 0).toNat = size * 65536 + perm * 256 + (kb g 0).toNat % 16 →
    ∃ t g', exec (.spchk w) s = .next t ∧ Stepped s t slot (fieldsA 0xA4 w) g g' ∧ OnlyRegs g g' 4 ∧
      Holds g g' w.d (ps g) 2 (fun h j =>
        let a := ((sn g).ptr + (h.reg w.b j).setWidth 56).toNat
        if (sn g).valid = false ∨ a < (sn g).base.toNat ∨ (sn g).limit.toNat < a + size then 7
        else if (sn g).perm.getLsbD perm = false then 13 else 0)) ∧
  (∀ s slot g, Issues s slot g (fieldsA 0xA1 w) → g.id.sup = false → ps g ≠ [] → 2 ^ 31 ≤ (kb g 3).toNat → Faults (.spnarrow w) s slot g .illegal 0) ∧
  (∀ s slot g, Issues s slot g (fieldsA 0xA1 w) → g.id.sup = false → ps g ≠ [] → (kb g 3).toNat < 2 ^ 31 →
    (g.span ((kb g 1).toNat / 2 ^ 28)).valid = false → Faults (.spnarrow w) s slot g .span 0) ∧
  (∀ s slot g, Issues s slot g (fieldsA 0xA0 w) → g.id.sup = true → ps g ≠ [] →
    2 ^ 28 ≤ (kb g 1).toNat ∨ 2 ^ 24 ≤ (kb g 3).toNat ∨ 2 ^ 24 ≤ (kb g 5).toNat ∨ 2 ^ 7 ≤ (kb g 6).toNat ∨ 16 ≤ (kb g 7).toNat →
    ∃ t, exec (.spset w) s = .next t ∧ SameMemory s.mach t.mach ∧ t.mach.group? s.curCore slot =
      some { g with state := .stopped, cause := .fault, fcode := some .illegal, runCount := 0 } ∧ Logged s t 1 s.curCore (g.pc.toNat + 2 ^ 120)) ∧
  (∀ s slot g, Issues s slot g (fieldsA 0xA3 w) → g.id.sup = false → ps g ≠ [] →
    2 ^ 11 ≤ (kb g 0).toNat ∨ (kb g 0).toNat / 16 % 16 ≠ 0 ∨ (kb g 0).toNat / 256 % 8 = 7 → Faults (.spget w) s slot g .illegal 0) ∧
  (∀ s slot g, Issues s slot g (fieldsA 0xA4 w) → g.id.sup = false → ps g ≠ [] →
    2 ^ 24 ≤ (kb g 0).toNat ∨ (kb g 0).toNat / 16 % 16 ≠ 0 ∨ (kb g 0).toNat / 2048 % 32 ≠ 0 ∨ (kb g 0).toNat / 256 % 8 = 7 ∨
      (kb g 0).toNat / 65536 % 256 = 0 ∨ 128 < (kb g 0).toNat / 65536 % 256 → Faults (.spchk w) s slot g .illegal 0)

/-- SPSAVE and SPLOAD (R61, R244), on a way of a global line or of the scratchpad: SPSAVE stores the 24 bytes of the named span's image and the 8 bytes of its seal at the first
participant's position, and nothing else, so that a duplex signature stays as it was (the model's choice, log 80, by the closed list of R160); SPLOAD of 32 bytes that hold an image with the seal of its context restores that span; with any other seal the group is
frozen at the word with FCODE PROTECT. -/
def Obligations.SpanImages : Prop := ∀ w : WordM, ∀ s slot g t0 qs, g.participants w.g = t0 :: qs →
  let r := g.line w.l.toNat
  let n := (g.reg w.d 0).toNat % 16
  let image := fun sp : Span => leBytes 24 sp.image.toNat ++ leBytes 8 (sealOf (s.mach.sealKey g) sp.image).toNat
  let here := r.state = .open_ ∧ r.bound.getLsbD t0 = true ∧ posAt g w 32 t0 % 32 = 0 ∧ posAt g w 32 t0 + 32 ≤ 128 ∧
    s.mach.spadBusy s.curCore g.uid (r.locs.getD (wayAt g w t0) (.dram 0)) (rangeMask (posAt g w 32 t0) 32) = false
  (∀ f, Issues s slot g (fieldsM 0xA5 w) → here → r.w = true → g.gated = false → r.frames[wayAt g w t0]? = some (some f) →
    ((s.mach.core s.curCore).frame f).state ≠ .free →
    ∃ t g', exec (.spsave w) s = .next t ∧ SameHost s t ∧ SameHome s.mach t.mach ∧ t.mach.group? s.curCore slot = some g' ∧
      g'.rest = ({ g with pc := g.pc + 4 } : Group).rest ∧
      ∀ f' x, x < 128 → ((t.mach.core s.curCore).frame f').data.getD x 0 =
        if f' = f ∧ posAt g w 32 t0 ≤ x ∧ x < posAt g w 32 t0 + 32 then (image (g.span n)).getD (x - posAt g w 32 t0) 0
        else ((s.mach.core s.curCore).frame f').data.getD x 0) ∧
  (∀ c a, Issues s slot g (fieldsM 0xA5 w) → here → r.w = true → g.gated = false → r.frames[wayAt g w t0]? = some none →
    r.locs.getD (wayAt g w t0) (.dram 0) = .spad c a → a % 128 = 0 → g.state ≠ .ending →
    ∃ t g', exec (.spsave w) s = .next t ∧ SameHost s t ∧ (∀ b, t.mach.dram.read b = s.mach.dram.read b) ∧
      (∀ k f, (t.mach.core k).frame f = (s.mach.core k).frame f) ∧ t.mach.group? s.curCore slot = some g' ∧
      g'.rest = ({ g with pc := g.pc + 4 } : Group).rest ∧
      ∀ k b, (t.mach.cluster k).spadByte b = if k = c ∧ a + posAt g w 32 t0 ≤ b ∧ b < a + posAt g w 32 t0 + 32
        then (image (g.span n)).getD (b - (a + posAt g w 32 t0)) 0 else (s.mach.cluster k).spadByte b) ∧
  (∀ sp, Issues s slot g (fieldsM 0xA6 w) → here → lineBytes s g w 32 t0 = image sp →
    (∀ j, j < 32 → s.mach.wayBad s.curCore r (wayAt g w t0) (posAt g w 32 t0 + j) = false) →
    ∃ t g', exec (.spload w) s = .next t ∧ Stepped s t slot (fieldsM 0xA6 w) g g' ∧
      g'.rest = ({ g with pc := g.pc + 4, spans := g.spans.set n sp } : Group).rest) ∧
  (Issues s slot g (fieldsM 0xA6 w) → here → g.id.sup = false →
    (∀ j, j < 32 → s.mach.wayBad s.curCore r (wayAt g w t0) (posAt g w 32 t0 + j) = false) →
    sealOf (s.mach.sealKey g) (BitVec.ofNat 192 (leNat ((lineBytes s g w 32 t0).take 24))) ≠
      BitVec.ofNat 64 (leNat ((lineBytes s g w 32 t0).drop 24)) →
    ∃ t g', exec (.spload w) s = .next t ∧ t.mach.group? s.curCore slot = some g' ∧
      g' = { g with state := .stopped, cause := .freeze, fcode := some .protect, runCount := 0 })

/-- LSTAT (R62, R63, R245): the register's STATE, W, SPAD, NWAY and the thread's BOUND, WAY and OFF, and POISON and STALE of its frame, tagged N32. -/
def Obligations.LineStatus : Prop := ∀ w : WordM, ∀ s slot g, Issues s slot g (fieldsM 0xA8 w) →
  ∃ t g', ∃ x : Nat → Word, exec (.lstat w) s = .next t ∧ Stepped s t slot (fieldsM 0xA8 w) g g' ∧ OnlyRegs g g' 4 ∧
    Holds g g' w.d (g.participants w.g) 2 (fun _ j => x j) ∧
    let r := g.line w.l.toNat
    ∀ j : Nat, j < 32 → (x j).extractLsb' 0 7 = r.off.getD j 0 ∧ (x j).extractLsb' 7 2 = r.way.getD j 0 ∧ (x j).getLsbD 9 = r.bound.getLsbD j ∧
      (x j).extractLsb' 10 6 = 0 ∧ ((x j).extractLsb' 16 2).toNat = (r.lines.length - 1) % 4 ∧ (x j).getLsbD 18 = r.spad ∧ (x j).getLsbD 19 = r.w ∧
      ((x j).extractLsb' 20 3).toNat = (match r.state with | .closed => 0 | .open_ => 1 | .pending => 2 | .error => 3 | .lost => 4) ∧
      (∀ f, r.bound.getLsbD j = true → r.frames[(r.way.getD j 0).toNat]? = some (some f) →
        (x j).getLsbD 23 = ((s.mach.core s.curCore).frame f).stale ∧ (x j).extractLsb' 24 4 = ((s.mach.core s.curCore).frame f).poison) ∧
      (x j).extractLsb' 28 4 = 0

/-- TAGSET, TAGGET and PREF at issue (R246 to R248): after its checks TAGSET sends each participant's line its new tag, TAGGET asks each line's home and
leaves D pending, and PREF with its lines in the span fetches an absent readable line into a SPEC frame and changes no register,
scoreboard bit or byte at a home. -/
def Obligations.TagsAndPrefetch : Prop :=
  (∀ w : WordA, ∀ s slot g m ls, Issues s slot g (fieldsA 0xA9 w) → g.participants w.g ≠ [] → g.gated = false →
    tagsetCheck s.curCore g (fieldsA 0xA9 w) (s.issued slot g (fieldsA 0xA9 w) 4) (g.participants w.g) = .ok (m, ls) →
    ∃ t g', exec (.tagset w) s = .next t ∧ Replies s t slot g g' (ls.map (fun e => .tagset e.1 e.2)) ∧
      ls.map (·.2) = (g.participants w.g).map (fun j => (g.reg w.d j).setWidth 4) ∧ g'.rest = ({ g with pc := g.pc + 4 } : Group).rest) ∧
  (∀ w : WordA, ∀ s slot g m ls, Issues s slot g (fieldsA 0xAA w) → g.participants w.g ≠ [] →
    taggetCheck s.curCore g (fieldsA 0xAA w) (s.issued slot g (fieldsA 0xAA w) 4) (g.participants w.g) = .ok (m, ls) →
    ∃ t g', exec (.tagget w) s = .next t ∧ Sends s t slot g g' (ls.map (fun e => .tagget e.2 w.d e.1)) ∧ ls.map (·.1) = g.participants w.g ∧
      g'.rest = ({ g with pc := g.pc + 4, sb := g.sb ||| regItems w.d 1 } : Group).rest) ∧
  (∀ w : WordO, ∀ s slot g, Issues s slot g (fieldsO 0xAB w) → prefCheck g (fieldsO 0xAB w) (g.participants w.g) = none →
    ∃ t g', exec (.pref w) s = .next t ∧ SameHost s t ∧ SameHome s.mach t.mach ∧ t.mach.msgs = s.mach.msgs ∧
      t.mach.group? s.curCore slot = some g' ∧ g'.rest = ({ g with pc := g.pc + 4 } : Group).rest ∧
      ∀ j m a lf, g.participants w.g = [j] → let va := (g.span w.sp.toNat).ptr + (g.reg w.b j).setWidth 56
        (lineVa va).toNat < Config.peerWindow → (s.issued slot g (fieldsO 0xAB w) 4).translate s.curCore g (lineVa va) = (m, .ok (.dram a) lf) →
        lf.rd = true → (s.mach.core s.curCore).findFrame (.dram a) = none → (s.mach.core s.curCore).frames = [] →
        (s.mach.lineClasses (.dram a) (g.span w.sp.toNat).tag).contains .tagMismatch = false →
        ((t.mach.core s.curCore).frame 0).state = .spec ∧ ((t.mach.core s.curCore).frame 0).line = .dram a ∧
        ∀ x, x < 128 → ((t.mach.core s.curCore).frame 0).data.getD x 0 = s.mach.dram.read (a + x))

/-- GROW and SHRINK (R249, R353): a GROW that asks for no more than VALLOC, and one whose bytes are free in the lane's bank with no GROW waiting there, answers
OK with VALLOC raised; a harvest group's GROW to 47 answers NOSPACE; SHRINK drops the registers it gives up. A GROW without room waits. -/
def Obligations.RegisterAllocation : Prop := ∀ w : WordI, ∀ s slot g,
  let n := w.imm.toNat
  let c := fun f => (s.issued slot g f 4).core s.curCore
  let need := 128 * (n - g.valloc)
  let answered := fun (i : Instr) (g0 : Group) (st : Status) => ∃ t g', exec i s = .next t ∧ SameHost s t ∧ SameMemory s.mach t.mach ∧
    t.mach.group? s.curCore slot = some g' ∧ g'.wait = none ∧
    g'.rest = ({ g0 with pc := g.pc + 4, lsts := st, k := if isK w.d then g0.k.set (w.d.toNat - 48) (BitVec.ofNat 32 st.code) else g0.k } : Group).rest
  (Issues s slot g (fieldsI 0xAC w) → g.participants w.g ≠ [] → n ≤ g.valloc → answered (.grow w) g .ok) ∧
  (Issues s slot g (fieldsI 0xAC w) → g.participants w.g ≠ [] → g.valloc < n → g.id.harvest = true → n = 47 →
    answered (.grow w) g .nospace) ∧
  (Issues s slot g (fieldsI 0xAC w) → g.participants w.g ≠ [] → g.valloc < n → (g.id.harvest = true → n ≠ 47) → (c (fieldsI 0xAC w)).growers (laneOf slot) = [] →
    (c (fieldsI 0xAC w)).ownerBytes (laneOf slot) + (c (fieldsI 0xAC w)).harvestBytes (laneOf slot) false + need ≤ 32768 →
    answered (.grow w) { g with valloc := n } .ok) ∧
  (Issues s slot g (fieldsI 0xAC w) → g.participants w.g ≠ [] → g.valloc < n → (g.id.harvest = true → n ≠ 47) → (c (fieldsI 0xAC w)).growers (laneOf slot) = [] →
    32768 < (c (fieldsI 0xAC w)).ownerBytes (laneOf slot) + need →
    ∃ t g' a, exec (.grow w) s = .next t ∧ t.mach.group? s.curCore slot = some g' ∧ g'.wait = some (.grow n w.d a) ∧
      g'.rest = ({ g with pc := g.pc + 4 } : Group).rest) ∧
  (Issues s slot g (fieldsI 0xAD w) → g.participants w.g ≠ [] → (c (fieldsI 0xAD w)).growers (laneOf slot) = [] →
    answered (.shrink w) (if g.valloc ≤ n then g else
      { g with valloc := n, v := g.v.filter (fun e => e.1 < 32 * n), vtag := g.vtag.filter (fun e => e.1 < n) }) .ok)

/-- LEND and RECLAIM (R97, R250): LEND of pages of the block that are all ALLOC and bind no line of it makes them LENT; RECLAIM of pages lent by the block
that no harvest group uses returns them to ALLOC; both answer OK. An empty or unaligned range, one that leaves the allocation, and a
harvest group get MISMATCH, and nothing changes. -/
def Obligations.LentPages : Prop := ∀ w : WordA, ∀ s slot g i f, (i, f) ∈ [((.lend w : Instr), fieldsA 0xAE w), (.reclaim w, fieldsA 0xAF w)] →
  Issues s slot g f → g.participants w.g ≠ [] →
  let cl := clusterOf s.curCore
  let off := (g.readK (w.a.toNat - 48)).toNat
  let n := (g.readK (w.a.toNat - 47)).toNat
  let k := s.mach.cluster cl
  ((g.id.harvest = true ∨ n = 0 ∨ off % 16384 ≠ 0 ∨ ∀ b, s.mach.block? s.curCore g = some b → b.pages.length < off / 16384 + n) →
    ∃ t g', exec i s = .next t ∧ AnswersLater s t slot g g' w.d .mismatch ∧ t.mach.clusters = s.mach.clusters) ∧
  (∀ b, s.mach.block? s.curCore g = some b → g.id.harvest = false → n ≠ 0 → off % 16384 = 0 → off / 16384 + n ≤ b.pages.length →
    let ps := (b.pages.drop (off / 16384)).take n
    (i = .lend w → (∀ p ∈ ps, (k.pages.getD p {}).state = .alloc) →
      (∀ e ∈ b.members, ∀ h, (s.issued slot g f 4).findGroup e.2.core e.2.slot e.2.uid = some h → h.bindsIn cl ps = false) →
      ∃ t g', exec i s = .next t ∧ AnswersLater s t slot g g' w.d .ok ∧ ∀ p, (t.mach.cluster cl).pages.getD p {} =
        if p ∈ ps then { k.pages.getD p {} with state := .lent, lentTo := none } else k.pages.getD p {}) ∧
    (i = .reclaim w → (∀ p ∈ ps, (k.pages.getD p {}).state = .lent ∧ (k.pages.getD p {}).block = g.id.block) →
      (s.issued slot g f 4).pageUsers cl ps = [] → (∀ j, j < 8 → (s.mach.core (8 * cl + j)).ops = []) →
      ∃ t g', exec i s = .next t ∧ t.mach.group? s.curCore slot = some g' ∧ g'.sb = g.sb ||| regItems w.d 1 ∧
        (∀ p ∈ ps, ((t.mach.cluster cl).pages.getD p {}).state = .alloc ∧ ((t.mach.cluster cl).pages.getD p {}).lentTo = none) ∧
        (∀ p, p ∉ ps → (t.mach.cluster cl).pages.getD p {} = k.pages.getD p {}) ∧
        ∃ x ∈ t.mach.msgs, x.uid = g.uid ∧ x.body = .result (statusWrites w.d .ok) (regItems w.d 1) false))

/-- The atomics at issue (R251, R252): each participant's access, checked by R65 with W set, goes to its place of execution with its operand: D, the pair, or
for ACAS the new value and the expected one; D is pending. What the place does is said with the arrival. -/
def Obligations.AtomicRequests : Prop := ∀ w : WordM, ∀ s slot g i p op n,
  (i, p, op, n) ∈ [((.aadd w : Instr), 0xB0, AtomOp.add, 4), (.aadd64 w, 0xB1, .add, 8), (.afadd w, 0xB2, .fadd, 4), (.aminS w, 0xB3, .minS, 4),
    (.amaxS w, 0xB4, .maxS, 4), (.aminN w, 0xB5, .minN, 4), (.amaxN w, 0xB6, .maxN, 4), (.aand w, 0xB7, .and_, 4), (.aor w, 0xB8, .or_, 4),
    (.axor w, 0xB9, .xor_, 4), (.axchg w, 0xBA, .xchg, 4), (.acas w, 0xBB, .cas, 4), (.acas64 w, 0xBC, .cas, 8)] →
  Issues s slot g (fieldsM p w) → Reaches g w n true → g.participants w.g ≠ [] → g.gated = false → g.id.duplex = false →
  g.eng.unsure = [] → g.state ≠ .ending →
  ∀ m ls, atomicLocs s.curCore g (g.line w.l.toNat) op (s.issued slot g (fieldsM p w) 4)
      ((g.participants w.g).map (fun t => (t, wayAt g w t, posAt g w n t))) = .ok (m, ls) → (∀ e ∈ ls, e.2.2.device = none) →
  let operand := fun t => if op = .cas ∧ n = 8 then g.regAt w.d 3 t ++ g.regAt w.d 2 t else if op = .cas then (g.regAt w.d 1 t).setWidth 64
    else if n = 8 then g.regAt w.d 1 t ++ g.regAt w.d 0 t else (g.reg w.d t).setWidth 64
  let expected : Nat → Dword := fun t => if op = .cas ∧ n = 8 then g.regAt w.d 1 t ++ g.regAt w.d 0 t else if op = .cas then (g.reg w.d t).setWidth 64 else 0
  ∃ t g', exec i s = .next t ∧
    Sends s t slot g g' (ls.map (fun e => .atomic op e.2.2 e.2.1 n (operand e.1) (expected e.1) (g.line w.l.toNat).tag w.d e.1)) ∧
    ls.map (fun e => (e.1, e.2.1)) = (g.participants w.g).map (fun t => (t, (g.line w.l.toNat).lines.getD (wayAt g w t) 0 + BitVec.ofNat 56 (posAt g w n t))) ∧
    g'.rest = ({ g with pc := g.pc + 4, sb := g.sb ||| regItems w.d (n / 4) } : Group).rest

/-- PUT, PUTV and CWAIT at issue (R254, R256): a put's bytes, read at issue, leave by mask for the destination's line with its tag, its counter and delta;
PUT takes them from the first participant's way, PUTV one word of D a participant. CWAIT leaves its group waiting for its word, read at its place. -/
def Obligations.PutsAndCounterWaits : Prop := ∀ w : WordA, ∀ s slot g t0 qs, g.participants w.g = t0 :: qs → g.gated = false → g.id.duplex = false →
  g.eng.unsure = [] → let kb := fun i => g.readK (w.a.toNat - 48 + i)
  let len := (kb 2).toNat / 65536 % 128 + 1
  let delta : BitVec 16 := (kb 2).setWidth 16
  (∀ a, Issues s slot g (fieldsA 0xBD w) →
    let r := g.line ((kb 3).toNat / 256 % 8)
    let way := (r.way.getD t0 0).toNat
    let e := (r.off.getD t0 0).toNat + (kb 3).toNat % 128
    r.state = .open_ → r.bound.getLsbD t0 = true → e + len ≤ 128 → (kb 3).toNat < 2048 → (kb 3).getLsbD 7 = false →
    (∀ j, j < len → s.mach.wayBad s.curCore r way (e + j) = false) →
    s.mach.spadBusy s.curCore g.uid (r.locs.getD way (.dram 0)) (rangeMask e len) = false → a.mach.noRoom g.id.ctx a.dst = false →
    putAim ⟨s.curCore, slot, fieldsA 0xBD w, g.pc, 4⟩ (s.issued slot g (fieldsA 0xBD w) 4) g len = .ok a →
    ∃ t g' data, exec (.put w) s = .next t ∧
      Sends s t slot g g' [.put a.dst.line (lineVa a.dva) (rangeMask a.dst.off len) data a.tag a.ctr delta] ∧
      (∀ j, j < len → data.getD (a.dst.off + j) 0 = s.mach.wayByte s.curCore r way (e + j)) ∧
      a.dva = (g.span ((kb 2).toNat / 2 ^ 24 % 16)).ptr + (kb 0).signExtend 56 ∧ g'.rest = ({ g with pc := g.pc + 4 } : Group).rest) ∧
  (∀ a, Issues s slot g (fieldsA 0xBE w) → len = 1 → kb 3 = 0 → ((g.span ((kb 2).toNat / 2 ^ 24 % 16)).ptr + (kb 0).signExtend 56).toNat % 128 = 0 →
    a.mach.noRoom g.id.ctx a.dst = false →
    putAim ⟨s.curCore, slot, fieldsA 0xBE w, g.pc, 4⟩ (s.issued slot g (fieldsA 0xBE w) 4) g 128 = .ok a →
    ∃ t g' mask data, exec (.putv w) s = .next t ∧ Sends s t slot g g' [.put a.dst.line (lineVa a.dva) mask data a.tag a.ctr delta] ∧
      (∀ x, x < 128 → mask.getLsbD x = decide (x / 4 ∈ g.participants w.g)) ∧
      (∀ j ∈ g.participants w.g, ∀ x, x < 4 → data.getD (4 * j + x) 0 = (g.reg w.d j).extractLsb' (8 * x) 8) ∧
      g'.rest = ({ g with pc := g.pc + 4 } : Group).rest) ∧
  (∀ m l lf, Issues s slot g (fieldsA 0xBF w) → (kb 2).toNat < 16 → kb 3 = 0 →
    let sp := g.span (kb 2).toNat
    let va := sp.ptr + (kb 0).signExtend 56
    va.toNat % 4 = 0 → sp.valid = true → sp.base.toNat ≤ va.toNat → va.toNat + 4 ≤ sp.limit.toNat → sp.perm.getLsbD 0 = true →
    (s.issued slot g (fieldsA 0xBF w) 4).translate s.curCore g va = (m, .ok l lf) → lf.rd = true → g.freeze = none → g.stopMark = false →
    ∃ t g', exec (.cwait w) s = .next t ∧ Sends s t slot g g' [.waiter va l sp.tag 0 47 true] ∧
      g'.wait = some (.cwait va (kb 1) sp.tag false 4) ∧ g'.rest = ({ g with pc := g.pc + 4 } : Group).rest)

/-- COPY, COPY.TR8 and COPY.TR16 at issue (R257 to R259, R125, R152): after its checks the copy joins the end of its channel as a
QUEUED entry of the open batch, with the layout record, the origin, the length of its box and its span side, and answers OK; a
channel of 8 entries, a ninth unfinished batch or a batch of 128 answers FULL and changes nothing else. -/
def Obligations.CopyRequests : Prop := ∀ w : WordA, ∀ s slot g i op kind m m1 m2 r cw,
  (i, op, kind) ∈ [((.copy w : Instr), 0xC0, CopyKind.copy), (.copyTr8 w, 0xC1, .tr8), (.copyTr16 w, 0xC2, .tr16)] →
  Issues s slot g (fieldsA op w) → g.participants w.g ≠ [] → g.gated = false → g.id.duplex = false →
  let k := blockWord g (fieldsA op w)
  let len := (r.box.foldl (fun n b => n * (b + 1)) 1) * 2 ^ r.esize
  let dir := (k 4).getLsbD 16
  let start := (g.span cw.span).ptr + (k 5).signExtend 56
  let e : CopyEntry :=
    { kind, slot, uid := g.uid, ctx := g.id.ctx, sup := g.id.sup, block := g.id.block, batch := g.batch.bseq
      bar := if cw.cred then some cw.bidx else none, layout := r
      origin := [(k 1).toInt, (k 2).toInt, sextNat (k 3).toNat 16, sextNat ((k 3).toNat >>> 16) 16, sextNat (k 4).toNat 16]
      dir, span := start, spanTag := (g.span cw.span).tag, other := 0, otherTag := 0, len, done := 0, state := .queued, ticket := 0
      receiver := 0, wslot := none, token := none, stopping := false, gated := false, silent := false, started := false
      seq := g.batch.issued }
  let ch := (s.mach.core s.curCore).chan cw.chan
  cwOf (k 6) false = some cw → (k 4).toNat < 131072 → (dir = true → kind = .copy) → k 7 = 0 →
  (s.issued slot g (fieldsA op w) 4).layout s.curCore g (k 0) = .ok (m, r) → len ≤ 16777216 → (kind = .tr8 → r.esize = 0) →
  (kind = .tr16 → r.esize = 1) → (kind ≠ .copy → ∀ b ∈ r.box.drop 2, b = 0) →
  (g.span cw.span).check start.toNat len (if dir then 3 else 4) = none → firstPage s.curCore g m (firstOf e.src len) false = .ok m1 →
  firstPage s.curCore g m1 (firstOf e.dst len) true = .ok m2 → (cw.cred = true → s.mach.hasBarrier s.curCore g cw.bidx = true) →
  ((8 ≤ ch.entries.length ∨ (g.batch.openn = 0 ∧ 8 ≤ g.batch.sealed) ∨ g.batch.openn = 128) →
    ∃ t g', exec i s = .next t ∧ AnswersLater s t slot g g' w.d .full) ∧
  (ch.entries.length < 8 → ¬(g.batch.openn = 0 ∧ 8 ≤ g.batch.sealed) → g.batch.openn ≠ 128 →
    ∃ t g', exec i s = .next t ∧ Replies s t slot g g' [answer w.d .ok] ∧
      (t.mach.core s.curCore).chan cw.chan = { ch with entries := ch.entries ++ [e] } ∧
      (∀ n, n ≠ cw.chan → (t.mach.core s.curCore).chan n = (s.mach.core s.curCore).chan n) ∧
      g'.batch.openn = g.batch.openn + 1 ∧ g'.batch.counts.getD g.batch.bseq.toNat 0 = g.batch.counts.getD g.batch.bseq.toNat 0 + 1 ∧
      g'.rest = ({ g with pc := g.pc + 4, sb := g.sb ||| regItems w.d 1, batch := { g.batch with openn := g'.batch.openn, issued := g.batch.issued + 1, counts := g'.batch.counts } } : Group).rest)

/-- COPY.MC, DRAIN and COPYL at issue with room in the channel and the batch (R262 to R264): COPY.MC reserves its ticket with one share a receiver
that is not gone (none, with no receiver left) and joins its channel, or answers MISMATCH while the ticket is reserved; DRAIN joins for the share its group holds, with the ticket's length,
and answers MISMATCH for a ticket that is not reserved; COPYL joins with both its ranges. -/
def Obligations.MulticastAndPlainCopies : Prop := ∀ w : WordA, ∀ s slot g cw, g.participants w.g ≠ [] → g.gated = false → g.id.duplex = false →
  (g.batch.openn = 0 → g.batch.sealed < 8) → g.batch.openn ≠ 128 → ((s.mach.core s.curCore).chan cw.chan).entries.length < 8 →
  (cw.cred = true → s.mach.hasBarrier s.curCore g cw.bidx = true) →
  let k := blockWord g (fieldsA 0xC3 w)
  let cl := clusterOf s.curCore
  let joins := fun (i : Instr) (P : State → CopyEntry → Prop) => ∃ t g' e, exec i s = .next t ∧ t.mach.group? s.curCore slot = some g' ∧
    ((t.mach.core s.curCore).chan cw.chan).entries = ((s.mach.core s.curCore).chan cw.chan).entries ++ [e] ∧
    (e.slot, e.uid, e.batch, e.done, e.state, e.bar) = (slot, g.uid, g.batch.bseq, 0, CopyState.queued, if cw.cred then some cw.bidx else none) ∧
    g'.batch.openn = g.batch.openn + 1 ∧ g'.sb = g.sb ||| regItems w.d 1 ∧ SameMemory s.mach t.mach ∧
    t.mach.msgs.map (·.body) = s.mach.msgs.map (·.body) ++ [answer w.d .ok] ∧ P t e
  (∀ b m m1 r rs, Issues s slot g (fieldsA 0xC3 w) → cwOf (k 6) true = some cw → k 5 = 0 → cw.cred = false → (k 7).toNat < 16777216 → (k 4).toNat < 65536 →
    (s.issued slot g (fieldsA 0xC3 w) 4).layout s.curCore g (k 0) = .ok (m, r) → s.mach.block? s.curCore g = some b →
    let len := (r.box.foldl (fun n b => n * (b + 1)) 1) * 2 ^ r.esize
    let id := ticketId g b cw.ticket
    len ≤ 16384 → s.mach.receivers s.curCore g b ((k 7).setWidth 16) ((k 7).toNat / 65536 % 256) = some rs →
    firstPage s.curCore g m (firstOf ({ newEntry (s.who slot g (fieldsA 0xC3 w)) g .mc cw with
      layout := r, origin := boxOrigin k, dir := (k 4).getLsbD 16 } : CopyEntry).src len) false = .ok m1 →
    ((∃ x ∈ (s.mach.cluster cl).tickets, x.id = id) → ∃ t g', exec (.copyMc w) s = .next t ∧ AnswersLater s t slot g g' w.d .mismatch) ∧
    ((∀ x ∈ (s.mach.cluster cl).tickets, x.id ≠ id) →
      (∀ x ∈ rs, (rs.filter (fun y => y.2.core == x.2.core)).length ≤ (s.mach.core x.2.core).estateFree) →
      joins (.copyMc w) (fun t e => e.kind = .mc ∧ e.ticket = id ∧ e.len = len ∧ e.layout = r ∧
        (rs = [] → (t.mach.cluster cl).tickets = (s.mach.cluster cl).tickets) ∧ (rs ≠ [] → ∃ x,
        (t.mach.cluster cl).tickets = (s.mach.cluster cl).tickets ++ [x] ∧ x.id = id ∧ x.len = len ∧ x.slot = none ∧
        x.owners = rs.map (fun y => (y.1, y.2.uid)) ∧ ∀ j, x.shares.getLsbD j = decide (j < 16 ∧ ∃ y ∈ rs, y.1 = j))))) ∧
  (∀ b, Issues s slot g (fieldsA 0xC4 w) → cwOf (blockWord g (fieldsA 0xC4 w) 1) true = some cw → s.mach.block? s.curCore g = some b →
    let dst := (g.span cw.span).ptr + (blockWord g (fieldsA 0xC4 w) 0).signExtend 56
    let id := ticketId g b cw.ticket
    Config.localWindow ≤ dst.toNat →
    ((∀ x ∈ (s.mach.cluster cl).tickets, x.id ≠ id) → ∃ t g', exec (.drain w) s = .next t ∧ AnswersLater s t slot g g' w.d .mismatch) ∧
    (∀ x j u m1, (s.mach.cluster cl).tickets.find? (fun t => t.id == id) = some x →
      x.owners.find? (fun o => o.2 == g.uid && x.shares.getLsbD o.1) = some (j, u) →
      (g.span cw.span).check dst.toNat x.len 4 = none →
      firstPage s.curCore g (s.issued slot g (fieldsA 0xC4 w) 4) (some dst) true = .ok m1 →
      joins (.drain w) (fun _ e => e.kind = .drain ∧ e.ticket = id ∧ e.receiver = j ∧ e.len = x.len ∧ e.span = dst))) ∧
  (∀ m m1, Issues s slot g (fieldsA 0xC5 w) → cwOf (blockWord g (fieldsA 0xC5 w) 3) false = some cw →
    let c := (blockWord g (fieldsA 0xC5 w) 2).toNat
    let src := (g.span cw.span).ptr + (blockWord g (fieldsA 0xC5 w) 0).signExtend 56
    let dst := (g.span (c % 16)).ptr + (blockWord g (fieldsA 0xC5 w) 1).signExtend 56
    c / 16 % 16 = 0 → (g.span cw.span).check src.toNat (c / 256 + 1) 3 = none → (g.span (c % 16)).check dst.toNat (c / 256 + 1) 4 = none →
    firstPage s.curCore g (s.issued slot g (fieldsA 0xC5 w) 4) (some src) false = .ok m → firstPage s.curCore g m (some dst) true = .ok m1 →
    joins (.copyl w) (fun _ e => e.kind = .copyl ∧ e.span = src ∧ e.other = dst ∧ e.len = c / 256 + 1 ∧
      e.spanTag = (g.span cw.span).tag ∧ e.otherTag = (g.span (c % 16)).tag))

/-- SEAL, WAITB and WPTR (R152, R156, R265): SEAL seals the open batch if it holds a copy, and finished batches leave in order; WAITB goes on when
no more than N sealed batches are unfinished and waits otherwise; WPTR reads ESEQ and WADDR of a channel, tagged N32. -/
def Obligations.BatchWords : Prop :=
  (∀ w : WordA, ∀ s slot g, Issues s slot g (fieldsA 0xC6 w) → ∃ t g', exec (.seal w) s = .next t ∧
    Stepped s t slot (fieldsA 0xC6 w) g g' ∧ g'.rest = ({ g with pc := g.pc + 4, batch := g'.batch } : Group).rest ∧
    (g.participants w.g = [] ∨ g.batch.openn = 0 → g'.batch = g.batch) ∧
    (g.participants w.g ≠ [] → g.batch.openn ≠ 0 → g'.batch.bseq = g.batch.bseq + 1 ∧ g'.batch.openn = 0 ∧
      (g.batch.bdone ≠ g.batch.bseq + 1 → g.batch.counts.getD g.batch.bdone.toNat 0 ≠ 0 → g'.batch.bdone = g.batch.bdone) ∧
      (g.batch.bdone = g.batch.bseq → g.batch.counts.getD g.batch.bseq.toNat 0 = 0 → g'.batch.bdone = g.batch.bseq + 1))) ∧
  (∀ w : WordI, ∀ s slot g, Issues s slot g (fieldsI 0xC7 w) → g.participants w.g ≠ [] →
    ((g.batch.bseq - g.batch.bdone).toNat ≤ w.imm.toNat → ∃ t g', exec (.waitb w) s = .next t ∧
      Stepped s t slot (fieldsI 0xC7 w) g g' ∧ g'.rest = ({ g with pc := g.pc + 4 } : Group).rest) ∧
    (w.imm.toNat < (g.batch.bseq - g.batch.bdone).toNat → ∃ t g', exec (.waitb w) s = .next t ∧ Sends s t slot g g' [] ∧
      g'.wait = some (.waitb w.imm.toNat) ∧ g'.rest = ({ g with pc := g.pc + 4 } : Group).rest)) ∧
  (∀ w : WordI, ∀ s slot g, Issues s slot g (fieldsI 0xC8 w) → ∃ t g', exec (.wptr w) s = .next t ∧
    Stepped s t slot (fieldsI 0xC8 w) g g' ∧ OnlyRegs g g' 4 ∧ Holds64 g g' w.d (g.participants w.g) 2
      (fun _ _ => ((s.mach.core s.curCore).chan w.imm.toNat).eseq ++ ((s.mach.core s.curCore).chan w.imm.toNat).waddr))

/-- The ring and barrier words at issue (R272, R276): each sends one request to the block's hub, RING.PUSH, RING.POP and BAR.WAIT leave the group
waiting, the others leave D and the status operand pending; a ring or barrier that the block has not in use raises ACCESS. -/
def Obligations.RingAndBarrierRequests : Prop := ∀ w : WordI, ∀ s slot g b, g.id.sup = false → s.mach.block? s.curCore g = some b →
  g.participants w.g ≠ [] →
  let j := w.imm.toNat % 16
  let ks : RegField := w.imm.extractLsb' 4 6
  let x := g.reg w.d ((g.participants w.g).head?.getD 0)
  let ps := maskOf (g.participants w.g)
  let waits := fun (i : Instr) (v : Wait) (body : MsgBody) => ∃ t g', exec i s = .next t ∧ Sends s t slot g g' [body] ∧ g'.wait = some v ∧
    g'.rest = ({ g with pc := g.pc + 4 } : Group).rest
  let asks := fun (i : Instr) (items : BitVec 96) (body : MsgBody) => ∃ t g', exec i s = .next t ∧ Sends s t slot g g' [body] ∧
    g'.rest = ({ g with pc := g.pc + 4, sb := g.sb ||| items } : Group).rest
  ((b.rings.get? j).isSome = true →
    (Issues s slot g (fieldsI 0xC9 w) → waits (.ringPush w) (.ring j) (.ring .push j x 47 ks ps)) ∧
    (Issues s slot g (fieldsI 0xCA w) → waits (.ringPop w) (.ring j) (.ring .pop j 0 w.d ks ps)) ∧
    (Issues s slot g (fieldsI 0xCB w) → asks (.ringTry w) (regItems w.d 1 ||| regItems ks 1) (.ring .try_ j 0 w.d ks ps)) ∧
    (Issues s slot g (fieldsI 0xCC w) → asks (.ringAllow w) (regItems 47 1 ||| regItems ks 1) (.ring .allow j x 47 ks ps))) ∧
  ((b.bars.get? j).isSome = true →
    (Issues s slot g (fieldsI 0xCD w) → asks (.barArrive w) (regItems ks 1) (.barrier true false j 0 ks)) ∧
    (Issues s slot g (fieldsI 0xCE w) → waits (.barWait w) (.barrier j) (.barrier false true j 0 ks)) ∧
    (Issues s slot g (fieldsI 0xCF w) → asks (.barExpect w) (regItems ks 1) (.barrier false false j x ks))) ∧
  (∀ i op, (i, op) ∈ [((.ringPush w : Instr), 0xC9), (.ringPop w, 0xCA), (.ringTry w, 0xCB), (.ringAllow w, 0xCC)] →
    Issues s slot g (fieldsI op w) → b.rings.get? j = none → Faults i s slot g .access 0) ∧
  (∀ i op, (i, op) ∈ [((.barArrive w : Instr), 0xCD), (.barWait w, 0xCE), (.barExpect w, 0xCF)] →
    Issues s slot g (fieldsI op w) → b.bars.get? j = none → Faults i s slot g .access 0)

/-- The engine operations at issue (R281, R284, R286, R287, R430): a group without a gang whose operation can be accepted completes at once: MMA and MMA.SC with the
handle NEW take the lowest free slot, RAW of old values, under their pairing's tag, and put its handle in D, those with the handle of a LIVE slot of that tag keep it, another tag or
an unknown handle answers MISMATCH, and NEW without a free slot NOSLOT; a gang register with no members issues alone and ignores BRK, which is the model's choice (log 95); the operation ends the engine queue with the group's count of outstanding operations raised. The first member of a gang waits in a latch; a broken gang answers GANGBROKEN. -/
def Obligations.EngineRequests : Prop := ∀ w : WordA, ∀ s slot g i op kind n a,
  (i, op, kind, n) ∈ [((.mma w : Instr), 0xD0, OpKind.mma, 8), (.mmaSc w, 0xD1, .mmaSc, 8), (.mhad w, 0xD2, .mhad, 4), (.mqnt w, 0xD3, .mqnt, 8)] →
  Issues s slot g (fieldsA op w) → g.participants w.g ≠ [] → (s.mach.core s.curCore).latches = [] →
  let c := s.mach.core s.curCore
  let k := blockWord g (fieldsA op w)
  let isMma := kind = .mma ∨ kind = .mmaSc
  let tag := pairTag ((k 4).toNat / 256 % 16)
  let items := regItems (if isMma then w.d else 47) 1 ||| regItems w.b 1
  let entry := fun (j : Nat) (gen : BitVec 12) => ({ id := s.mach.nextUid, window := g.dup.windows, kind, members := [(slot, g.uid)], ident := g.id, uid := g.uid, slot := j, gen
                                                     block := (List.range n).map k, ptrs := a.1, tags := a.2 } : EngineOp)
  let completes := fun (st : Status) (P : State → Group → Prop) => ∃ t g', exec i s = .next t ∧ t.mach.group? s.curCore slot = some g' ∧
    SameMemory s.mach t.mach ∧ t.mach.msgs = s.mach.msgs ∧ (t.mach.core s.curCore).latches = [] ∧ g'.wait = none ∧ g'.pc = g.pc + 4 ∧ g'.lsts = st ∧
    (isK w.b = true → g'.readK (w.b.toNat - 48) = st.word) ∧ g'.sb = g.sb &&& ~~~items ∧ g'.v = g.v ∧ P t g'
  let joined := fun (t : State) (g' : Group) (e : EngineOp) => (t.mach.core s.curCore).engine = c.engine ++ [e] ∧ g'.eng.out = g.eng.out + 1
  (kind = .mma ∨ kind = .mmaSc → mmaAim (kind == .mmaSc) g k = .ok a) → (kind = .mhad → mhadAim g k = .ok a) → (kind = .mqnt → mqntAim g k = .ok a) →
  ((g.gang.toNat % 8 = 0 ∨ ¬isMma) → c.engine.length < 8 → g.eng.opnd = none →
    (¬isMma → completes .ok (fun t g' => joined t g' (entry 0 0))) ∧
    (∀ j, isMma → g.reg w.d 0 = 0x80000000 → c.estateFree ≠ 0 → c.freeSlot g.id.harvest = some j → completes .ok (fun t g' =>
      joined t g' (entry j ((c.slot j).gen + 1)) ∧ (w.b ≠ w.d → g'.readK (w.d.toNat - 48) = handleOf s.curCore ((c.slot j).gen + 1) j) ∧
      (t.mach.core s.curCore).slot j = { gen := (c.slot j).gen + 1, ftag := tag, sat := false, live := true, elems := [], bad := [], twin := if g.id.copyIndex then some g.uid else none } ∧
      ∀ x, x ≠ j → (t.mach.core s.curCore).slot x = c.slot x)) ∧
    (∀ j, isMma → g.reg w.d 0 ≠ 0x80000000 → s.mach.handleSlot s.curCore (g.reg w.d 0) = some j →
      ((c.slot j).ftag = tag → completes .ok (fun t g' => joined t g' (entry j (c.slot j).gen) ∧
        (w.b ≠ w.d → g'.readK (w.d.toNat - 48) = g.reg w.d 0) ∧ (t.mach.core s.curCore).acc = c.acc)) ∧
      ((c.slot j).ftag ≠ tag → completes .mismatch (fun t _ => (t.mach.core s.curCore).engine = c.engine ∧ (t.mach.core s.curCore).acc = c.acc))) ∧
    (isMma → g.reg w.d 0 ≠ 0x80000000 → s.mach.handleSlot s.curCore (g.reg w.d 0) = none →
      completes .mismatch (fun t _ => (t.mach.core s.curCore).engine = c.engine ∧ (t.mach.core s.curCore).acc = c.acc)) ∧
    (isMma → g.reg w.d 0 = 0x80000000 → c.estateFree ≠ 0 → c.freeSlot g.id.harvest = none →
      completes .noslot (fun t _ => (t.mach.core s.curCore).engine = c.engine ∧ (t.mach.core s.curCore).acc = c.acc))) ∧
  (isMma → 2 ≤ g.gang.toNat % 8 → (g.reg w.d 0 = 0x80000000 → g.id.copyIndex = false → c.estateFree ≠ 0) →
    (g.gang.getLsbD 4 = true → ∃ t g', exec i s = .next t ∧ Stepped s t slot (fieldsA op w) g g' ∧ g'.lsts = .gangbroken ∧
      (isK w.b = true → g'.readK (w.b.toNat - 48) = Status.gangbroken.word)) ∧
    (g.gang.getLsbD 4 = false → ∃ t g', exec i s = .next t ∧ SameMemory s.mach t.mach ∧ t.mach.group? s.curCore slot = some g' ∧ g'.wait = some .latch ∧
      (t.mach.core s.curCore).engine = c.engine ∧ g'.rest = ({ g with sb := g.sb ||| items, eng := { g.eng with opnd := none } } : Group).rest))

/-- Accumulator slots by hand (R282, R289, R290): ACCZ takes the lowest free slot, all zero, under the tag in A and gives its handle, or answers NOSLOT, or MISMATCH for a tag that is
not S32 or F32; ACCRD and ACCLD read elements of a slot under its tag, ACCWR and ACCST write them and nothing else of it; MREL frees a slot the group holds. -/
def Obligations.AccumulatorWords : Prop := ∀ w : WordA, ∀ s slot g, g.participants w.g ≠ [] →
  let c := s.mach.core s.curCore
  let ps := g.participants w.g
  (Issues s slot g (fieldsA 0xD8 w) →
    let items := regItems w.d 1 ||| regItems w.b 1
    let gives := fun (st : Status) => ∃ t g', exec (.accz w) s = .next t ∧ Sends s t slot g g' [.result (statusWrites w.b st) items false] ∧
      g'.rest = ({ g with pc := g.pc + 4, sb := g.sb ||| items } : Group).rest
    (g.reg w.a 0 ≠ 1 → g.reg w.a 0 ≠ 3 → gives .mismatch) ∧
    ((g.reg w.a 0 = 1 ∨ g.reg w.a 0 = 3) → c.estateFree ≠ 0 →
      (c.freeSlot g.id.harvest = none → gives .noslot) ∧
      ∀ j, c.freeSlot g.id.harvest = some j → ∃ t g' ws, exec (.accz w) s = .next t ∧ Replies s t slot g g' [.result ws items false] ∧ g'.sb = g.sb ||| items ∧
        (t.mach.core s.curCore).slot j = { gen := (c.slot j).gen + 1, ftag := (g.reg w.a 0).setWidth 4, sat := false, live := true, elems := [], bad := [], twin := if g.id.copyIndex then some g.uid else none } ∧
        (∀ x, x ≠ j → (t.mach.core s.curCore).slot x = c.slot x) ∧
        (g.id.copyIndex = false → ∃ e ∈ (t.mach.core s.curCore).estate, e.2.kind = 2 ∧ e.2.uid = g.uid ∧ e.2.key = slotKey ((c.slot j).gen + 1) j) ∧
        (applyWrites g ws).lsts = .ok ∧ (isV w.d = true → ∀ x ∈ ps, (applyWrites g ws).readV w.d.toNat x = handleOf s.curCore ((c.slot j).gen + 1) j) ∧
        (isK w.d = true → w.b ≠ w.d → (applyWrites g ws).readK (w.d.toNat - 48) = handleOf s.curCore ((c.slot j).gen + 1) j))) ∧
  (∀ i op n j, (i, op, n) ∈ [((.accrd w : Instr), 0xD6, 1), (.accld w, 0xDE, 4), (.accwr w, 0xD7, 1), (.accst w, 0xDB, 4)] → Issues s slot g (fieldsA op w) →
    let k1 := (blockWord g (fieldsA op w) 1).toNat
    let elem := fun x t => (k1 % 128 + (g.reg w.b t).toNat) % 128 * 128 + (if n = 1 then 32 * (k1 / 256 % 4) + t else 4 * t) + x
    let a := c.slot j
    k1 < 1024 → k1 / 128 % 2 = 0 → (n = 4 → k1 < 256) → s.mach.handleSlot s.curCore (blockWord g (fieldsA op w) 0) = some j →
    s.mach.accUnsure s.curCore g j = false →
    ((op = 0xD6 ∨ op = 0xDE) → (∀ t ∈ ps, ∀ x, x < n → elem x t ∉ a.bad) →
      ∃ t g' ws, exec i s = .next t ∧ Sends s t slot g g' [.result ws (regItems w.d n) false] ∧
        g'.rest = ({ g with pc := g.pc + 4, sb := g.sb ||| regItems w.d n } : Group).rest ∧
        HoldsWide g (applyWrites g ws) w.d n ps a.ftag (fun x t => a.elems.getD (elem x t) 0)) ∧
    ((op = 0xD7 ∨ op = 0xDB) → (isV w.d = true → ∀ x, x < n → g.tagV (w.d.toNat + x) = 0 ∨ g.tagV (w.d.toNat + x) = a.ftag) →
      ∃ t g' y, exec i s = .next t ∧ Replies s t slot g g' [] ∧ g'.rest = ({ g with pc := g.pc + 4 } : Group).rest ∧
        (t.mach.core s.curCore).slot j = y ∧ y = { a with elems := y.elems, bad := y.bad } ∧
        (∀ u ∈ ps, ∀ x, x < n → y.elems.getD (elem x u) 0 = g.regAt w.d x u ∧ elem x u ∉ y.bad) ∧
        (∀ e, (∀ u ∈ ps, ∀ x, x < n → e ≠ elem x u) → y.elems.getD e 0 = a.elems.getD e 0 ∧ (e ∈ y.bad ↔ e ∈ a.bad)) ∧
        ∀ x, x ≠ j → (t.mach.core s.curCore).slot x = c.slot x)) ∧
  (Issues s slot g (fieldsA 0xD5 w) →
    let h := g.reg w.a (ps.head?.getD 0)
    let o := 8 * clusterOf s.curCore + h.toNat / 256 % 8
    (s.mach.handleSlot o h = none → ∃ t g', exec (.mrel w) s = .next t ∧ AnswersLater s t slot g g' w.d .mismatch) ∧
    ∀ j x, s.mach.handleSlot o h = some j → (s.mach.holdings s.curCore g.uid).find? (fun e =>
        e.1 == o && e.2.2.kind == 2 && e.2.2.key == slotKey ((s.mach.core o).slot j).gen j) = some x → (s.mach.core o).slotInUse j = false →
      ∃ t g', exec (.mrel w) s = .next t ∧ t.mach.group? s.curCore slot = some g' ∧ g'.sb = g.sb ||| regItems w.d 1 ∧
        ((t.mach.core o).slot j).live = false ∧ (t.mach.core o).estate.get? x.2.1 = none ∧
        t.mach.msgs.map (·.body) = s.mach.msgs.map (·.body) ++ [answer w.d .ok])

/-- The engine side of a group (R280, R288, R291): MWAIT goes on when no more than N operations are outstanding and waits otherwise; MPROG and MSTAT read the oldest
operation, tagged N32; MCANCEL takes every operation of the group from the queue; FENCE.OPND marks all that was issued before it; GANG writes the gang register with its count and members, or answers
MISMATCH for a list that is none. -/
def Obligations.EngineViews : Prop := ∀ s slot g,
  let c := s.mach.core s.curCore
  let mine := fun (o : EngineOp) => o.members.any (fun x => x.2 == g.uid)
  let oldest := c.engine.find? mine
  (∀ w : WordI, Issues s slot g (fieldsI 0xD4 w) → g.participants w.g ≠ [] → ∃ t g', exec (.mwait w) s = .next t ∧ Sends s t slot g g' [] ∧
    g'.rest = ({ g with pc := g.pc + 4, eng := { g.eng with unsure := g'.eng.unsure, sure := g'.eng.sure } } : Group).rest ∧
    g'.wait = (if g.eng.out ≤ w.imm.toNat then none else some (.mwait w.imm.toNat)) ∧
    g'.eng.unsure = (if g.eng.out ≤ w.imm.toNat then g.eng.unsure.filter (fun o => c.engine.any (fun x => x.id == o.id))
      else g.eng.unsure) ∧
    (w.imm.toNat < g.eng.out → g'.eng.sure = g.eng.sure) ∧ (∀ e ∈ g.eng.sure, e ∈ g'.eng.sure) ∧
    (g.eng.out ≤ w.imm.toNat → ∀ o ∈ g.eng.unsure, (∀ x ∈ c.engine, x.id ≠ o.id) → ∃ e ∈ g'.eng.sure, e.1 = o.id)) ∧
  (∀ w : WordA, Issues s slot g (fieldsA 0xDA w) → ∃ t g', exec (.mprog w) s = .next t ∧ Stepped s t slot (fieldsA 0xDA w) g g' ∧ OnlyRegs g g' 4 ∧
    Holds g g' w.d (g.participants w.g) 2 (fun _ _ => BitVec.ofNat 32 (match oldest with | some o => o.prog | none => g.eng.prog))) ∧
  (∀ w : WordA, Issues s slot g (fieldsA 0xDD w) → g.eng.out < 16 → (∀ o, oldest = some o → o.prog < 131072) →
    ∃ t g' x, exec (.mstat w) s = .next t ∧ Stepped s t slot (fieldsA 0xDD w) g g' ∧ OnlyRegs g g' 4 ∧
    Holds g g' w.d (g.participants w.g) 2 (fun _ _ => x) ∧ (x.extractLsb' 24 8).toNat = g.eng.last.code ∧ (x.extractLsb' 20 4).toNat = g.eng.out ∧
    (x.extractLsb' 17 3).toNat = (match oldest with | some o => o.state.num | none => 0) ∧
    (x.extractLsb' 0 17).toNat = (match oldest with | some o => o.prog | none => 0)) ∧
  (∀ w : WordA, Issues s slot g (fieldsA 0xDF w) → g.participants w.g ≠ [] → c.latches = [] →
    ∃ t g', exec (.mcancel w) s = .next t ∧ t.mach.group? s.curCore slot = some g' ∧ (t.mach.core s.curCore).engine = c.engine.filter (fun o => !mine o) ∧
      t.mach.msgs.map (·.body) = s.mach.msgs.map (·.body) ++ [answer w.d .ok] ∧ g'.pc = g.pc + 4 ∧ g'.sb = g.sb ||| regItems w.d 1 ∧ SameMemory s.mach t.mach) ∧
  (∀ w : WordA, Issues s slot g (fieldsA 0xDC w) → g.participants w.g ≠ [] → ∃ t g', exec (.fenceOpnd w) s = .next t ∧
    Stepped s t slot (fieldsA 0xDC w) g g' ∧ g'.rest = ({ g with pc := g.pc + 4, eng := { g.eng with opnd := some s.mach.nextUid } } : Group).rest) ∧
  (∀ w : WordA, ∀ b, Issues s slot g (fieldsA 0xD9 w) → g.participants w.g ≠ [] → s.mach.block? s.curCore g = some b →
    let k0 := (blockWord g (fieldsA 0xD9 w) 0).toNat
    let k1 := (blockWord g (fieldsA 0xD9 w) 1).toNat
    let cnt := k1 / 65536
    let all := (List.range 6).map (fun j => (k0 + k1 % 65536 * 2 ^ 32) / 2 ^ (8 * j) % 256)
    let listed := 2 ≤ cnt ∧ cnt ≤ 6 ∧ (∀ x ∈ all.drop cnt, x = 0) ∧ (all.take cnt).Nodup ∧ g.id.gindex ∈ all.take cnt ∧
      ∀ x ∈ all.take cnt, ∃ y, b.members.get? x = some y ∧ y.role = .matrix
    let gone := (all.take cnt).any b.gone
    let gives := fun (st : Status) (gang : BitVec 64) => ∃ t g', exec (.gang w) s = .next t ∧ Stepped s t slot (fieldsA 0xD9 w) g g' ∧ g'.lsts = st ∧
      g'.gang = gang ∧ g'.rest = ({ g with pc := g.pc + 4, lsts := st, gang, k := if isK w.d then g.k.set (w.d.toNat - 48) st.word else g.k } : Group).rest
    k1 < 8 * 65536 → (¬listed → gives .mismatch g.gang) ∧
    (listed → gives (if gone then .gangbroken else .ok) (BitVec.ofNat 64 ((k0 + k1 % 65536 * 2 ^ 32) * 256 + (if gone then 16 else 0) + cnt))))

/-- ACQ, REL, FENCE, BIND, UNBIND and PROMISE at issue (R268, R294 to R298, R323): after its checks each sends one request with its object's address and its span's tag and leaves D pending; ACQ, REL and FENCE hold the
group's later memory instructions, and an ACQ of a lock and a PROMISE reserve an estate entry. An ACQ of a lock the group holds answers MISMATCH. -/
def Obligations.OwnershipRequests : Prop := ∀ w : WordA, ∀ s slot g m l, g.participants w.g ≠ [] → g.gated = false → g.id.duplex = false →
  let c := s.mach.core s.curCore
  let k := blockWord g (fieldsA 0xE0 w)
  let k1 := (k 1).toNat
  let sp := g.span (k1 % 16)
  let va := sp.ptr + (k 0).signExtend 56
  let items := regItems w.d 1
  let room := g.id.copyIndex = true ∨ c.estateFree ≠ 0
  (Issues s slot g (fieldsA 0xE0 w) → k1 < 768 → k1 / 128 % 2 = 0 → k1 / 16 % 8 < 6 → inWindows va = false →
    objectAim (s.who slot g (fieldsA 0xE0 w)) (s.issued slot g (fieldsA 0xE0 w) 4) g sp va 2 = .ok (m, l) →
    let mode := k1 / 256
    (mode ≠ 0 → (s.mach.holding? s.curCore g.uid 0 (va.setWidth 64)).isSome = true →
      ∃ t g', exec (.acq w) s = .next t ∧ Sends s t slot g g' [answer w.d .mismatch] ∧
        g'.rest = ({ g with pc := g.pc + 4, sb := g.sb ||| items, acqHold := g.acqHold ||| items } : Group).rest) ∧
    ((mode ≠ 0 → s.mach.holding? s.curCore g.uid 0 (va.setWidth 64) = none ∧ room) → ∃ t g', exec (.acq w) s = .next t ∧
      Replies s t slot g g' [.object (.acq mode (k1 / 16 % 8) w.d) l va sp.tag false] ∧
      (t.mach.core s.curCore).reserved = c.reserved + (if mode = 0 ∨ g.id.copyIndex = true then 0 else 1) ∧
      g'.rest = ({ g with pc := g.pc + 4, sb := g.sb ||| items, acqHold := g.acqHold ||| items } : Group).rest)) ∧
  (Issues s slot g (fieldsA 0xE1 w) → k1 < 96 → inWindows va = false →
    objectAim (s.who slot g (fieldsA 0xE1 w)) (s.issued slot g (fieldsA 0xE1 w) 4) g sp va 2 = .ok (m, l) → ∃ t g', exec (.rel w) s = .next t ∧
      Sends s t slot g g' [.object (.rel (k1 / 16) w.d false) l va sp.tag false] ∧
      g'.rest = ({ g with pc := g.pc + 4, sb := g.sb ||| items, relHold := g.relHold + 1 } : Group).rest) ∧
  (∀ v : WordI, Issues s slot g (fieldsI 0xE4 v) → v.g = w.g → ∃ t g', exec (.fence v) s = .next t ∧
    Sends s t slot g g' [.object (.fence v.imm.toNat v.d) (.dram 0) 0 0 false] ∧
    g'.rest = ({ g with pc := g.pc + 4, sb := g.sb ||| regItems v.d 1, acqHold := g.acqHold ||| regItems v.d 1 } : Group).rest) ∧
  (∀ i op add, (i, op, add) ∈ [((.bind w : Instr), 0xE2, true), (.unbind w, 0xE3, false)] → Issues s slot g (fieldsA op w) →
    let k3 := (k 3).toNat
    let obj := (g.span (k3 % 16)).ptr + (k 0).signExtend 56
    let base := (g.span (k3 / 16)).ptr + (k 1).signExtend 56
    k3 < 256 → obj.toNat % 8 = 0 → (g.span (k3 % 16)).check obj.toNat 8 2 = none → (g.span (k3 / 16)).bounds base.toNat (k 2).toNat = none →
    ∃ t g', exec i s = .next t ∧ g'.rest = ({ g with pc := g.pc + 4, sb := g.sb ||| items } : Group).rest ∧
      Sends s t slot g g' [.object (.bind base (base + (k 2).setWidth 56) add w.d) (.dram 0) obj (g.span (k3 % 16)).tag false]) ∧
  (Issues s slot g (fieldsA 0xE5 w) → k1 < 16 → room →
    objectAim (s.who slot g (fieldsA 0xE5 w)) (s.issued slot g (fieldsA 0xE5 w) 4) g sp va 2 = .ok (m, l) → ∃ t g', exec (.promise w) s = .next t ∧
      Replies s t slot g g' [.object (.promise w.d) l va sp.tag false] ∧ (t.mach.core s.curCore).reserved = c.reserved + (if g.id.copyIndex then 0 else 1) ∧
      g'.rest = ({ g with pc := g.pc + 4, sb := g.sb ||| items } : Group).rest)

/-- Estates (R126, R129, R130, R299 to R301): HEIR sets the default heir, or the heir of every holding, at once; HOLD records a holding with the default heir and the next order number; RELINQ ends a hold, gives a claim back, or sends a
promise's value behind the release of its object; ESTAT reads the holdings in reverse order of acquisition, tagged N32. -/
def Obligations.EstateWords : Prop := ∀ w : WordA, ∀ s slot g, g.participants w.g ≠ [] →
  let c := s.mach.core s.curCore
  let k := blockWord g (fieldsA 0xE6 w)
  let k1 := (k 1).toNat
  let sp := g.span (k1 % 16)
  let va := sp.ptr + (k 0).signExtend 56
  let okSaid := fun (t : State) => t.mach.msgs.map (·.body) = s.mach.msgs.map (·.body) ++ [answer w.d .ok]
  let keep := s.mach.keeper s.curCore g
  (Issues s slot g (fieldsA 0xE6 w) →
    let k0 := (k 0).toNat
    let idx := if k0 % 8 = 1 then k0 / 256 % 256 else 0
    let told := fun (g' : Group) (st : Status) => g'.lsts = st ∧ g'.k = if isK w.d then g.k.set (w.d.toNat - 48) st.word else g.k
    k1 < 256 → k 3 = 0 → k0 / 65536 % 16384 = 0 → k0 / 8 % 32 = 0 → k0 % 8 < 4 →
    (k0 % 8 = 1 → idx ≠ g.id.gindex ∧ ∃ b, s.mach.block? s.curCore g = some b ∧ idx < b.members.length) →
    (k0 / 2 ^ 31 = 1 → k 1 = 0 → k 2 = 0 → ∃ t g', exec (.heir w) s = .next t ∧ Stepped s t slot (fieldsA 0xE6 w) g g' ∧ told g' .ok ∧
      g'.rest = ({ g with pc := g.pc + 4, lsts := .ok, k := g'.k, dspec := k0 % 8, didx := idx } : Group).rest) ∧
    (k0 / 2 ^ 31 = 0 → (k0 / 2 ^ 30 = 0 → k1 % 16 ≠ 4 ∧ (k1 % 16 = 5 → k 2 = 0)) → s.mach.holdings keep.1 keep.2 = [] → ∃ t g', exec (.heir w) s = .next t ∧ Stepped s t slot (fieldsA 0xE6 w) g g' ∧ told g' .mismatch) ∧
    (k0 / 2 ^ 30 = 1 → s.mach.holdings keep.1 keep.2 ≠ [] → ∃ t g', exec (.heir w) s = .next t ∧ t.mach.group? s.curCore slot = some g' ∧ told g' .ok ∧
      ∀ o n e, o / 8 = keep.1 / 8 → (keep.2 = 0 → o = keep.1) → (s.mach.core o).estate.get? n = some e → e.uid = keep.2 →
        ∃ e', (t.mach.core o).estate.get? n = some e' ∧ e'.heir = k0 % 8 ∧ e'.hidx = idx)) ∧
  (Issues s slot g (fieldsA 0xE7 w) → k1 < 16 → va.toNat % 8 = 0 → sp.bounds va.toNat 8 = none →
    (s.mach.holdsObject s.curCore g (va.setWidth 64) = true → ∃ t g', exec (.hold w) s = .next t ∧ AnswersLater s t slot g g' w.d .mismatch) ∧
    (s.mach.holding? s.curCore g.uid 6 (va.setWidth 64) = none → g.id.copyIndex = false → c.estateFree ≠ 0 →
      ∃ t g' n, exec (.hold w) s = .next t ∧ Replies s t slot g g' [answer w.d .ok] ∧ c.estate.get? n = none ∧
        (t.mach.core s.curCore).estate = c.estate.set n
          { kind := 6, hmem := memberOf s.curCore, hslot := slot, uid := g.uid, heir := g.dspec, hidx := g.didx, brv := false, order := g.eseq
            key := va.setWidth 64 } ∧
        g'.rest = ({ g with pc := g.pc + 4, sb := g.sb ||| regItems w.d 1, eseq := g.eseq + 1 } : Group).rest)) ∧
  (Issues s slot g (fieldsA 0xE8 w) → va.toNat % 8 = 0 → k1 < 128 →
    (k1 / 16 = 6 → s.mach.holdsObject s.curCore g (va.setWidth 64) = false → ∃ t g', exec (.relinq w) s = .next t ∧ AnswersLater s t slot g g' w.d .mismatch) ∧
    (∀ o n e, k1 / 16 = 6 → g.id.copyIndex = false → s.mach.holding? s.curCore g.uid 6 (va.setWidth 64) = some (o, n, e) → ∃ t g', exec (.relinq w) s = .next t ∧
      t.mach.group? s.curCore slot = some g' ∧ g'.sb = g.sb ||| regItems w.d 1 ∧ (t.mach.core o).estate = (s.mach.core o).estate.erase n ∧ okSaid t) ∧
    (∀ m l lf o n, k1 / 16 = 4 → (s.issued slot g (fieldsA 0xE8 w) 4).access s.curCore g va 1 (fun _ => true) = .ok (m, l, lf) →
      s.mach.claimOn s.curCore g l.line = some (o, n) → g.writesLine 8 l.line = false → ∃ t g', exec (.relinq w) s = .next t ∧
      t.mach.group? s.curCore slot = some g' ∧ g'.sb = g.sb ||| regItems w.d 1 ∧ (t.mach.core o).claims.get? n = none ∧ okSaid t) ∧
    (∀ m l lf, k1 / 16 = 1 → (s.mach.holding? s.curCore g.uid 1 (va.setWidth 64)).isSome = true → g.gated = false → g.id.duplex = false →
      (s.issued slot g (fieldsA 0xE8 w) 4).access s.curCore g va 2 (fun _ => true) = .ok (m, l, lf) →
      (s.mach.ownerOf g va = none → ∃ t g', exec (.relinq w) s = .next t ∧ Sends s t slot g g' [.object (.relinq (g.reg w.b 0) w.d) l va sp.tag false] ∧
        g'.rest = ({ g with pc := g.pc + 4, sb := g.sb ||| regItems w.d 1 } : Group).rest) ∧
      (∀ obj m1 l1 lf1, s.mach.ownerOf g va = some obj → g.skipImplicit = false → m.access s.curCore g obj 2 (fun _ => true) = .ok (m1, l1, lf1) →
        ∃ t g' tag, exec (.relinq w) s = .next t ∧
          Sends s t slot g g' [.object (.implicitRel false) l1 obj tag false, .object (.relinq (g.reg w.b 0) w.d) l va sp.tag false] ∧
          g'.rest = ({ g with pc := g.pc + 4, sb := g.sb ||| regItems w.d 1, relHold := g.relHold + 1 } : Group).rest))) ∧
  (Issues s slot g (fieldsA 0xE9 w) → ∃ t g', ∃ hs : List (Nat × Nat × Estate), exec (.estat w) s = .next t ∧ Stepped s t slot (fieldsA 0xE9 w) g g' ∧ OnlyRegs g g' 4 ∧
    hs.Perm (s.mach.holdings keep.1 keep.2) ∧
    (let h := (s.mach.findGroup keep.1 slot keep.2).getD g
     hs.Pairwise (fun a b => (h.eseq - a.2.2.order).toNat ≤ (h.eseq - b.2.2.order).toNat)) ∧
    let word := fun (x : Word) (n : Nat) => (match hs[x.toNat]? with | some e => e.2.2.bits | none => 0).extractLsb' (32 * n) 32
    (isK w.d = false → HoldsWide g g' w.d 4 (g.participants w.g) 2 (fun n x => word (g.reg w.a x) n)) ∧
    (isK w.d = true → g'.v = g.v ∧ g'.preds = g.preds ∧ ∀ j, g'.readK j = ((g.participants w.g).foldl (fun h x =>
      (List.range 4).foldl (fun h' n => h'.setK (w.d.toNat - 48 + n) (word (h.reg w.a x) n)) h) g).readK j))

/-- WAITW, WAKE and the task words at issue (R302 to R306): WAITW leaves its group waiting for its word and sends its registration, WAKE sends its wake; ENQ sends its payload, counter and successor to the hub of the cluster it names, DEQ asks its own, with an
estate entry reserved and the line register pending, TDONE and DEPADD go to the hub of the handle's cluster, or answer MISMATCH where it names none and, for TDONE, where the group does not hold the task. ENQ, TDONE and DEPADD go behind an implicit release of the launch object. That the line register of a DEQ is pending from its issue until the hub has answered is the model's choice (log 82). -/
def Obligations.WaitsAndTasks : Prop := ∀ w : WordA, ∀ s slot g, g.participants w.g ≠ [] → g.gated = false → g.id.duplex = false →
  let k := blockWord g (fieldsA 0xEC w)
  let t0 := (g.participants w.g).head?.getD 0
  let ps := maskOf (g.participants w.g)
  let behind := fun (t : State) (g' : Group) (cl : Nat) (items : BitVec 96) (body : MsgBody) => ∃ rel x,
    Sends s t slot g g' (rel ++ [body]) ∧ t.mach.msgs.getLast? = some x ∧ x.place = hubPlace cl ∧ (s.mach.launchObject g = none → rel = []) ∧
    (∀ obj, s.mach.launchObject g = some obj → ∃ l tag b, rel = [.object (.implicitRel false) l obj tag b]) ∧
    g'.rest = ({ g with pc := g.pc + 4, sb := g.sb ||| items, relHold := g.relHold + rel.length
                        skipImplicit := g.skipImplicit && (s.mach.launchObject g).isNone } : Group).rest
  (∀ m sp va l, Issues s slot g (fieldsA 0xEA w) →
    wordAim (s.who slot g (fieldsA 0xEA w)) (s.issued slot g (fieldsA 0xEA w) 4) g 0 0 (fun l => l.rd) = .ok (m, sp, va, l) →
    ∃ t g', exec (.waitw w) s = .next t ∧ Sends s t slot g g' [.waiter va l sp.tag (g.reg w.b 0) w.d false] ∧ g'.wait = some (.waitw va w.d) ∧
      va = sp.ptr + (k 0).signExtend 56 ∧ g'.rest = ({ g with pc := g.pc + 4 } : Group).rest) ∧
  (∀ m sp va l, Issues s slot g (fieldsA 0xEB w) →
    wordAim (s.who slot g (fieldsA 0xEB w)) (s.issued slot g (fieldsA 0xEB w) 4) g 1 1 (fun l => l.w) = .ok (m, sp, va, l) →
    ∃ t g', exec (.wake w) s = .next t ∧ Sends s t slot g g' [.wake va w.d] ∧ va = sp.ptr + (k 0).signExtend 56 ∧
      g'.rest = ({ g with pc := g.pc + 4, sb := g.sb ||| regItems w.d 1 } : Group).rest) ∧
  (∀ way e cl m, Issues s slot g (fieldsA 0xEC w) →
    let k2 := (k 2).toNat
    let r := g.line (k2 % 8)
    k2 < 4194304 → k2 / 32768 % 2 = 0 → k2 / 8 % 32 = 0 → k 3 = 0 → taskAim g (k2 % 8) (k2 / 256 % 128) false t0 = .ok (way, e) →
    (k2 / 2097152 = 1 → s.mach.physical (clusterOf s.curCore) g.id.ctx (k2 / 65536 % 32) = some cl) → (k2 / 2097152 = 0 → cl = clusterOf s.curCore) →
    s.mach.badAccess s.curCore r 44 [(t0, way, e)] = none → s.mach.waysBusy s.curCore g.uid r 44 [(t0, way, e)] = false →
    implicitRelease (s.who slot g (fieldsA 0xEC w)) (s.issued slot g (fieldsA 0xEC w) 4) g (s.mach.launchObject g) = .ok m →
    ∃ t g', exec (.enq w) s = .next t ∧ behind t g' cl (regItems w.d 1 ||| regItems w.b 1)
      (.task (.enq (k 0) (k 1) (s.mach.wayBytes s.curCore r way e 44) (if k2 / 2097152 = 1 then k2 / 65536 % 32 else g.id.logical) w.d) w.b ps)) ∧
  (∀ way e, Issues s slot g (fieldsA 0xED w) →
    let k0 := (k 0).toNat
    k0 < 32768 → k0 / 8 % 32 = 0 → k 1 = 0 → taskAim g (k0 % 8) (k0 / 256) true t0 = .ok (way, e) →
    (g.id.copyIndex = true ∨ (s.mach.core s.curCore).estateFree ≠ 0) →
    ∃ t g', exec (.deq w) s = .next t ∧ Replies s t slot g g' [.task (.deq (k0 % 8) way e w.d) w.b ps] ∧
      (t.mach.core s.curCore).reserved = (s.mach.core s.curCore).reserved + (if g.id.copyIndex then 0 else 1) ∧
      g'.rest = ({ g with pc := g.pc + 4, sb := g.sb ||| (regItems w.d 1 ||| regItems w.b 1 ||| itemBit (itemLine (k0 % 8))) } : Group).rest) ∧
  (∀ i op, (i, op) ∈ [((.tdone w : Instr), 0xEE), (.depadd w, 0xEF)] → Issues s slot g (fieldsA op w) →
    let h := g.reg w.a t0
    let cl := s.mach.taskHub (clusterOf s.curCore) g.id.ctx h
    let held := s.mach.holding? s.curCore g.uid 3 (h.setWidth 64)
    (cl = none ∨ op = 0xEE ∧ held = none → ∃ t g', exec i s = .next t ∧ AnswersLater s t slot g g' w.d .mismatch) ∧
    ∀ c m, cl = some c → (op = 0xEE → held.isSome = true) → implicitRelease (s.who slot g (fieldsA op w)) (s.issued slot g (fieldsA op w) 4) g (s.mach.launchObject g) = .ok m →
      ∃ t g', exec i s = .next t ∧
        behind t g' c (regItems w.d 1) (.task (if op = 0xEE then .tdone h else .depadd h (g.reg w.b t0)) w.d ps))

/-- The supervisor's readers (R120, R159, R307, R309, R311 to R313, R316): MBOXRD takes the POSTED record of the lowest sequence number and MBOXWR frees a TAKEN entry and resumes its group on request; RDG reads and WRG writes registers of a stopped group, and a register word with a bit that R309 calls zero is ILLEGAL, which stops the supervisor group with a kind-1 event; XLINV drops cached translations; FQPOP takes the oldest
entry of a fault queue and FQREPLAY replays a popped one's accesses; CYCLES, PERFRD and SIGRD read the clock, a counter and a signature; BRK stops the group. Any other operand answers MISMATCH. That MBOXWR resumes a SYSCALL's group at the next word is the model's choice (log 42), and so is that a record read by MBOXRD shows STATE 2 (log 58). -/
def Obligations.SupervisorReaders : Prop := ∀ w : WordA, ∀ s slot g, g.participants w.g ≠ [] →
  let c := s.mach.core s.curCore
  let ps := g.participants w.g
  let t0 := ps.head?.getD 0
  let k := blockWord g (fieldsA 0xF2 w)
  let zeros := (k 1).toNat < 2 ^ 21 ∧ (k 1).toNat / 4096 % 16 = 0
  let mismatch := fun (i : Instr) => ∃ t g', exec i s = .next t ∧ AnswersLater s t slot g g' w.d .mismatch
  let reads := fun (i : Instr) (n : Nat) (ts : List Nat) (tag : FTag) (val : Nat → Nat → Word) (P : State → Group → Prop) => ∃ t g' ws, exec i s = .next t ∧
    Sends s t slot g g' [.result ws (regItems w.d n) false] ∧ g'.rest = ({ g with pc := g.pc + 4, sb := g.sb ||| regItems w.d n } : Group).rest ∧
    HoldsWide g (applyWrites g ws) w.d n ts tag val ∧ P t (applyWrites g ws)
  (Issues s slot g (fieldsA 0xF0 w) → g.freeze = none → g.stopMark = false →
    ((∀ e ∈ c.mbox, e.2.taken = true) → reads (.mboxrd w) 1 ps 2 (fun _ x => if x = 16 then 0xFFFFFFFF else 0) (fun t _ => (t.mach.core s.curCore).mbox = c.mbox)) ∧
    ∀ n r, c.posted = some (n, r) → reads (.mboxrd w) 1 ps 2 (fun _ x => if x = 16 then BitVec.ofNat 32 n else r.words.getD x 0)
      (fun t _ => (t.mach.core s.curCore).mbox = c.mbox.set n { r with taken := true })) ∧
  (Issues s slot g (fieldsA 0xF1 w) →
    let n := (g.reg w.a t0).toNat
    ((∀ r, c.mbox.get? n = some r → r.taken = false ∨ 1 < (g.reg w.b t0).toNat) → mismatch (.mboxwr w)) ∧
    ∀ r, c.mbox.get? n = some r → r.taken = true → c.stopList = [] → g.freeze = none → g.stopMark = false →
      (g.reg w.b t0 = 0 → ∃ t g', exec (.mboxwr w) s = .next t ∧ AnswersLater s t slot g g' w.d .ok ∧ (t.mach.core s.curCore).mbox = c.mbox.erase n) ∧
      (∀ x, g.reg w.b t0 = 1 → s.mach.group? s.curCore r.slot = some x → r.slot ≠ slot → x.state = .stopped → x.freeze = none → x.stopMark = false →
        x.inReserve = false → x.parking = false → x.atSafe = false → x.recovers = false → x.xlatFailed = none → x.owed = none → ∃ t x', exec (.mboxwr w) s = .next t ∧
        t.mach.group? s.curCore r.slot = some x' ∧ (∀ e ∈ (t.mach.core s.curCore).mbox, e.2.slot ≠ r.slot) ∧
        x' = { x with state := .ready, cause := .none, runCount := 0, sb := x.sb &&& ~~~x.freezeBits, freezeBits := 0 } ∧
        t.mach.msgs.map (·.body) = s.mach.msgs.map (·.body) ++ [answer w.d .ok])) ∧
  (Issues s slot g (fieldsA 0xF2 w) → ∀ n x cls idx u v, zeros → rdgBad x cls idx u = false → (s.issued slot g (fieldsA 0xF2 w) 4).regAim s.curCore (k 0) (k 1) = some (n, x, cls, idx, u) →
    let r := x.line (idx / 8)
    let bits := fun (y lo k : Nat) => BitVec.ofNat 32 (y / 2 ^ lo % 2 ^ k)
    let way := fun n => (r.lines.getD n 0).toNat / 128
    let defined := idx < x.valloc ∧ idx < 47 ∧ (x.state = .preempted → x.dead idx = false)
    (((cls = 0 ∧ defined ∧ v = x.readV idx u) ∨ (cls = 1 ∧ idx < 16 ∧ v = x.readK idx) ∨
      (cls = 2 ∧ idx = 0 ∧ ∀ p, p < 32 → v.getLsbD p = (decide (p < 8) && x.pred p u)) ∨ (cls = 3 ∧ defined ∧ v = (x.tagV idx).setWidth 32) ∨
      (cls = 4 ∧ idx < 128 ∧ idx % 8 < 6 ∧ v = (x.span (idx / 8)).image.extractLsb' (32 * (idx % 8)) 32) ∨
      (cls = 5 ∧ idx < 64 ∧ idx % 8 < 7 ∧ (r.lines = [] ∨ r.lines.length = 4) ∧ v = bits (r.state.num + (if r.w then 8 else 0) + (if r.spad then 16 else 0) +
        (r.lines.length - 1) * 2 ^ 5 + way 0 * 2 ^ 8 + way 1 * 2 ^ 57 + way 2 * 2 ^ 106 + way 3 * 2 ^ 155 + r.tag.toNat * 2 ^ 204) (32 * (idx % 8)) 32) ∨
      (cls = 5 ∧ idx < 64 ∧ idx % 8 = 7 ∧ v = BitVec.ofNat 32 ((if r.bound.getLsbD u then 2 ^ 9 else 0) + (r.way.getD u 0).toNat * 2 ^ 7 + (r.off.getD u 0).toNat)) ∨
      (cls = 6 ∧ idx < 2 ∧ v = x.gang.extractLsb' (32 * idx) 32) ∨
      (cls = 7 ∧ idx = 0 ∧ v = x.statusWord x.state) ∨ (cls = 8 ∧ idx = 0 ∧ v = x.bereave) ∨ (cls = 9 ∧ idx = 0 ∧ v = x.pc.setWidth 32) ∨
      (cls = 9 ∧ idx = 1 ∧ v = (x.pc >>> 32).setWidth 32) ∨ (cls = 10 ∧ idx = 0 ∧ v = x.amask) ∨ (cls = 10 ∧ idx = 1 ∧ v = BitVec.ofNat 32 x.depth) ∨
      (cls = 10 ∧ 2 ≤ idx ∧ idx < 18 ∧ v = x.stack.getD (idx - 2) 0) ∨ (cls = 11 ∧ idx = 0 ∧ v = x.sb.extractLsb' 0 32) ∨
      (cls = 11 ∧ idx = 1 ∧ v = bits x.sb.toNat 32 15 ||| (bits x.sb.toNat 48 16 <<< 16)) ∨
      (cls = 11 ∧ idx = 2 ∧ v = bits x.sb.toNat 64 8 ||| (bits x.sb.toNat 72 8 <<< 8) ||| (bits x.sb.toNat 80 16 <<< 16)) ∨
      (cls = 12 ∧ idx = 0 ∧ v = BitVec.ofNat 32 (x.batch.bseq.toNat * 2 ^ 24 + x.batch.bdone.toNat * 2 ^ 16 + x.batch.openn * 2 ^ 8)) ∨
      (cls = 12 ∧ idx = 1 ∧ v = x.tokens) ∨ (cls = 12 ∧ idx = 2 ∧ v = x.eseq) ∨ (cls = 12 ∧ idx = 3 ∧ v = BitVec.ofNat 32 (x.dspec * 256 + x.didx))) →
      ∃ t g', exec (.rdg w) s = .next t ∧ Sends s t slot g g' [.result (writeField w.d 0 v ++ statusWrites w.b .ok) (regItems w.b 1 ||| regItems w.d 1) false]) ∧
    ((cls = 0 ∧ 47 ≤ idx) ∨ (cls = 1 ∧ 16 ≤ idx) ∨ (cls = 2 ∧ 0 < idx) ∨ (cls = 3 ∧ 47 ≤ idx) ∨ (cls = 4 ∧ (128 ≤ idx ∨ 6 ≤ idx % 8)) ∨ (cls = 5 ∧ 64 ≤ idx) ∨
      (cls = 6 ∧ 2 ≤ idx) ∨ ((cls = 7 ∨ cls = 8) ∧ 0 < idx) ∨ (cls = 9 ∧ 2 ≤ idx) ∨ (cls = 10 ∧ 18 ≤ idx) ∨ (cls = 11 ∧ 3 ≤ idx) ∨ (cls = 12 ∧ 4 ≤ idx) ∨ 13 ≤ cls →
      ∃ t g', exec (.rdg w) s = .next t ∧ Sends s t slot g g' [.result (statusWrites w.b .mismatch) (regItems w.b 1 ||| regItems w.d 1) false])) ∧
  (∀ i, i = .rdg w ∧ Issues s slot g (fieldsA 0xF2 w) ∨ i = .wrg w ∧ Issues s slot g (fieldsA 0xF3 w) → ¬zeros → g.id.sup = true →
    ∃ t, exec i s = .next t ∧ SameMemory s.mach t.mach ∧ t.mach.group? s.curCore slot =
      some { g with state := .stopped, cause := .fault, fcode := some .illegal, runCount := 0 } ∧ Logged s t 1 s.curCore (g.pc.toNat + 2 ^ 120)) ∧
  (Issues s slot g (fieldsA 0xF2 w) → zeros → (s.issued slot g (fieldsA 0xF2 w) 4).regAim s.curCore (k 0) (k 1) = none →
    ∃ t g', exec (.rdg w) s = .next t ∧ Sends s t slot g g' [.result (statusWrites w.b .mismatch) (regItems w.b 1 ||| regItems w.d 1) false]) ∧
  (Issues s slot g (fieldsA 0xF3 w) → ∀ n x cls idx u, zeros → (s.issued slot g (fieldsA 0xF3 w) 4).regAim s.curCore (k 0) (k 1) = some (n, x, cls, idx, u) →
    let val := g.reg w.d t0
    let clear := fun lo k => ∀ b, lo ≤ b → b < lo + k → x.sb.getLsbD b = false
    let writes := fun (P : Group → Prop) => ∃ t x', exec (.wrg w) s = .next t ∧ t.mach.group? s.curCore n = some x' ∧ P x' ∧
      t.mach.msgs.map (·.body) = s.mach.msgs.map (·.body) ++ [answer w.b .ok]
    (s.mach.group? s.curCore n = some x →
      (cls = 0 → idx < 47 → clear idx 1 → writes (fun x' => x' = { x with
        v := if idx < x.valloc then x.v.set (32 * idx + u) val else x.v, bad := x.bad.filter (· != 32 * idx + u) })) ∧
      (cls = 1 → idx < 16 → clear (48 + idx) 1 → writes (fun x' => x' = { x with k := x.k.set idx val, bad := x.bad.filter (· != 32 * (48 + idx)) })) ∧
      (cls = 2 → idx = 0 → clear 64 8 → writes (fun x' => x' = { x with preds := x'.preds, bad := x.bad.filter (fun b => b / 32 < 64) } ∧
        ∀ p b, b < 32 → x'.pred p b = if b = u ∧ 0 < p ∧ p < 8 then val.getLsbD p else x.pred p b)) ∧
      (cls = 3 → idx < 47 → clear idx 1 → val.toNat % 16 < 10 → writes (fun x' => x' = { x with
        vtag := if idx < x.valloc then x.vtag.set idx (val.setWidth 4) else x.vtag })) ∧
      (cls = 4 → idx < 128 → idx % 8 < 6 → writes (fun x' => x' = { x with spans := x'.spans } ∧ ∀ i, x'.span i = if i = idx / 8 then
        Span.ofImage (((x.span i).image &&& ~~~(0xFFFFFFFF#192 <<< (32 * (idx % 8)))) ||| (val.setWidth 192 <<< (32 * (idx % 8)))) else x.span i)) ∧
      (cls = 6 → idx < 2 → writes (fun x' => x' = { x with gang := x'.gang } ∧ ∀ b, b < 64 → x'.gang.getLsbD b =
        (decide (b < 3 ∨ b = 4 ∨ (8 ≤ b ∧ b < 56)) && if b / 32 = idx then val.getLsbD (b % 32) else x.gang.getLsbD b)))) ∧
    (cls = 5 ∨ 7 ≤ cls ∨ (cls = 0 ∧ 47 ≤ idx) ∨ (cls = 1 ∧ 16 ≤ idx) ∨ (cls = 2 ∧ 0 < idx) ∨ (cls = 3 ∧ (47 ≤ idx ∨ 10 ≤ val.toNat % 16)) ∨
      (cls = 4 ∧ (128 ≤ idx ∨ 6 ≤ idx % 8)) ∨ (cls = 6 ∧ 2 ≤ idx) ∨ ((cls = 0 ∨ cls = 3) ∧ ¬ clear idx 1) ∨ (cls = 1 ∧ ¬ clear (48 + idx) 1) ∨ (cls = 2 ∧ ¬ clear 64 8) →
      ∃ t g', exec (.wrg w) s = .next t ∧ Sends s t slot g g' [.result (statusWrites w.b .mismatch) (regItems w.b 1) false])) ∧
  (Issues s slot g (fieldsA 0xF7 w) → s.mach.jobs = [] → s.mach.queues = [] → ∃ t g', exec (.xlinv w) s = .next t ∧ AnswersLater s t slot g g' w.d .ok ∧
    let start : Va := (k 2).extractLsb' 0 24 ++ k 1
    t.mach.walker = s.mach.walker.filter (fun e => !(e.ctx == (k 0).toNat % 65536 && ((k 3).toNat == 0 ||
      (start.toNat / 65536 ≤ e.page && e.page < start.toNat / 65536 + (k 3).toNat))))) ∧
  (Issues s slot g (fieldsA 0xF8 w) → ∀ x, s.mach.ctxs.get? (g.reg w.a t0).toNat = some x → x.state ≠ .free → x.fqcons = false →
    (x.fq = [] → ∃ f : Nat → Word, reads (.fqpop w) 1 (ps.filter (· < 9)) 2 (fun _ y => if y = 8 then Status.empty.word else f y) (fun _ h => h.lsts = .empty)) ∧
    (∀ e es, x.fq = e :: es → reads (.fqpop w) 1 (ps.filter (· < 9)) 2 (fun _ y => if y = 8 then 0 else e.words.getD y 0) (fun t h => h.lsts = .ok ∧
      (t.mach.ctx (g.reg w.a t0).toNat).fqhead = x.fqhead + 1 ∧ (x.unposted = [] → (t.mach.ctx (g.reg w.a t0).toNat).fq = es) ∧
      (e.kind = 1 → (t.mach.ctx (g.reg w.a t0).toNat).popped = x.popped ++ [e])))) ∧
  (Issues s slot g (fieldsA 0xF9 w) →
    let n := (g.reg w.b t0).toNat
    ((∀ x, s.mach.ctxs.get? (n % 65536) = some x → ∀ e ∈ x.popped, e.seq ≠ g.reg w.a t0) → mismatch (.fqreplay w)) ∧
    ∀ x e, s.mach.ctxs.get? (n % 65536) = some x → x.popped.find? (fun e => e.seq == g.reg w.a t0) = some e → n < 65536 →
      (∀ q ∈ s.mach.queues, ∀ j, q.2.token = some j → j ∉ e.tokens) → (∀ q ∈ s.mach.jobs, ∀ j, q.token = some j → j ∉ e.tokens) → ∃ t, exec (.fqreplay w) s = .next t ∧
      (t.mach.ctx n).popped = x.popped.erase e ∧ t.mach.msgs.getLast?.map (·.body) = some (answer w.d .ok) ∧
      ∀ o n' y j va b i, s.mach.group? o n' = some y → ¬(o = s.curCore ∧ n' = slot) → y.wait = some (.xlat j va b i) → j ∈ e.tokens →
        t.mach.group? o n' = some { y with wait := none }) ∧
  (Issues s slot g (fieldsA 0xFA w) → ∃ t g', exec (.cycles w) s = .next t ∧ Stepped s t slot (fieldsA 0xFA w) g g' ∧ OnlyRegs g g' 4 ∧
    let now := ((s.issued slot g (fieldsA 0xFA w) 4).core s.curCore).cycle
    (isK w.d = false → Holds64 g g' w.d ps 2 (fun _ x => BitVec.ofNat 64 (now + (g.active.takeWhile (· != x)).length))) ∧
    (isK w.d = true → Holds64 g g' w.d [0] 2 (fun _ _ => BitVec.ofNat 64 now))) ∧
  (∀ v : WordI, v.g = w.g → Issues s slot g (fieldsI 0xFB v) → g.id.sup = false → Faults (.brk v) s slot g .brk 0) ∧
  (Issues s slot g (fieldsA 0xFC w) → reads (.perfrd w) 2 ps 0 (fun n x =>
    (if (g.reg w.a x).toNat < 16 then (((s.issued slot g (fieldsA 0xFC w) 4).core s.curCore).perf.getD (g.reg w.a x).toNat 0).setWidth 64 else 0#64).extractLsb' (32 * n) 32)
    (fun _ _ => True)) ∧
  (Issues s slot g (fieldsA 0xFD w) → ∀ x, s.mach.slotGroup? s.curCore (g.reg w.a t0).toNat = some x → (g.reg w.a t0).toNat ≠ slot → (g.reg w.a t0).toNat < 2048 →
    ∀ sig : Dword, (x.id.duplex = false ∧ sig = 0) ∨ (x.id.duplex = true ∧ g.reg w.b t0 = 0 ∧ sig = x.dup.sig) ∨
      (x.id.duplex = true ∧ g.reg w.b t0 = 2 ∧ sig = BitVec.ofNat 64 x.dup.nst) →
    reads (.sigrd w) 2 [0] 0 (fun n _ => sig.extractLsb' (32 * n) 32) (fun _ _ => True))

/-- The supervisor's control words (R310, R314, R315, R354, R357): GSTOP stops a READY group with CAUSE 3 and a record of KIND 2, marks a group that issues or is away, and answers MISMATCH for a STOPPED one; GRESUME resumes a group so stopped, or releases or cancels a HELD copy or operation; GKILL ends a group; HARVEST admits, revokes, restores and dismisses the
harvest context; CTXSW saves by asking pre-emption of every owner group of the context, and restores. That a stop by GSTOP leaves FCODE without a code is the model's choice (log 84), and so is that the mark of a group that issues stays until a run boundary (log 59). -/
def Obligations.SupervisorControl : Prop := ∀ w : WordA, ∀ s slot g, g.participants w.g ≠ [] →
  let c := s.mach.core s.curCore
  let t0 := (g.participants w.g).head?.getD 0
  let n := (g.reg w.a t0).toNat
  let k0 := (blockWord g (fieldsA 0xFE w) 0).toNat
  let ctx := (blockWord g (fieldsA 0xFE w) 1).toNat % 65536
  let okSaid := fun (t : State) => t.mach.msgs.map (·.body) = s.mach.msgs.map (·.body) ++ [answer w.d .ok]
  let mismatch := fun (i : Instr) => ∃ t g', exec i s = .next t ∧ AnswersLater s t slot g g' w.d .mismatch
  (Issues s slot g (fieldsA 0xF4 w) → ∀ x, n < 2048 → s.mach.group? s.curCore n = some x → x.id.sup = false →
    (x.state = .stopped ∨ x.state = .ending → mismatch (.gstop w)) ∧
    (x.state = .ready → x.atSafe = false → ∃ t, exec (.gstop w) s = .next t ∧ okSaid t ∧ SameMemory s.mach t.mach ∧
      t.mach.group? s.curCore n = some { x with state := .stopped, cause := .gstop, fcode := none, runCount := 0, stopMark := false } ∧
      (g.freeze = none → g.stopMark = false → Records c (t.mach.core s.curCore)
        { kw := [x.readK 0, x.readK 1, x.readK 2, x.readK 3], pc := x.pc, addr := 0, amask := x.amask, code := 0, seq := 0, slot := n, ctx := x.id.ctx
          vfirst := 0, vcount := 0, kind := 2, taken := false })) ∧
    (x.state = .issuing ∨ x.state = .parked ∨ x.state = .preempted → ∃ t, exec (.gstop w) s = .next t ∧ okSaid t ∧
      t.mach.group? s.curCore n = some { x with stopMark := true })) ∧
  (Issues s slot g (fieldsA 0xF5 w) →
    (5 ≤ (g.reg w.b t0).toNat → mismatch (.gresume w)) ∧
    (∀ x, g.reg w.b t0 = 0 → n < 2048 → s.mach.group? s.curCore n = some x → x.id.sup = false →
      (x.state = .stopped → x.cause = .gstop ∨ x.cause = .freeze → x.freeze = none → x.stopMark = false → x.inReserve = false → x.parking = false → x.atSafe = false →
        x.xlatFailed = none → x.owed = none → ∃ t, exec (.gresume w) s = .next t ∧ okSaid t ∧ t.mach.group? s.curCore n =
          some { x with state := .ready, cause := .none, runCount := 0, sb := x.sb &&& ~~~x.freezeBits, freezeBits := 0 }) ∧
      (x.state ≠ .stopped ∨ (x.cause ≠ .gstop ∧ x.cause ≠ .freeze) → mismatch (.gresume w))) ∧
    (∀ e es, (c.chan (n % 16)).entries = e :: es →
      (e.state ≠ .held → g.reg w.b t0 = 1 ∨ g.reg w.b t0 = 2 → mismatch (.gresume w)) ∧
      (e.state = .held → g.reg w.b t0 = 1 → ∃ t, exec (.gresume w) s = .next t ∧ okSaid t ∧ ((t.mach.core s.curCore).chan (n % 16)).entries =
        { e with state := if e.started then .active else .queued, token := none } :: es) ∧
      (e.state = .held → g.reg w.b t0 = 2 → e.bar = none → ∃ t, exec (.gresume w) s = .next t ∧ okSaid t ∧ ((t.mach.core s.curCore).chan (n % 16)).entries = es)) ∧
    (∀ o os, c.engine = o :: os →
      (o.state ≠ .held → g.reg w.b t0 = 3 ∨ g.reg w.b t0 = 4 → mismatch (.gresume w)) ∧
      (o.state = .held → g.reg w.b t0 = 3 → ∃ t, exec (.gresume w) s = .next t ∧ okSaid t ∧ (t.mach.core s.curCore).engine = { o with state := .running, token := none } :: os) ∧
      (o.state = .held → g.reg w.b t0 = 4 → c.latches = [] → ∃ t, exec (.gresume w) s = .next t ∧ okSaid t ∧ (t.mach.core s.curCore).engine = os))) ∧
  (Issues s slot g (fieldsA 0xF6 w) → (2048 ≤ n → mismatch (.gkill w)) ∧
    ∀ x, n < 2048 → s.mach.group? s.curCore n = some x → x.id.sup = false → x.state ≠ .ending → x.ending = none → x.id.duplex = false → s.mach.viral = false →
      ∃ t x', exec (.gkill w) s = .next t ∧ t.mach.group? s.curCore n = some x' ∧ x'.state = .ending ∧ x'.ending = some { killed := true, released := true } ∧
        x'.wait = none ∧ x'.runCount = 0 ∧ t.mach.msgs.getLast?.map (·.body) = some (answer w.d .ok)) ∧
  (Issues s slot g (fieldsA 0xFE w) →
    (4 ≤ k0 ∨ (k0 = 0 ∧ c.harvestCtx ≠ none) ∨ ((k0 = 1 ∨ k0 = 2) ∧ c.harvestCtx = none) ∨ (k0 = 3 ∧ ∃ x ∈ c.groups, x.2.id.harvest = true) → mismatch (.harvest w)) ∧
    (k0 = 0 → c.harvestCtx = none → (s.mach.ctx ctx).state ≠ .free → (s.mach.ctx ctx).harvest = true →
      ∃ t, exec (.harvest w) s = .next t ∧ okSaid t ∧ (t.mach.core s.curCore).harvestCtx = some ctx) ∧
    (k0 = 1 → c.harvestCtx ≠ none → c.ops = [] → ∃ t, exec (.harvest w) s = .next t ∧
      (∀ o x, s.mach.group? s.curCore o = some x → x.id.harvest = true → x.state ≠ .ending → ∃ x', t.mach.group? s.curCore o = some x' ∧ x'.revoked = true) ∧
      ((∀ x ∈ c.groups, x.2.id.harvest = false) → okSaid t ∧ (t.mach.core s.curCore).ops = [])) ∧
    (k0 = 2 → c.harvestCtx ≠ none → ∃ t, exec (.harvest w) s = .next t ∧ okSaid t ∧
      ∀ o x, o ≠ slot → s.mach.group? s.curCore o = some x → t.mach.group? s.curCore o = some { x with revoked := false }) ∧
    (k0 = 3 → (∀ x ∈ c.groups, x.2.id.harvest = false) → (∀ x ∈ c.saved, x.2.id.harvest = false) →
      ∃ t, exec (.harvest w) s = .next t ∧ okSaid t ∧ (t.mach.core s.curCore).harvestCtx = none)) ∧
  (Issues s slot g (fieldsA 0xFF w) →
    (1 < k0 ∨ s.mach.clusterOwner (clusterOf s.curCore) ≠ some ctx → mismatch (.ctxsw w)) ∧
    (s.mach.clusterOwner (clusterOf s.curCore) = some ctx → c.ops = [] →
      (k0 = 0 → ∃ t, exec (.ctxsw w) s = .next t ∧
        ((∃ x ∈ c.groups, x.2.ownedBy (some ctx) = true) → t.mach.msgs = s.mach.msgs ∧ ∀ o x, s.mach.group? s.curCore o = some x → o ≠ slot →
          x.ownedBy (some ctx) = true → x.preempt = none → x.state ≠ .ending → t.mach.group? s.curCore o = some { x with preempt := some 0, testRuns := 0 }) ∧
        ((∀ x ∈ c.groups, x.2.ownedBy (some ctx) = false) → c.drained ctx = true → (∀ j, (c.slot j).live = false) → okSaid t ∧ (t.mach.core s.curCore).ops = [])) ∧
      (k0 = 1 → c.saved = [] → c.savedAcc = [] → ∃ t, exec (.ctxsw w) s = .next t ∧ okSaid t ∧ (t.mach.core s.curCore).ops = [])))

/-- What comes back to a core (R26, R233, R235, R87): a result is written and its scoreboard bits clear, a wait that it ends is over; a fetched line stands in its frame, PINNED with clean bytes under the register's tag, the
register's bit clear when nothing more is on its way; a stale notice marks the frame of its line and no other; the last acknowledgement of a register's write-backs clears its bit, and closes it if RECALL sent them. -/
def Obligations.ResultsArrive : Prop := ∀ s n x g, Arrives s n x → Seats s x g →
  (∀ ws cs wake, x.body = .result ws cs wake → g.atSafe = false → ∃ t g', exec (.resultWrite n) s = .next t ∧ SameMemory s.mach t.mach ∧ t.dev = s.dev ∧
    t.mach.msgs = s.mach.msgs.eraseIdx n ∧ t.mach.group? x.core x.slot = some g' ∧
    (let h := applyWrites g ws
     g'.v = h.v ∧ g'.vtag = h.vtag ∧ g'.k = h.k ∧ g'.preds = h.preds ∧ g'.lsts = h.lsts ∧ g'.tokens = h.tokens) ∧
    g'.sb = g.sb &&& ~~~cs ∧ g'.acqHold = g.acqHold &&& ~~~cs ∧ g'.wait = (if wake then none else g.wait) ∧ g'.pc = g.pc) ∧
  (∀ l way f line tag, x.body = .fetch l way f line tag → (g.line l).frames[way]? = some (some f) →
    ((s.mach.core x.core).frame f).line = line → ((s.mach.core x.core).frame f).state = .fetching →
    (s.mach.lineClasses line tag).contains .tagMismatch = false →
    ∃ t g', exec (.fetchComplete n) s = .next t ∧ t.dev = s.dev ∧ t.mach.group? x.core x.slot = some g' ∧
      (let fr := (t.mach.core x.core).frame f
       fr.state = .pinned ∧ fr.line = line ∧ fr.tag = tag ∧ fr.dirty = 0 ∧ fr.stale = false ∧ fr.pins = ((s.mach.core x.core).frame f).pins ∧
       (∀ i, i < 128 → fr.data.getD i 0 = s.mach.byteAt (line.plus i)) ∧
       ∀ i, i < 4 → fr.poison.getLsbD i = (s.mach.classAt (line.plus (32 * i)) (some tag)).bad) ∧
      (∀ h, h ≠ f → (t.mach.core x.core).frame h = (s.mach.core x.core).frame h) ∧ g'.lines = g.lines ∧
      ((∀ y ∈ s.mach.msgs.eraseIdx n, y.uid ≠ x.uid) → g'.sb = g.sb &&& ~~~itemBit (itemLine l))) ∧
  (∀ line f, x.body = .stale line → (s.mach.core x.core).findFrame line = some f → ((s.mach.core x.core).frame f).state ≠ .free →
    ∃ t, exec (.staleNotice n) s = .next t ∧ t.dev = s.dev ∧ t.mach.msgs = s.mach.msgs.eraseIdx n ∧ SameHome s.mach t.mach ∧
      ∀ c h, (t.mach.core c).frame h = (if c = x.core ∧ h = f then { (s.mach.core c).frame h with stale := true } else (s.mach.core c).frame h)) ∧
  (∀ l close, x.body = .wbAck l close → (∀ y ∈ s.mach.msgs.eraseIdx n, y.serves x.core x.uid = false) →
    ∃ t g', exec (.writeBackAck n) s = .next t ∧ t.dev = s.dev ∧ SameMemory s.mach t.mach ∧ t.mach.msgs = s.mach.msgs.eraseIdx n ∧
      t.mach.group? x.core x.slot = some g' ∧ g'.sb = g.sb &&& ~~~itemBit (itemLine l) ∧
      (close = false → g'.lines = g.lines) ∧
      (close = true → (g'.line l).state = .closed ∧ (g'.line l).bound = 0 ∧ ∀ j, j ≠ l → g'.line j = g.line j))

/-- What is performed at a line of device memory (R435, R254, R149, R251): a write-back stores its masked bytes in each sector whose tag agrees, and is acknowledged; a put stores its bytes and sends its counter add; a counter word takes the
sign-extended addend; an atomic stores the new value of R251's table and D takes the old one. Every other byte stays. -/
def Obligations.WritesArrive : Prop := ∀ s n x, Arrives s n x →
  (∀ a va mask poison data tag reply, x.body = .writeBack (.dram a) va mask poison data tag reply → a % 128 = 0 →
    ∃ t, exec (.writeBack n) s = .next t ∧ t.dev = s.dev ∧
      (∀ b, t.mach.dram.read b = if a ≤ b ∧ b < a + 128 ∧ mask.getLsbD (b - a) = true ∧ tag = s.mach.lineTag (b / 32 * 32) then data.getD (b - a) 0
        else s.mach.dram.read b) ∧
      ∀ l close, reply = .line l close → Answered t x (.wbAck l close)) ∧
  (∀ a tag, x.body = .tagset (.dram a) tag → a % 128 = 0 → (∀ i, i < 4 → s.mach.inSaveArea (a + 32 * i) = false) →
    ∃ t, exec (.writeBack n) s = .next t ∧ t.dev = s.dev ∧ Stored s t a 128 (fun _ => 0) ∧
      (∀ i, t.mach.tags.getD i 0 = if i = a / 128 then tag else s.mach.tags.getD i 0) ∧
      ∀ i, i < 4 → t.mach.classAt (.dram (a + 32 * i)) (some tag) = .clean) ∧
  (∀ g a va mask data tag ctr delta, Seats s x g → x.body = .put (.dram a) va mask data tag ctr delta → a % 128 = 0 →
    (∀ i, i < 4 → s.mach.lineTag (a + 32 * i) = tag) →
    ∃ t, exec (.putData n) s = .next t ∧ t.dev = s.dev ∧
      (∀ b, t.mach.dram.read b = if a ≤ b ∧ b < a + 128 ∧ mask.getLsbD (b - a) = true then data.getD (b - a) 0 else s.mach.dram.read b) ∧
      ∀ l cva ctag, ctr = some (l, cva, ctag) → Answered t x (.counter l cva ctag delta)) ∧
  (∀ g a va tag delta, Seats s x g → x.body = .counter (.dram a) va tag delta → a % 4 = 0 → s.mach.lineTag (a / 32 * 32) = tag →
    ∃ t, exec (.counterAdd n) s = .next t ∧ t.dev = s.dev ∧
      Stored s t a 4 (fun i => (s.mach.word32 (.dram a) + delta.signExtend 32).extractLsb' (8 * i) 8)) ∧
  (∀ g op a va k operand expected tag d i, Seats s x g → g.wait = none → x.twin = none →
    x.body = .atomic op (.dram a) va k operand expected tag d i → k = 4 ∨ k = 8 → a % k = 0 → i < 32 →
    s.mach.lineTag (a / 32 * 32) = tag → s.mach.classAt (.dram a) (some tag) = .clean →
    (isV d → d.toNat + k / 4 ≤ 47) → (isK d → d.toNat + k / 4 ≤ 64) →
    let old : Dword := BitVec.ofNat 64 (leNat (s.mach.bytesAt (.dram a) k))
    let lo := old.setWidth 32
    let dl := operand.setWidth 32
    let new : Dword := match op with
      | .add => if k = 8 then old + operand else (lo + dl).setWidth 64
      | .fadd => BitVec.ofNat 64 (f32.addB lo.toNat dl.toNat)
      | .minS => (if dl.toInt < lo.toInt then dl else lo).setWidth 64
      | .maxS => (if lo.toInt < dl.toInt then dl else lo).setWidth 64
      | .minN => (if dl.toNat < lo.toNat then dl else lo).setWidth 64
      | .maxN => (if lo.toNat < dl.toNat then dl else lo).setWidth 64
      | .and_ => old &&& operand
      | .or_ => old ||| operand
      | .xor_ => old ^^^ operand
      | .xchg => operand
      | .cas => if old = expected then operand else old
    ∃ t g', exec (.atomicRequest n) s = .next t ∧ t.dev = s.dev ∧ Stored s t a k (fun j => new.extractLsb' (8 * j) 8) ∧
      t.mach.group? x.core x.slot = some g' ∧
      HoldsWide g g' d (k / 4) [i] 0 (fun j _ => old.extractLsb' (32 * j) 32))

/-- What homes, hubs and slices do with the requests that reach them (R294, R298, R299, R295, R272, R276, R304, R306, R302, R303): ACQ.LOCK takes a free lock and makes the group its holder; PROMISE and RELINQ write the promise word; REL raises RSEQ; RING.PUSH
and RING.POP move one word and the ring's counts; BAR.EXPECT adds to PEND and BAR.ARRIVE counts its group; ENQ fills the lowest FREE slot and DEPADD changes a counter; a waiter is registered while its word holds the expected value and goes on at
once when it does not. -/
def Obligations.RequestsArrive : Prop := ∀ s n x g, Arrives s n x → Seats s x g → x.twin = none →
  let cl := clusterOf x.core
  let k := s.mach.cluster cl
  (∀ a va tag, a % 8 = 0 → s.mach.lineTag (a / 32 * 32) = tag → s.mach.classAt (.dram a) (some tag) = .clean →
    let old := s.mach.word64 (.dram a)
    let puts := fun (w : Dword) => ∃ t, exec (.objectStep n) s = .next t ∧ t.dev = s.dev ∧ Stored s t a 8 (fun i => w.extractLsb' (8 * i) 8)
    (∀ scope kd, x.body = .object (.acq 1 scope kd) (.dram a) va tag false → s.mach.linkDown = false → old.extractLsb' 30 2 = 0 →
      ∃ t, exec (.objectStep n) s = .next t ∧ t.dev = s.dev ∧
        Stored s t a 8 (fun i => ((old &&& ~~~(3#64 <<< 30)) ||| (1#64 <<< 30)).extractLsb' (8 * i) 8) ∧
        (g.id.copyIndex = false → (SMap.freeKey (s.mach.core x.core).estate 4096).isSome = true →
          ∃ i e, (t.mach.core x.core).estate.get? i = some e ∧ e.kind = 0 ∧ e.uid = x.uid ∧ e.key = va.setWidth 64)) ∧
    (∀ kd, x.body = .object (.promise kd) (.dram a) va tag false → old.extractLsb' 0 2 = 0#2 ∨ old.extractLsb' 0 2 = 2#2 → puts 1) ∧
    (∀ kd value, x.body = .object (.relinq value kd) (.dram a) va tag false → (∀ y ∈ s.mach.msgs, y.uid = x.uid → y = x) →
      ((s.mach.holding? x.core x.uid 1 (va.setWidth 64)).isSome = true → puts (value ++ 2#32)) ∧
      (s.mach.holding? x.core x.uid 1 (va.setWidth 64) = none → ∃ t g', exec (.objectStep n) s = .next t ∧ t.dev = s.dev ∧
        Stored s t a 0 (fun _ => 0) ∧ t.mach.group? x.core x.slot = some g' ∧ g'.lsts = .mismatch)) ∧
    (∀ kd scope, x.body = .object (.rel scope kd true) (.dram a) va tag false → s.mach.linkDown = false → (∀ y ∈ s.mach.msgs, y.uid = x.uid → y = x) →
      s.mach.holding? x.core x.uid 0 (va.setWidth 64) = none → puts ((old.extractLsb' 32 32 + 1#32) ++ old.extractLsb' 0 32))) ∧
  (∀ b j r v d ks parts op, x.body = .ring op j v d ks parts → k.blocks.get? g.id.block = some b → b.rings.get? j = some r → r.waits = [] →
    (op = .pop → 0 < r.count → (s.mach.classAt (ringPlace k b r cl r.pops) none).bad = false → ∃ t b', exec (.ringOpAtHub n) s = .next t ∧ t.dev = s.dev ∧ (t.mach.cluster cl).blocks.get? g.id.block = some b' ∧
      b'.rings.get? j = some { r with count := r.count - 1, pops := r.pops + 1, known := r.known.drop 1 } ∧
      (let a := ringWrites d ks parts (some (s.mach.word32 (ringPlace k b r cl r.pops))) .ok
       Answered t x (.result a.1 a.2 true))) ∧
    (op = .push → 0 < r.allow → ∃ t b' p, exec (.ringOpAtHub n) s = .next t ∧ t.dev = s.dev ∧ (t.mach.cluster cl).blocks.get? g.id.block = some b' ∧
      b'.rings.get? j = some { r with allow := r.allow - 1, count := r.count + 1, pushes := r.pushes + 1, known := r.known ++ [g.knows x.id] } ∧
      ringPlace k b r cl r.pushes = .spad cl p ∧ (p % 4 = 0 → t.mach.word32 (.spad cl p) =
        (v &&& 0x7FFFFFFF#32) ||| (if (r.pushes / r.depth) % 2 = 1 then 0x80000000#32 else 0)))) ∧
  (∀ b j v c ks arrive, x.body = .barrier arrive false j c ks → k.blocks.get? g.id.block = some b → b.bars.get? j = some v → v.waits = [] →
    (arrive = false → v.pend + c.setWidth 40 ≠ 0 → ∃ t b', exec (.barrierOpAtHub n) s = .next t ∧ t.dev = s.dev ∧
      (t.mach.cluster cl).blocks.get? g.id.block = some b' ∧ b'.bars.get? j = some { v with pend := v.pend + c.setWidth 40 } ∧
      Answered t x (.result (statusWrites ks .ok) (regItems ks 1) true)) ∧
    (arrive = true → j < 16 → g.tokens.getLsbD j = false → v.arrived ≠ v.curexp → v.arrived + 1 ≠ v.curexp → v.curexp ≠ 0 →
      ∃ t b' g', exec (.barrierOpAtHub n) s = .next t ∧ t.dev = s.dev ∧
        (t.mach.cluster cl).blocks.get? g.id.block = some b' ∧ b'.bars.get? j = some { v with
          arrived := v.arrived + 1, members := v.members ||| (1#256 <<< g.id.gindex), arrivals := v.arrivals ||| (1#256 <<< g.id.gindex)
          known := (v.known ++ g.knows x.id).eraseDups } ∧
        t.mach.group? x.core x.slot = some g' ∧ g'.tokens.getLsbD j = true ∧ g'.tokens.getLsbD (16 + j) = v.phase ∧
        Answered t x (.result (statusWrites ks .ok) (regItems ks 1) true))) ∧
  (∀ ks parts, (∀ y ∈ s.mach.msgs, y.uid = x.uid → y = x) →
    (∀ dep succ payload logical kd i q, x.body = .task (.enq dep succ payload logical kd) ks parts → x.place = hubPlace q →
      i < 2048 → ((s.mach.cluster q).task i).state = .free → (∀ j, j < i → ((s.mach.cluster q).task j).state ≠ .free) →
      ∃ t tk, exec (.taskOpAtHub n) s = .next t ∧ t.dev = s.dev ∧ tk = (t.mach.cluster q).task i ∧ tk.payload = payload ∧ tk.succ = succ ∧ tk.dep = dep ∧
        tk.ctx = g.id.ctx ∧ tk.state = (if dep = 0 then .runnable else .waiting) ∧ tk.gen ≠ 0 ∧
        tk.handle = BitVec.ofNat 32 (logical * 2 ^ 27 + i * 65536 + tk.gen.toNat) ∧ (t.mach.cluster q).enqCount = (s.mach.cluster q).enqCount + 1) ∧
    (∀ h d q i tk, x.body = .task (.depadd h d) ks parts → s.mach.taskOf cl g.id.ctx h = some (q, i, tk) →
      ∃ t, exec (.taskOpAtHub n) s = .next t ∧ t.dev = s.dev ∧
        ((t.mach.cluster q).task i).dep = BitVec.ofInt 32 (max 0 (min 4294967295 ((tk.dep.toNat : Int) + d.toInt))))) ∧
  (∀ va loc tag e ks, x.body = .waiter va loc tag e ks false → s.mach.classAt loc (some tag) = .clean → s.mach.waitEntry g.id.ctx va = none → s.mach.waitTab.get? (waitBase g.id.ctx va) = none →
    (s.mach.word32 loc = e → ∃ t, exec (.waiterArrival n) s = .next t ∧ t.dev = s.dev ∧ t.mach.group? x.core x.slot = some g ∧
      t.mach.waitTab.get? (waitBase g.id.ctx va) = some { ctx := g.id.ctx, va := va &&& ~~~3#56, loc, armv := e
                                                          waiters := [{ host := none, core := x.core, slot := x.slot, uid := x.uid }] }) ∧
    (s.mach.word32 loc ≠ e → ∃ t g', exec (.waiterArrival n) s = .next t ∧ t.dev = s.dev ∧ t.mach.group? x.core x.slot = some g' ∧
      g'.wait = none ∧ g'.lsts = .ok ∧ t.mach.waitTab = s.mach.waitTab)) ∧
  (∀ va ks, x.body = .wake va ks → s.mach.waitEntry g.id.ctx va = none → (∀ e ∈ s.mach.queues, e.2.en = false) →
    ∃ t g', exec (.waiterArrival n) s = .next t ∧ t.dev = s.dev ∧ t.mach.group? x.core x.slot = some g' ∧ g'.lsts = .ok ∧ g'.sb = g.sb &&& ~~~regItems ks 1)

/-- What happens inside the device beside messages: arbitration, fetching ahead, channels, the engine, parking, intervals, polls, a group that ends holding nothing,
and the end of a launch; what a group that ends passes on is said by Conveyances. The model's choices are: that the start of an interval moves the core's clock to it (log 67), that the router counts which MESHP averages are given from outside (log 27), and that a channel's WADDR starts at its entry's first destination byte, in bounds or not (log 90). -/
def Obligations.InsideEvents : Prop := ∀ s : State, ∀ core : Nat,
  let c := s.mach.core core
  let quiet := ∀ i, i < 8 → (s.mach.core (8 * clusterOf core + i)).ops = []
  (s.works core = true →
    (∀ lane slot g, c.outOfService = false → (c.lane lane).issuing = none →
      let p := (s.mach.ownerDemand core lane).modCore core (fun k => k.advance (k.lane lane).busyUntil)
      p.winner core lane = some slot → s.mach.group? core slot = some g → (∀ m va level, p.fetchAt core g g.pc ≠ (m, .xlat va level)) → ∃ t g', exec (.runArbitration core lane) s = .next t ∧ t.dev = s.dev ∧ SameMemory s.mach t.mach ∧
        ((t.mach.core core).lane lane).issuing = some slot ∧ t.mach.group? core slot = some g' ∧ g'.state = .issuing ∧
        g'.arb.lastRun = BitVec.ofNat 32 (max c.cycle (c.lane lane).busyUntil) ∧ g'.pc = g.pc ∧ g'.callow = (if g.critical then g.callow - 1 else g.callow)) ∧
    (∀ ctx va tag line f, (∃ g ∈ c.everyone, g.id.ctx = ctx) → s.mach.aheadLine ctx va = some line → s.mach.linkDown = false →
      c.findFrame line = none → (s.mach.lineClasses line tag).contains .tagMismatch = false → SMap.freeKey c.frames 12288 = some f →
      ∃ t, exec (.speculativeFetch core ctx va tag) s = .next t ∧ t.dev = s.dev ∧ SameHome s.mach t.mach ∧
        (let fr := (t.mach.core core).frame f
         fr.state = .spec ∧ fr.line = line ∧ fr.tag = tag ∧ fr.dirty = 0 ∧ ∀ i, i < 128 → fr.data.getD i 0 = s.mach.byteAt (line.plus i)) ∧
        (∀ h, h ≠ f → (t.mach.core core).frame h = c.frame h)) ∧
    (∀ chan e es, (c.chan chan).entries = e :: es → e.stopping = false →
      (e.gated = false → e.started = false → e.kind ≠ .mc → ∃ t, exec (.entryStart core chan) s = .next t ∧ t.dev = s.dev ∧ SameMemory s.mach t.mach ∧
        (t.mach.core core).chan chan = { c.chan chan with
          eseq := (c.chan chan).eseq + 1, waddr := e.target 0, entries := { e with state := .active, started := true } :: es }) ∧
      (∀ g bs a m m' l leaf, e.state = .active → e.done < e.len → e.silent = false → e.kind ≠ .mc → e.kind ≠ .drain →
        s.mach.findGroup core e.slot e.uid = some g → e.chunk e.len ≠ 0 → s.mach.copyFetch core g e (e.chunk e.len) e.done none = (m, .ok bs) →
        e.dst e.done = some a → m.translate core g (lineVa a) true = (m', .ok (.dram l) leaf) → leaf.w = true → l % 128 = 0 →
        (∀ i, i < 4 → m'.lineTag (l + 32 * i) = e.dstTag) →
        ∃ t, exec (.copyDelivery core chan) s = .next t ∧ t.dev = s.dev ∧
          ((t.mach.core core).chan chan).entries = { e with done := e.done + e.chunk e.len } :: es ∧
          ∀ i b, i < e.chunk e.len → e.dst (e.done + i) = some b → (∀ j, i < j → j < e.chunk e.len → e.dst (e.done + j) ≠ some b) →
            t.mach.dram.read (l + b.toNat % 128) = (bs.getD i (0, false)).1) ∧
      (∀ g, e.state = .active → e.len ≤ e.done → e.kind ≠ .drain → c.ops = [] → s.mach.group? core e.slot = some g → g.uid = e.uid → g.ending = none →
        ∃ t g', exec (.copyDone core chan) s = .next t ∧ t.dev = s.dev ∧ SameMemory s.mach t.mach ∧ ((t.mach.core core).chan chan).entries = es ∧
          t.mach.group? core e.slot = some g' ∧ g'.batch = g.batch.finish e.batch)) ∧
    (∀ o os, c.engine = o :: os → c.latches = [] →
      (∀ m b, o.state = .queued ∨ o.state = .running → o.prog / 32 < o.kBlocks → s.mach.engineGated core o = false → s.mach.engineWaits core o = false →
        (match o.kind with
          | .mhad => s.mach.mhadBlock s.dev core o (o.prog / 32)
          | .mqnt => s.mach.mqntBlock s.dev core o (o.prog / 32)
          | _ => s.mach.mmaBlock s.dev core o (o.prog / 32)) = (m, .ok b) →
        ∃ t, exec (.kBlock core) s = .next t ∧ t.dev = s.dev ∧ t.mach = m.modOp core (fun p => { p with
          prog := 32 * (o.prog / 32 + 1), state := .running, clamped := p.clamped || b })) ∧
      (∀ slot uid g, 32 * o.kBlocks ≤ o.prog → c.ops = [] → o.members = [(slot, uid)] → s.mach.group? core slot = some g → g.uid = uid →
        ∃ t g', exec (.operationDone core) s = .next t ∧ t.dev = s.dev ∧ SameMemory s.mach t.mach ∧ (t.mach.core core).engine = os ∧
          t.mach.group? core slot = some g' ∧ g'.eng.out = g.eng.out - 1 ∧ g'.eng.last = (if o.clamped then .saturated else .ok) ∧ g'.eng.prog = o.prog))) ∧
  (s.clock core = true → ∀ slot g, s.mach.group? core slot = some g →
    (g.parking = true → quiet → ∃ t g', exec (.parkComplete core slot) s = .next t ∧ t.dev = s.dev ∧ t.mach.group? core slot = some g' ∧
      g'.parking = false ∧ g'.inReserve = true ∧ g'.pc = g.pc) ∧
    (g.unparking = true → g.state = .parked → g.atSafe = false → g.xlatFailed = none → g.owed = none → g.freeze = none → g.stopMark = false →
      ∃ t, exec (.unparkComplete core slot) s = .next t ∧ t.dev = s.dev ∧ SameMemory s.mach t.mach ∧
        t.mach.group? core slot = some { g with unparking := false, state := .ready }) ∧
    (∀ o, c.ops = [o] → o.op = 3 → c.groups.any (fun e => e.2.ownedBy (some o.ctx)) = false → c.drained o.ctx = true → (∀ e ∈ s.mach.ctxs, e.2.remap = none) →
      o.slot = slot → o.uid = g.uid → ∃ t, exec (.contextSaveComplete core) s = .next t ∧ t.dev = s.dev ∧ (t.mach.core core).ops = [] ∧
        ∃ y ∈ t.mach.msgs, y.body = answer o.kd .ok ∧ y.uid = g.uid ∧ y.core = core) ∧
    (∀ e, g.ending = some e → e.released = false → e.killed = false → e.closed = true → g.gated = false → c.copiesOf g.uid = false → g.lines = [] →
      s.mach.viral = false → (∀ y ∈ s.mach.msgs, y.serves core g.uid = false) → s.mach.outstanding core g.uid s.mach.nextUid = false →
      s.mach.hostPending g.id.ctx (s.mach.exitScope g) = false → ∃ t g', exec (.implicitRelease core slot) s = .next t ∧ t.dev = s.dev ∧ SameMemory s.mach t.mach ∧
        t.mach.group? core slot = some g' ∧ g'.ending = some { e with flushed := true, released := true }) ∧
    (∀ e b, g.ending = some e → s.mach.viral = false → s.mach.conveyable core g = true → quiet → s.mach.estateOrder core g = [] → c.latches = [] →
      (s.mach.cluster (clusterOf core)).blocks.get? g.id.block = some b → b.pages = [] → b.copyIndex = false → b.heldReleases = [] → (∃ x, b.members = [(g.id.gindex, x)]) →
      g.id.sup = false → (∀ h ∈ c.groups, h.2.wait = none) → s.mach.settling core g.uid = false → ∃ t, exec (.conveyance core slot) s = .next t ∧ t.dev = s.dev ∧ SameMemory s.mach t.mach ∧
        t.mach.group? core slot = none ∧ (t.mach.cluster (clusterOf core)).blocks.get? g.id.block = none) ∧
    (∀ va target tag len m l leaf, g.wait = some (.cwait va target tag false len) → (∀ y ∈ s.mach.msgs, y.uid ≠ g.uid) →
      s.mach.translate core g va = (m, .ok l leaf) → ∃ t y, exec (.cwaitPoll core slot) s = .next t ∧ t.dev = s.dev ∧
        t.mach.msgs = s.mach.msgs ++ [y] ∧ y.body = .waiter va l tag 0 47 true ∧ y.core = core ∧ y.slot = slot ∧ y.uid = g.uid) ∧
    (s.mach.viral = false → g.id.duplex = true → g.dup.closedSig.isSome = true → g.id.sup = false → g.ending = none → g.state ≠ .ending → ∃ t g', exec (.duplexTimeout core slot) s = .next t ∧ t.dev = s.dev ∧
      t.mach.group? core slot = some g' ∧ g'.state = .ending ∧ g'.ending = some { killed := true, released := true })) ∧
  (s.clock core = true → ∃ t, exec (.intervalStart core (c.interval + 1)) s = .next t ∧ t.dev = s.dev ∧ SameMemory s.mach t.mach ∧
    (t.mach.core core).cycle = max c.cycle ((c.interval + 1) * 64) ∧ (t.mach.core core).interval = c.interval + 1 ∧
    (t.mach.core core).congestion = c.congestion ∧ (t.mach.core core).meshp = meshPressure s.dev.planes (c.advance ((c.interval + 1) * 64)).meshSum ∧
    (∀ slot g', t.mach.group? core slot = some g' → g'.arb.mset = false) ∧ (∀ lane, ((t.mach.core core).lane lane).ownerEligible = false)) ∧
  (∀ p x n, c.congestion = [(p, x)] → c.cycle + n ≤ 64 * (c.interval + 1) →
    (c.advance (c.cycle + n)).meshSum.getD p 0 = c.meshSum.getD p 0 + n * x.toNat) ∧
  (s.dev.running = true → s.mach.viral = false →
    (s.mach.chance = false → exec .placement s = .next s) ∧
    (∀ lid l u cl m, let m0 : Mach := { s.mach with chance := false }
      s.mach.chance = true → m0.queueHead (s.mach.rotation % 256) = some (lid, l) → m0.pressed (s.mach.rotation % 256) l.ctx = false →
      m0.nextUnit l = some u → m0.placeUnit s.dev.asleep lid l u = some (cl, m) → m0.owed m cl = [] →
      ∃ t, exec .placement s = .next t ∧ t.dev = s.dev ∧ t.mach = m.notePlaced lid u l ∧ t.mach.rotation = (s.mach.rotation % 256 + 1) % 256) ∧
    (∀ lid l, s.mach.launches.get? lid = some l → s.mach.launchOver lid l = true → (s.mach.queues.getD l.queue {}).enabling = false →
      (s.mach.queues.getD l.queue {}).en = false → (s.mach.queues.getD l.queue {}).taking = none →
      ∃ t b, exec (.launchComplete lid) s = .next t ∧ t.dev = s.dev ∧ t.mach = s.mach.launchDone lid l ∧
        t.mach.launches.get? lid = some { l with done := true, stored := b } ∧ (t.mach.jobs = [] → b = true)) ∧
    (∀ lid l a e, s.mach.launches.get? lid = some l → s.mach.launchOver lid l = true → s.mach.waitTab = [] → (s.mach.queues.getD l.queue {}).enabling = false →
      (s.mach.queues.getD l.queue {}).en = false → (s.mach.queues.getD l.queue {}).taking = none → a % 8 = 0 → e < a ∨ a + 8 ≤ e →
      (∀ i, i < 8 → s.mach.classAt (.dram (a + i)) none = .clean) → s.mach.classAt (.dram e) none = .clean →
      (∀ m : Mach, m.walker = s.mach.walker → m.windows = s.mach.windows → m.migration = s.mach.migration → m.ctxs = s.mach.ctxs →
        (∃ f, m.ctxXlate l.ctx l.compaddr = (m, .ok (.dram a) f)) ∧ ∃ f, m.ctxXlate l.ctx l.entryVa = (m, .ok (.dram e) f)) →
      ∃ t, exec (.launchComplete lid) s = .next t ∧ t.dev = s.dev ∧ t.mach.launches.get? lid = some { l with done := true, stored := true } ∧
        ∀ b, t.mach.dram.read b = if l.abandoned = false ∧ a ≤ b ∧ b < a + 8 then l.compseq.extractLsb' (8 * (b - a)) 8
          else if b = e then (if l.abandoned then 5 else 4) else s.mach.dram.read b) ∧
    (∀ n x, s.mach.fabricAtomics[n]? = some x → (∀ y ∈ s.mach.msgs, y.held = false) → ∃ t y, exec (.retransmit n) s = .next t ∧ t.dev = s.dev ∧
      SameMemory s.mach t.mach ∧ t.mach.msgs = s.mach.msgs ++ [y] ∧ y.body = .fabric x.dev x.rid false ∧ y.core = x.core ∧ y.slot = x.slot ∧ y.uid = x.uid))

/-- Conveyance (R129, R131, R372): every holding of an ended group, in reverse acquisition order, goes to its heir, who records it with its own next sequence number and is told by BEREAVE; a lock makes the heir critical, a claim and a wharf share change hands. A heirless holding is settled (R127, R372): a lock is ORPHANED, a promise BROKEN, a slot or claim free, a task RUNNABLE and bereaved, a share given up, an object dropped. Beside it: the accumulator elements after a K-block (R174, R176), and what a placed group and its block hold (R56, R66, R112 to R114). -/
def Obligations.Conveyances : Prop := ∀ s : State,
  (∀ (core slot : Nat) (g : Group) (b : Block) (en : Ending), let c := s.mach.core core
    s.clock core = true → s.mach.viral = false → s.mach.group? core slot = some g → g.ending = some en → en.conveyed = false → g.id.sup = false → g.uid ≠ 0 →
    s.mach.conveyable core g = true → s.mach.settling core g.uid = false → s.mach.block? core g = some b → b.heldReleases = [] → c.latches = [] →
    (∀ i, i < 8 → (s.mach.core (8 * clusterOf core + i)).ops = []) → (∀ h ∈ c.groups, h.2.wait = none) →
    let hs := s.mach.estateOrder core g
    let tab := fun (m : Mach) (h : Nat × Nat × Estate) => (m.core h.1).estate.get? h.2.1
    hs.Pairwise (fun x y => (g.eseq - x.2.2.order).toNat ≤ (g.eseq - y.2.2.order).toNat) ∧
    (∀ k i e, (k, i, e) ∈ hs ↔ clusterOf k = clusterOf core ∧ (i, e) ∈ (s.mach.core k).estate ∧ e.uid = g.uid) ∧
    (∀ j x h, (∀ e ∈ hs, b.heirOf e.2.2.heir e.2.2.hidx g.id.gindex = some j ∧ e.2.2.kind ≤ 6) → (hs.map (fun e => (e.1, e.2.1))).Nodup →
      b.members.get? j = some x → x.ended = false → j ≠ g.id.gindex → s.mach.group? x.core x.slot = some h → h.uid = x.uid → x.uid ≠ g.uid →
      ∃ t h', exec (.conveyance core slot) s = .next t ∧ t.dev = s.dev ∧ SameMemory s.mach t.mach ∧ t.mach.group? core slot = none ∧
        t.mach.group? x.core x.slot = some h' ∧ h' = { h with
          gang := h'.gang, bereave := h'.bereave, eseq := h.eseq + BitVec.ofNat 32 hs.length, crit := h.crit || hs.any (fun e => e.2.2.kind == 0)
          callow := if h.crit = false ∧ (∃ e ∈ hs, e.2.2.kind = 0) then (s.mach.ctx h.id.ctx).callow else h.callow } ∧
        (∀ k, k ≤ 6 → h'.bereave.getLsbD k = (h.bereave.getLsbD k || hs.any (fun e => e.2.2.kind == k))) ∧
        (h'.bereave.extractLsb' 16 16).toNat = min 65535 ((h.bereave.extractLsb' 16 16).toNat + hs.length) ∧
        ∀ n e, hs[n]? = some e →
          tab t.mach e = some { e.2.2 with hmem := memberOf x.core, hslot := x.slot, uid := x.uid, order := h.eseq + BitVec.ofNat 32 n, brv := true } ∧
          (e.2.2.kind = 4 → ∀ cl, (s.mach.core e.1).claims.get? e.2.2.key.toNat = some cl →
            (t.mach.core e.1).claims.get? e.2.2.key.toNat = some { cl with holder := x.slot, uid := x.uid }) ∧
          (e.2.2.kind = 5 → ∀ tk ∈ (t.mach.cluster (clusterOf core)).tickets, tk.num = e.2.2.aux → tk.owners.get? (e.2.2.key.toNat / 64) = some x.uid)) ∧
    (∀ k i e, hs = [(k, i, e)] → b.heirOf e.heir e.hidx g.id.gindex = none → (∃ j x, j ≠ g.id.gindex ∧ b.members.get? j = some x ∧ x.ended = false) →
      (2 ≤ e.kind → ∃ t, exec (.conveyance core slot) s = .next t ∧ t.dev = s.dev ∧ SameMemory s.mach t.mach ∧ t.mach.group? core slot = none ∧
        (t.mach.core k).estate.get? i = none ∧
        (e.kind = 2 → ((t.mach.core k).slot (e.key.toNat % 16)).live = false) ∧
        (e.kind = 3 → ∀ cl n tk, s.mach.taskOf (clusterOf core) g.id.ctx (e.key.setWidth 32) = some (cl, n, tk) →
          (t.mach.cluster cl).task n = { tk with state := .runnable, bereaved := true }) ∧
        (e.kind = 4 → (t.mach.core k).claims.get? e.key.toNat = none) ∧
        (e.kind = 5 → ∀ tk ∈ (t.mach.cluster (clusterOf core)).tickets, tk.num = e.aux → tk.shares.getLsbD (e.key.toNat / 64) = false)) ∧
      (∀ m a leaf, e.kind < 2 → s.mach.ctxXlate g.id.ctx (e.key.setWidth 56) = (m, .ok (.dram a) leaf) → a % 8 = 0 →
        (∀ n, n < 8 → s.mach.classAt (.dram (a + n)) none = .clean) → s.mach.jobs = [] → s.mach.waitTab = [] →
        (∀ y ∈ s.mach.msgs, ∀ op l va tag w, y.body ≠ .object op l va tag w) →
        let old : Dword := s.mach.word64 (.dram a)
        ∃ t, exec (.conveyance core slot) s = .next t ∧ t.dev = s.dev ∧ (t.mach.core k).estate.get? i = none ∧
          Stored s t a 8 (fun n => (if e.kind = 0 then (old &&& ~~~(3#64 <<< 30)) ||| (2#64 <<< 30) else old ||| 3).extractLsb' (8 * n) 8)))) ∧
  (∀ core o os m1 m2 as bs, let c := s.mach.core core
    let k4 := (o.block.getD 4 0).toNat
    let fa := bitsOf k4 8 4
    let fb := bitsOf k4 12 4
    s.works core = true → c.engine = o :: os → c.latches = [] → o.kind = .mma → o.state = .queued ∨ o.state = .running → o.prog / 32 < o.kBlocks →
    s.mach.engineGated core o = false → s.mach.engineWaits core o = false → o.wild = [] →
    s.mach.engineRows s.dev core o.view (o.ptrs.getD 0 0) (o.block.getD 2 0) (o.prog / 32 * 4 * fmtBits fa) (4 * fmtBits fa) (o.tags.getD 0 0) (List.range 128) = (m1, .ok as) →
    m1.engineRows s.dev core o.view (o.ptrs.getD 1 0) (o.block.getD 3 0) (o.prog / 32 * 4 * fmtBits fb) (4 * fmtBits fb) (o.tags.getD 1 0) (List.range 128) = (m2, .ok bs) →
    ((m2.core core).slot o.slot).live = true → ((m2.core core).slot o.slot).gen = o.gen →
    ∃ t, exec (.kBlock core) s = .next t ∧ ∀ e, e < 16384 →
      let x := fun i => bitsOf (leNat ((as.getD (e / 128) []).map (·.1))) (fmtBits fa * i) (fmtBits fa)
      let y := fun i => bitsOf (leNat ((bs.getD (e % 128) []).map (·.1))) (fmtBits fb * i) (fmtBits fb)
      let old := ((m2.core core).slot o.slot).elems.getD e 0
      (4 ≤ fa → ((t.mach.core core).slot o.slot).elems.getD e 0 =
        sat32 (old.toInt + ((List.range 32).map (fun i => sextNat (x i) (fmtBits fa) * sextNat (y i) (fmtBits fb))).sum)) ∧
      (fa < 4 → ((t.mach.core core).slot o.slot).elems.getD e 0 =
        BitVec.ofNat 32 (blockUpdate (pairWindow fa) old.toNat ((List.range 32).map (fun i => (codeVal fa (x i)).mul (codeVal fb (y i)))) 0 false))) ∧
  (∀ lid l u cl m, let m0 : Mach := { s.mach with chance := false }
    s.dev.running = true → s.mach.viral = false → s.mach.chance = true → m0.queueHead (s.mach.rotation % 256) = some (lid, l) →
    m0.pressed (s.mach.rotation % 256) l.ctx = false → m0.nextUnit l = some u → m0.placeUnit s.dev.asleep lid l u = some (cl, m) → m0.owed m cl = [] →
    let r := l.record
    ∃ t, exec .placement s = .next t ∧ t.dev = s.dev ∧
      (∀ core slot g', s.mach.group? core slot = none → t.mach.group? core slot = some g' → clusterOf core = cl ∧ g'.id.launch = lid ∧ ((∀ f ∈ (s.mach.core core).frames, f.2.state ≠ .pinned) → g'.state = .ready) ∧
        g'.id.ctx = l.ctx ∧ g'.valloc = r.valloc ∧ g'.pc = BitVec.ofNat 56 r.entry ∧ (∀ i, g'.readK i = r.kargs.getD i 0) ∧
        (∀ i, g'.readV i = fun _ => 0) ∧ (∀ i, g'.tagV i = 0) ∧ (∀ i, 0 < i → ∀ n, g'.pred i n = false) ∧ g'.lines = [] ∧ g'.gang = 0 ∧ g'.sb = 0 ∧
        g'.callow = (s.mach.ctx l.ctx).callow ∧ g'.arb.lastRun = BitVec.ofNat 32 (s.mach.core core).cycle ∧
        ∀ i x, r.spans[i]? = some x → g'.span i = Span.ofImage x) ∧
      ∀ bid b', (s.mach.cluster cl).blocks.get? bid = none → (t.mach.cluster cl).blocks.get? bid = some b' → b'.ctx = l.ctx ∧ b'.launch = lid ∧
        (∀ j x, r.rings[j]? = some x → b'.rings.get? j =
          if x.toNat % 128 = 0 then none else some { offset := x.toNat / 256, depth := x.toNat % 128, allow := x.toNat % 128 }) ∧
        ∀ j x, r.bars[j]? = some x → b'.bars.get? j = if x = 0 then none else some { expect := x.toNat, curexp := x.toNat })

/-- The host's commands (R339, R389, R402 to R404, R385): a context is created with fresh queues, suspended, resumed or torn down; a remap begins; a power command acts at once, is REFUSED out of range, and waits in its queue during a trip; a trip stops
the clocks with a kind-4 event and RESUME restarts them. The model's choices are: that a die, level, cluster or plane beyond its range is REFUSED (log 77), when a remap is REFUSED (log 70), the numbering of the sensors (log 25), and which ends are placement opportunities (log 105). -/
def Obligations.HostCommands : Prop := ∀ (s : State) (n k : Nat) (b : Bool), s.mmio = true →
  (∀ n, n < 4096 → let x := s.mach.ctx n
    (s.mach.createRefused n = true → ∃ t, exec (.create n) s = .next t ∧ t.dev = s.dev ∧ t.mach.ctx n = { x with refused := true, cmd := 0 }) ∧
    (s.mach.createRefused n = false → ∃ t, exec (.create n) s = .next t ∧ t.dev = s.dev ∧ SameMemory s.mach t.mach ∧ t.mach.ctx n = { x with
      state := .live, cmd := 0, refused := false, sealDraw := s.mach.creates + 1, fqhead := 0, fqtail := 0, fqlost := 0, fqseq := 0, fq := [], popped := []
      unposted := [], bindings := [], reserve := [], reserveSeq := 0, reserveStalled := false, remap := none }) ∧
    (x.cmd = 0 → x.state = .live → x.harvest = false → ∃ t, exec (.suspend n) s = .next t ∧ t.dev = s.dev ∧
      ((t.mach.ctx n).cmd = 2 ∧ (t.mach.ctx n).state = .live ∨ (t.mach.ctx n).cmd = 0 ∧ (t.mach.ctx n).state = .suspended)) ∧
    (x.cmd = 0 → x.state = .suspended → ∃ t, exec (.resume n) s = .next t ∧ t.dev = s.dev ∧
      ((t.mach.ctx n).cmd = 3 ∧ (t.mach.ctx n).state = .suspended ∨ (t.mach.ctx n).cmd = 0 ∧ (t.mach.ctx n).state = .live)) ∧
    (x.state = .free → ∃ t, exec (.teardown n) s = .next t ∧ t.dev = s.dev ∧ t.mach.ctx n = { x with refused := true, cmd := 0 }) ∧
    (x.state ≠ .free → ∃ t, exec (.teardown n) s = .next t ∧ t.dev = s.dev ∧ (t.mach.ctx n).state = .free ∧ (t.mach.ctx n).bindings = [] ∧ (t.mach.ctx n).reserve = []) ∧
    (∀ i new, s.mach.remapRefused n i new = true → ∃ t, exec (.remap n i new) s = .next t ∧ t.dev = s.dev ∧ t.mach.ctx n = { x with refused := true }) ∧
    (∀ i new, s.mach.remapRefused n i new = false → ∃ t, exec (.remap n i new) s = .next t ∧ t.dev = s.dev ∧
      ((t.mach.ctx n).remap = some (i, new) ∨ (t.mach.ctx n).cmap.get? i = some (BitVec.ofNat 8 new)))) ∧
  (s.dev.tripped = false → s.dev.lightWaits = false →
    let done (d : Device) : State := { s with mach := s.mach.opportunity, dev := { d with cmdRefused := false } }
    let refused : State := { s with dev := { s.dev with cmdRefused := true } }
    (∀ die level, die < 4 → level ≤ 4 → exec (.setp die level) s = .next (done { s.dev with levels := s.dev.levels.set die level })) ∧
    (∀ die level, 4 ≤ die ∨ 5 ≤ level → exec (.setp die level) s = .next refused) ∧
    (∀ cl, cl < 32 → s.mach.clusterBusy cl = false → ∃ t, exec (.gate cl true) s = .next t ∧ SameMemory s.mach t.mach ∧
      t.dev = { s.dev with gated := cl :: s.dev.gated.filter (fun x => x != cl), cmdRefused := false } ∧
      ∀ i, i < 8 → (t.mach.core (8 * cl + i)).meshp = 0 ∧ (t.mach.core (8 * cl + i)).congestion = []) ∧
    (∀ cl, cl < 32 → exec (.gate cl false) s = .next (done { s.dev with gated := s.dev.gated.filter (fun x => x != cl) })) ∧
    (∀ cl, 32 ≤ cl ∨ s.mach.clusterBusy cl = true → exec (.gate cl true) s = .next refused) ∧
    (∀ p x, 0 < p → p < 4 → s.dev.planes[p]? = some x → ∃ t t', exec (.light p) s = .next t ∧ exec (.dark p) s = .next t' ∧
      t.mach = s.mach.opportunity ∧ t'.mach = s.mach.opportunity ∧
      t.dev.planes[p]? = some (match x with | .dark => .lit | .darkening => .relight | y => y) ∧
      t'.dev.planes[p]? = some (match x with | .lit => .darkening | .relight => .darkening | y => y) ∧
      ∀ q, q ≠ p → t.dev.planes[q]? = s.dev.planes[q]? ∧ t'.dev.planes[q]? = s.dev.planes[q]?) ∧
    (∀ p, p = 0 ∨ 4 ≤ p → exec (.light p) s = .next refused ∧ exec (.dark p) s = .next refused) ∧
    (∀ stack mode, stack < 8 → mode ≤ 1 ∨ (mode = 2 ∧ ∀ e ∈ s.mach.ctxs, e.2.state ≠ .live) →
      exec (.refresh stack mode) s = .next (done { s.dev with refresh := s.dev.refresh.set stack mode })) ∧
    (∀ k, 80 ≤ k → k ≤ 110 → exec (.tripset k) s = .next (done { s.dev with trip := k })) ∧
    (∀ k, k < 80 ∨ 110 < k → exec (.tripset k) s = .next refused)) ∧
  (s.dev.tripped = false → s.dev.running = true → ∀ sensor temp, sensor < 12 → s.dev.trip ≤ temp → ∃ t, exec (.thermalTrip sensor temp) s = .next t ∧
    t.dev = { s.dev.sensed sensor temp with tripped := true, running := false } ∧ SameMemory s.mach t.mach ∧ t.mach.cores = s.mach.cores ∧
    Logged s t 4 0xFFFF (sensor + temp * 2 ^ 16)) ∧
  (s.dev.tripped = true ∨ s.dev.lightWaits = true → ∀ i c, (i, c) ∈
      [((.setp n k : Instr), PowerCmd.setp n k), (.gate n b, .gate n b), (.light n, .light n), (.dark n, .dark n), (.refresh n k, .refresh n k), (.tripset n, .tripset n)] →
    exec i s = .next { s with dev := { s.dev with queued := s.dev.queued ++ [c] } }) ∧
  (s.dev.tripped = true → (∀ x ∈ s.dev.dieTemp ++ s.dev.stackTemp, x + 10 ≤ s.dev.trip) → ∃ t, exec .tripResume s = .next t ∧
    t.dev.tripped = false ∧ t.dev.running = true ∧ (t.dev.lightWaits = false → t.dev.queued = []) ∧ (s.dev.queued = [] → t.mach = s.mach.opportunity)) ∧
  (∀ p, s.dev.planes[p]? = some .darkening ∨ (s.dev.planes[p]? = some .relight ∧ (s.dev.queued = [] ∨ s.dev.tripped = true)) →
    ∃ t, exec (.planeDark p) s = .next t ∧ SameMemory s.mach t.mach ∧
    t.dev.planes[p]? = (if s.dev.planes[p]? = some .darkening then some .dark else some .lit) ∧ ∀ e ∈ t.mach.cores, e.2.congestion.get? p = none) ∧
  (∀ d p k, ∃ t, exec (.telemetryRefresh d p k) s = .next t ∧ t.mach = s.mach ∧ (∀ i x, d[i]? = some x → i < s.dev.dieTemp.length → t.dev.dieTemp[i]? = some x) ∧
    (∀ i x, p[i]? = some x → i < s.dev.diePower.length → t.dev.diePower[i]? = some x) ∧ ∀ i x, k[i]? = some x → i < s.dev.stackTemp.length → t.dev.stackTemp[i]? = some x)

/-- The host link, resets, bring-up, in-field tests and page migration (R377, R378, R395, R367, R405 to R407, R379, R408, R401). The model's choices are: the codes of statuses that the spec gives none (log 25), that a core reset keeps the dictionaries (log 73), what an inspection reset and a power-on keep (log 74), and the numbers that stand for images and fuses (log 26). -/
def Obligations.LinkAndResets : Prop := ∀ s : State,
  (s.mmio = true →
    (∃ t, exec .detach s = .next t ∧ t.dev = { s.dev with attach := 2 } ∧ t.mach.linkDown = true ∧
      ((∀ e ∈ s.mach.ctxs, e.2.viral = false) → t.mach = { s.mach with linkDown := true })) ∧
    (∀ core, core < 256 → ∃ t, exec (.coreReset core) s = .next t ∧ t.dev = s.dev ∧
      (let c := t.mach.core core
       c.groups = [(1280, Group.supervisor)] ∧ c.claims = [] ∧ c.estate = [] ∧ c.frames = [] ∧ c.engine = [] ∧ c.chans = [] ∧ c.mbox = [] ∧ c.perf = [] ∧
       c.dicts = (s.mach.core core).dicts)) ∧
    (∀ cl kind, cl < 32 → s.dev.test = none → ∃ t, exec (.inFieldTest cl kind) s = .next t ∧ t.dev = { s.dev with test := some { cluster := cl, kind } } ∧
      ∀ i, i < 8 → (t.mach.core (8 * cl + i)).testing = true) ∧
    (∀ old new, s.mach.migration = none → (old + 1) * 65536 ≤ 512000000000 → (new + 1) * 65536 ≤ 512000000000 →
      exec (.migrate old new) s = .next { s with mach := { s.mach with migration := some { old, new } }, dev := { s.dev with migrateStatus := 1 } })) ∧
  (s.dev.linkUp = true → s.dev.attach = 2 → s.mach.viral = false → ∃ t, exec .commit s = .next t ∧ t.dev = { s.dev with attach := 1 } ∧
    ((∀ e ∈ s.mach.queues, e.2.en = false) → s.mach.jobs = [] → t.mach.linkDown = false ∧ (∀ e ∈ s.mach.ctxs, (t.mach.ctx e.1).reserve = []) ∧
      (∀ a, t.mach.dram.read a = s.mach.dram.read a) ∧
      ((∀ e ∈ s.mach.ctxs, e.2.reserve = []) → ∀ a, t.mach.hostMem.read a = s.mach.hostMem.read a))) ∧
  (s.dev.linkUp = true → ∃ t, exec .linkFailure s = .next t ∧ SameMemory s.mach t.mach ∧ Logged s t 5 0xFFFF 0 ∧
    (s.dev.attach = 1 → t.dev = { s.dev with linkUp := false, attach := 2 } ∧ t.mach.linkDown = true ∧ t.mach.viral = (s.mach.viral || s.mach.viralResident)) ∧
    (s.dev.attach ≠ 1 → t.dev = { s.dev with linkUp := false } ∧ t.mach.linkDown = s.mach.linkDown ∧ t.mach.viral = s.mach.viral)) ∧
  (s.dev.linkUp = false → ∃ t, exec .linkUp s = .next t ∧ SameMemory s.mach t.mach ∧ Logged s t 5 0xFFFF 1 ∧ t.dev = { s.dev with linkUp := true } ∧ t.mach.linkDown = s.mach.linkDown) ∧
  (s.dev.linkUp = true → s.mach.viral = true → ∃ t, exec .inspectionReset s = .next t ∧ t.dev = { s.dev with attach := 1 } ∧ t.mach.viral = false ∧
    t.mach.linkDown = false ∧ t.mach.dram = s.mach.dram ∧ t.mach.tags = s.mach.tags ∧ t.mach.ecc = s.mach.ecc ∧ t.mach.ctxs = s.mach.ctxs ∧ t.mach.msgs = [] ∧
    (∀ core, (t.mach.core core).groups = [(1280, Group.supervisor)]) ∧ ∀ q, (t.mach.queues.getD q {}).en = false) ∧
  (∀ image, image = s.dev.newImage.getD s.dev.fwVersion →
    (s.dev.fuseVersion ≤ image → ∃ t, exec (.powerOn true) s = .next t ∧
      t.dev = { fwVersion := image, fuseVersion := s.dev.fuseVersion, leaf := s.dev.leaf + 1024, exhausted := decide (1048576 ≤ s.dev.leaf + 1024) } ∧
      t.mach.dram = [] ∧ t.mach.cores = [] ∧ t.mach.clusters = [] ∧ t.mach.ctxs = [] ∧ t.mach.msgs = [] ∧ t.mach.hostMem = s.mach.hostMem) ∧
    (image < s.dev.fuseVersion → exec (.powerOn true) s = .next { s with dev := { s.dev with attach := 0, running := false } }) ∧
    exec (.powerOn false) s = .next { s with dev := { s.dev with attach := 0, running := false } }) ∧
  (s.dev.linkUp = true → s.dev.attach ≠ 2 →
    (∀ v, exec (.firmwareUpdate v) s = .next { s with dev := { s.dev with newImage := some v } }) ∧
    (∀ nonce, s.dev.leaf < 1048576 → exec (.attestation nonce) s = .next { s with dev := { s.dev with leaf := s.dev.leaf + 1, reports := s.dev.reports + 1, nonce } }) ∧
    (∀ nonce, 1048576 ≤ s.dev.leaf → exec (.attestation nonce) s = .next { s with dev := { s.dev with exhausted := true } })) ∧
  (∀ x, s.dev.test = some x → x.aborted = none →
    (∀ slot, s.mach.overrunSlot x.cluster = some slot → ∃ t, exec (.testAbort x.cluster) s = .next t ∧ 
      t.dev = { s.dev with test := some { x with aborted := some slot }, testReport := (List.range 8).map (fun i => (8 * x.cluster + i, 2)) }) ∧
    (∀ pass, s.mach.clusterStill x.cluster = true → ∃ t, exec (.testReport x.cluster pass) s = .next t ∧ t.dev.test = none ∧
      t.dev.testReport = (List.range 8).map (fun i => (8 * x.cluster + i, if pass.getLsbD i then 1 else 0)) ∧
      ∀ i, i < 8 → pass.getLsbD i = false → (t.mach.core (8 * x.cluster + i)).outOfService = true)) ∧
  (∀ x, s.mach.migration = some x →
    (s.dev.running = true → s.mach.pageDrained x.old = true → s.mach.pageUnpinned x.old = true → s.mach.dram.wf = true → ∃ t, exec .migrateDone s = .next t ∧
      t.dev = { s.dev with migrateStatus := 2 } ∧ t.mach.migration = none ∧
      (∀ i, i < 65536 → t.mach.dram.read (x.new * 65536 + i) = s.mach.dram.read (x.old * 65536 + i)) ∧
      ∀ a, a / 65536 ≠ x.new → t.mach.dram.read a = s.mach.dram.read a) ∧
    (s.mach.pageUnpinned x.old = false → exec .migrateBusy s = .next { s with mach := { s.mach with migration := none }, dev := { s.dev with migrateStatus := 3 } }))

/-- What the host and the peers do to the device's registers and memory (R387 to R394, R122, R374, R397 to R400, R147, R431, R440). The model's choices are: the BAR 0 offsets (log 25), the codes of peer operations and how peers' reads are answered (log 26), that an acknowledgement marks the replies of its source and request number alone (log 76), and that a queue head beyond the tail is stored as written (log 100). -/
def Obligations.HostAndPeers : Prop := ∀ s : State,
  (s.mmio = true →
    (∀ n start pages, s.mach.jobs = [] → (∀ q ∈ s.mach.queues, q.2.en = false) → ∃ t, exec (.hostXlinv n start pages) s = .next t ∧ t.dev = s.dev ∧ SameMemory s.mach t.mach ∧ ∀ e, e ∈ t.mach.walker ↔ e ∈ s.mach.walker ∧
      ¬ (e.ctx = n ∧ (pages = 0 ∨ (start.toNat / 65536 ≤ e.page ∧ e.page < start.toNat / 65536 + pages)))) ∧
    (∀ va n k e core slot uid g ks a, s.mach.waitEntry n va = some (k, e) → e.waiters = [{ host := none, core, slot, uid }] → s.mach.group? core slot = some g →
      g.uid = uid → g.wait = some (.waitw a ks) → s.mach.waitTab.get? k = some e → (∀ q ∈ s.mach.queues, q.2.en = false) →
      ∃ t g', exec (.hostWake va n) s = .next t ∧ t.dev = { s.dev with wakeVa := va } ∧ SameMemory s.mach t.mach ∧ t.mach.waitTab.get? k = none ∧
        t.mach.group? core slot = some g' ∧ g'.wait = none ∧ g'.lsts = .ok) ∧
    (∀ va n line e m l leaf, s.mach.ctxXlate n va = (m, .ok l leaf) → (∀ i, i < 4 → s.mach.classAt (l.plus i) none = .clean) → va.toNat % 4 = 0 →
      s.mach.waitEntry n va = none → s.mach.waitTab.get? (waitBase n va) = none →
      (s.mach.word32 l = e → ∃ t, exec (.hostRegistration va n line e) s = .next t ∧ t.dev = { s.dev with regStatus := s.dev.regStatus.set 0 0 } ∧
        t.mach.waitTab.get? (waitBase n va) = some { ctx := n, va := va &&& ~~~3#56, loc := l, armv := e
                                                     waiters := [{ host := some (line % 65536), core := 0, slot := 0, uid := 0 }] }) ∧
      (s.mach.word32 l ≠ e → ∃ t, exec (.hostRegistration va n line e) s = .next t ∧ t.dev = { s.dev with regStatus := s.dev.regStatus.set 0 1 } ∧
        t.mach.waitTab = s.mach.waitTab)) ∧
    (∀ q qcb n keep, q < 256 → n < 65536 → (s.mach.queues.getD q {}).en = false →
      (∃ t, exec (.bindingEnable q qcb n false keep) s = .next t ∧ t.dev = s.dev ∧ SameMemory s.mach t.mach ∧
        t.mach.queues.getD q {} = { s.mach.queues.getD q {} with qcb, ctx := n, en := false, enabling := false, keep }) ∧
      (∀ m bs, (s.mach.ctx n).state = .suspended → qcb.toNat % 32 = 0 → s.mach.ctxRead n qcb 32 = (m, .bytes bs) →
        ∃ t, exec (.bindingEnable q qcb n true keep) s = .next t ∧ t.dev = s.dev ∧
          t.mach.queues.getD q {} = { s.mach.queues.getD q {} with
            qcb, ctx := n, en := true, enabling := false, keep, gen := (controlBlock bs).gen, blockGen := (controlBlock bs).gen, token := none }) ∧
      (qcb.toNat % 32 ≠ 0 → exec (.bindingEnable q qcb n true keep) s = .next s)) ∧
    (∀ v : BitVec 64, v.msb = false → exec (.inject v) s = .next { s with dev := { s.dev with
      inject := (v &&& 0x000FFFFFFFFFFFE0#64) ||| (s.dev.inject &&& (3#64 <<< 61)) } }) ∧
    (∀ v : BitVec 64, v.msb = true → v.extractLsb' 52 9 = 0 → v.extractLsb' 0 5 = 0 →
      let pa := (v.extractLsb' 5 47).toNat * 32
      let base := v &&& 0x000FFFFFFFFFFFE0#64
      (pa < 512000000000 → ∃ t, exec (.inject v) s = .next t ∧ t.dev = { s.dev with inject := base ||| (1#64 <<< 61) } ∧ Logged s t 7 0xFFFF pa ∧
        (∀ a, t.mach.dram.read a = s.mach.dram.read a) ∧ t.mach.classAt (.dram pa) none = .poisoned) ∧
      (512000000000 ≤ pa → exec (.inject v) s = .next { s with dev := { s.dev with inject := base ||| (2#64 <<< 61) } })) ∧
    (∀ addr size, size = 4 ∨ size = 8 → addr % size = 0 → ∃ t, exec (.hostRead 8 addr size) s = .next t ∧ t.dev = s.dev ∧ SameMemory s.mach t.mach ∧
      t.mach.hostReply = some ((List.range size).map (fun i => BitVec.ofNat 8 (s.barByte (addr + i))))) ∧
    (∀ window base size tag wen addr, window < 8 → (∀ i, s.dev.serves i = true) → s.dev.exposure.get? window = some (base, size, tag, wen) → base % 67108864 = 0 → size % 67108864 = 0 → s.mach.hostFrozen = false →
      (∀ n, 0 < n → addr + n ≤ size → base + addr + n ≤ 512000000000 → (∀ i, base + addr ≤ i → i < base + addr + n → s.mach.secClass (i / 32 * 32) (some (BitVec.ofNat 4 tag)) = .clean) →
        (∀ e ∈ s.mach.ctxs, e.2.state = .free) → ∃ t, exec (.hostRead window addr n) s = .next t ∧ t.dev = s.dev ∧
          t.mach.hostReply = some (s.mach.dram.readBytes (base + addr) n)) ∧
      (∀ data : List Byte, data ≠ [] → addr + data.length ≤ size → base + addr + data.length ≤ 512000000000 → wen = true → (∀ e ∈ s.mach.ctxs, e.2.state = .free) →
        (∀ i, base + addr ≤ i → i < base + addr + data.length → s.mach.tags.getD (i / 128) 0 = BitVec.ofNat 4 tag) →
        ∃ t, exec (.hostWrite window addr data) s = .next t ∧ t.dev = s.dev ∧ Stored s t (base + addr) data.length (fun i => data.getD i 0)) ∧
      (∀ data : List Byte, data ≠ [] → addr + data.length ≤ size → base + addr + data.length ≤ 512000000000 → wen = false →
        ∃ t, exec (.hostWrite window addr data) s = .next t ∧ t.dev = s.dev ∧ SameMemory s.mach t.mach ∧ t.mach.hostFrozen = true ∧ Logged s t 6 0xFFFF (base + addr))) ∧
    (∀ core (v : Dword), core < 256 → v.toNat < 2 ^ 24 → ∃ t, exec (.mmioWrite (0x1000000 + 4096 * core) 4 v) s = .next t ∧ t.dev = s.dev ∧ SameMemory s.mach t.mach ∧
      (t.mach.core core).sched = BitVec.ofNat 32 (v.toNat / 256 * 256)) ∧
    (∀ v : Dword, exec (.mmioWrite 0 4 v) s = .next { s with dev := { s.dev with number := v.toNat % 1024, numbered := true } }) ∧
    exec .hostFunctionClear s = .next { s with mach := { s.mach with hostFrozen := false } } ∧
    (∀ n h, n < 4096 → (s.mach.ctx n).fqcons = true → ∃ t, exec (.faultQueueHeadWrite n h) s = .next t ∧ t.dev = s.dev ∧ SameMemory s.mach t.mach ∧ (t.mach.ctx n).fqhead = h) ∧
    (∀ n w, s.mach.windows.get? n = some w → ∃ t, exec (.reductionWindowStateWrite n) s = .next t ∧ t.dev = s.dev ∧ SameMemory s.mach t.mach ∧
      t.mach.windows.get? n = some { w with state := 0, held := [] }) ∧
    (∀ p, p < 18 → s.dev.numbered = true → exec (.geloloPortTrain p) s = .next { s with dev := { s.dev with ports := s.dev.ports.set p true } })) ∧
  (∀ p, s.dev.ports.getD p false = true → ∃ t, exec (.geloloPortFailure p) s = .next t ∧ t.dev = { s.dev with ports := s.dev.ports.set p false } ∧ SameMemory s.mach t.mach ∧
    Logged s t 5 0xFFFF (2 + p * 256)) ∧
  (s.dev.linkUp = true → ∀ addr size, size = 4 ∨ size = 8 → addr % size = 0 → ∃ t, exec (.hostRead 8 addr size) s = .next t ∧ t.dev = s.dev ∧
    SameMemory s.mach t.mach ∧ t.mach.hostReply = some ((List.range size).map (fun i => BitVec.ofNat 8 (s.barByte (addr + i))))) ∧
  (s.dev.linkUp = true → s.dev.attach = 2 → ∀ q qcb n en keep, q < 256 → ∃ t, exec (.bindingEnable q qcb n en keep) s = .next t ∧ t.dev = s.dev ∧
    SameMemory s.mach t.mach ∧ t.mach.queues.getD q {} = { s.mach.queues.getD q {} with keep }) ∧
  (s.linked = true → (∀ i, s.dev.serves i = true) → ∀ src, src < 1024 → src ≠ s.dev.number →
    (∀ addr tag bs, addr + bs.length ≤ 512000000000 → addr % 128 + bs.length ≤ 128 → s.mach.migrating addr = false → (∀ i, addr ≤ i → i < addr + bs.length → s.mach.lineTag (i / 32 * 32) = tag) →
      ∃ t, exec (.peerRequest src addr tag (some bs) bs.length) s = .next t ∧ t.dev = s.dev ∧ Stored s t addr bs.length (fun i => bs.getD i 0)) ∧
    (∀ addr tag n, 0 < n → addr + n ≤ 512000000000 → addr % 128 + n ≤ 128 → s.mach.migrating addr = false →
      (∀ i, i < n → s.mach.classAt (.dram (addr + i)) (some tag) = .clean) → ∃ t, exec (.peerRequest src addr tag none n) s = .next t ∧ t.dev = s.dev ∧
      SameMemory s.mach t.mach ∧ { src, addr, sts := .ok, data := s.mach.bytesAt (.dram addr) n } ∈ t.mach.peerReads) ∧
    (∀ addr tag n, 0 < n → addr + n ≤ 512000000000 → addr % 128 + n ≤ 128 → s.mach.migrating addr = false →
      s.mach.classAt (.dram addr) (some tag) = .tagMismatch → ∃ t, exec (.peerRequest src addr tag none n) s = .next t ∧ t.dev = s.dev ∧
      SameMemory s.mach t.mach ∧ { src, addr, sts := .mismatch, data := [] } ∈ t.mach.peerReads) ∧
    (∀ rid addr tag operand expected, addr % 8 = 0 → addr < 512000000000 → s.mach.migrating addr = false → s.mach.lineTag (addr / 32 * 32) = tag →
      s.mach.secClass addr (some tag) = .clean → (∀ r ∈ s.mach.replies.getD (sliceOf addr) [], r.src ≠ src) → (openSources (s.mach.replies.getD (sliceOf addr) [])).length < 16 →
      let old : Dword := s.mach.word64 (.dram addr)
      ∃ t, exec (.peerAtomic src rid 0 addr tag 8 operand expected) s = .next t ∧ t.dev = s.dev ∧ Stored s t addr 8 (fun i => (old + operand).extractLsb' (8 * i) 8) ∧
        { src, sts := .ok, rid, reply := old, acked := false } ∈ t.mach.replies.getD (sliceOf addr) [] ∧
        { src, rid, reply := some (.ok, old) } ∈ t.mach.outbox) ∧
    (∀ rid addr tag operand expected, addr % 8 = 0 → addr < 512000000000 → (∀ r ∈ s.mach.replies.getD (sliceOf addr) [], r.src ≠ src) →
      s.mach.migrating addr = true ∨ 16 ≤ (openSources (s.mach.replies.getD (sliceOf addr) [])).length →
      ∃ t, exec (.peerAtomic src rid 0 addr tag 8 operand expected) s = .next t ∧ t.dev = s.dev ∧ SameMemory s.mach t.mach ∧
        t.mach.replies = s.mach.replies ∧ { src, rid, reply := none } ∈ t.mach.outbox) ∧
    (∀ rid op addr tag size operand expected r, peerOp op.toNat ≠ none → size = 4 ∨ size = 8 → addr % size = 0 → addr < 512000000000 →
      r ∈ s.mach.replies.getD (sliceOf addr) [] → r.src = src → r.rid = rid → (∀ r' ∈ s.mach.replies.getD (sliceOf addr) [], r'.src = src → r'.rid = rid → r' = r) →
      ∃ t, exec (.peerAtomic src rid op addr tag size operand expected) s = .next t ∧ t.dev = s.dev ∧ SameMemory s.mach t.mach ∧
        t.mach.replies = s.mach.replies ∧ { src, rid, reply := some (r.sts, r.reply) } ∈ t.mach.outbox)) ∧
  (∀ slice src rid, ∃ t, exec (.acknowledgement slice src rid) s = .next t ∧ t.dev = s.dev ∧ SameMemory s.mach t.mach ∧
    (∀ rs, s.mach.replies.get? slice = some rs → t.mach.replies.get? slice = some (rs.map (fun r => if r.src = src ∧ r.rid = rid then { r with acked := true } else r))) ∧
    (∀ i, i ≠ slice → t.mach.replies.get? i = s.mach.replies.get? i) ∧
    ∀ x ∈ t.mach.outbox, x.src = src → x.rid = rid → x.reply = none) ∧
  (∀ d, d < 1024 → (∀ x ∈ s.mach.fabricAtomics, x.dev ≠ d ∧ x.dev ≠ 1024 + d) → ∃ t, exec (.newEpoch d) s = .next t ∧ t.dev = s.dev ∧ SameMemory s.mach t.mach ∧
    t.mach.fabricRid.get? d = none ∧ t.mach.fabricRid.get? (1024 + d) = none ∧ (∀ k, ∀ r ∈ t.mach.replies.getD k [], r.src ≠ d) ∧
    (∀ y ∈ t.mach.msgs, ∀ rid reply, y.body ≠ .fabric d rid reply ∧ y.body ≠ .fabric (1024 + d) rid reply) ∧
    ∀ n w, s.mach.windows.get? n = some w → ∃ w', t.mach.windows.get? n = some w' ∧ (∀ c ∈ w'.held, c.src ≠ d) ∧ (w.home = d → w'.held = [])) ∧
  (s.dev.running = true → ∀ n w merge c cs v, s.mach.windows.get? n = some w → w.state = 1 → merge ≠ [] → w.round (merge.filterMap id) = c :: cs →
    w.closes (merge.filterMap id) = true → w.opportunistic = true ∨ merge = leftFold (merge.filterMap id) → w.merged c.op c.n merge [] = some v →
    c.op = .add → c.n = 8 → c.loc % 8 = 0 →
    ∃ t, exec (.reductionResult n merge) s = .next t ∧ t.dev = s.dev ∧
      (∀ b, t.mach.fabric.read b = if c.loc ≤ b ∧ b < c.loc + 8 then
          (s.mach.word64 (.rwin c.loc) + v).extractLsb' (8 * (b - c.loc)) 8 else s.mach.fabric.read b) ∧
      ∃ w', t.mach.windows.get? n = some w' ∧ w'.held = (w.held.zipIdx.filter (fun e => !(merge.filterMap id).contains e.2)).map (·.1)) ∧
  (∀ (w : RedWindow) (op : AtomOp) (n i j : Nat) (is : List Nat) (a b : Contribution), w.held[i]? = some a → w.held[j]? = some b →
    w.merged op n (leftFold [i, j]) [] = some (op.apply n a.operand b.operand 0) ∧
    w.merged op n (leftFold [i]) [] = some a.operand ∧ leftFold (i :: is) = some i :: is.flatMap (fun k => [some k, none]))

/-- Every step keeps the host's part of the machine legal: levels 0 to 4, plane 0 lit, refresh modes 0 to 2, a trip temperature of 80 to 110 degrees, no clock after a trip, and every coded register at a code it has (R385, R402 to R404). -/
def Obligations.LegalStateKept : Prop := ∀ s t, s.dev.Legal → step s = .next t → t.dev.Legal

/-- Every step keeps the machine's own part legal: the byte memories in canonical form (the model's own form, log 3), no mask stack deeper than 16 (R20) and p0 true (R56), in every group of every core, resident or saved. -/
def Obligations.MachineStateKept : Prop := ∀ s t, s.mach.Legal → step s = .next t → t.mach.Legal

/-- No instruction word changes the host's part of the machine (power and attach states, planes, factors and their registers), and no other row does but those that setsDevice names, nor a bit error, a change of traffic or a turn of the default policy (R5). Of the rows named that the host does not bring about itself, each changes its own fields alone: a plane that goes dark (R385, R402), a thermal trip and the sensors (R404), the link (R377), a port (R397), an in-field test (R408) and a migration that ends (R401). -/
def Obligations.OnlyHostChangesDevice : Prop :=
  (∀ bs i len, decode bs = .ok (i, len) → setsDevice i = false) ∧
  (∀ s t i, setsDevice i = false → exec i s = .next t → t.dev = s.dev) ∧
  (∀ s t, s.turns = [] → step s = .next t → t.dev = s.dev) ∧
  (∀ s t u ts, s.turns = u :: ts → (∀ i, u = .event i → setsDevice i = false) → step s = .next t → t.dev = s.dev) ∧
  (∀ s t p, exec (.planeDark p) s = .next t → t.dev = { s.dev with
    planes := t.dev.planes, levels := t.dev.levels, gated := t.dev.gated, refresh := t.dev.refresh, trip := t.dev.trip, queued := t.dev.queued
    cmdRefused := t.dev.cmdRefused }) ∧
  (∀ s t sensor temp, exec (.thermalTrip sensor temp) s = .next t → t.dev = { s.dev with
    dieTemp := t.dev.dieTemp, stackTemp := t.dev.stackTemp, tripped := t.dev.tripped, running := t.dev.running }) ∧
  (∀ s t d p k, exec (.telemetryRefresh d p k) s = .next t → t.dev = { s.dev with
    dieTemp := t.dev.dieTemp, diePower := t.dev.diePower, stackTemp := t.dev.stackTemp }) ∧
  (∀ s t i, i = .linkFailure ∨ i = .linkUp → exec i s = .next t → t.dev = { s.dev with linkUp := t.dev.linkUp, attach := t.dev.attach }) ∧
  (∀ s t p, exec (.geloloPortFailure p) s = .next t → t.dev = { s.dev with ports := t.dev.ports }) ∧
  (∀ s t cl pass i, i = .testAbort cl ∨ i = .testReport cl pass → exec i s = .next t → t.dev = { s.dev with test := t.dev.test, testReport := t.dev.testReport }) ∧
  (∀ s t i, i = .migrateDone ∨ i = .migrateBusy → exec i s = .next t → t.dev = { s.dev with migrateStatus := t.dev.migrateStatus })
end

