-- ==== Sys2Proof/Laws/Store.lean ====
section
/-! SUPPORT. What reading a sparse map or a byte memory gives after writing it, and that every write keeps the canonical
form of a byte memory (log 3). -/

namespace Sys2Proof.Machine

namespace SMap
variable {α : Type}

@[simp] theorem get?_nil (k : Nat) : get? ([] : SMap α) k = none := rfl

theorem get?_cons (k' : Nat) (a : α) (r : SMap α) (k : Nat) :
    get? ((k', a) :: r) k = if k' = k then some a else get? r k := rfl

theorem mem_of_get? {m : SMap α} {k : Nat} {a : α} (h : m.get? k = some a) : (k, a) ∈ m := by
  induction m with
  | nil => simp at h
  | cons e r ih =>
    obtain ⟨k', b⟩ := e
    rw [get?_cons] at h
    split_ifs at h with hk
    · simp_all
    · exact List.mem_cons_of_mem _ (ih h)

@[simp] theorem get?_set_self (m : SMap α) (k : Nat) (a : α) : (m.set k a).get? k = some a := by
  induction m with
  | nil => simp [set, get?]
  | cons e r ih =>
    obtain ⟨k', b⟩ := e
    unfold set
    split_ifs <;> simp_all [get?]

theorem get?_set_ne (m : SMap α) {k j : Nat} (a : α) (h : j ≠ k) : (m.set k a).get? j = m.get? j := by
  induction m with
  | nil => simp [set, get?, Ne.symm h]
  | cons e r ih =>
    obtain ⟨k', b⟩ := e
    unfold set
    split_ifs with h1 h2
    · simp [get?, Ne.symm h]
    · subst h2; simp [get?, Ne.symm h]
    · simp [get?, ih]

theorem get?_set (m : SMap α) (k j : Nat) (a : α) : (m.set k a).get? j = if j = k then some a else m.get? j := by
  split_ifs with h
  · subst h; simp
  · exact get?_set_ne m a h

@[simp] theorem getD_set_self (m : SMap α) (k : Nat) (a d : α) : (m.set k a).getD k d = a := by simp [getD]

theorem getD_set_ne (m : SMap α) {k j : Nat} (a d : α) (h : j ≠ k) : (m.set k a).getD j d = m.getD j d := by
  simp [getD, get?_set_ne m a h]

theorem getD_set (m : SMap α) (k j : Nat) (a d : α) : (m.set k a).getD j d = if j = k then a else m.getD j d := by
  split_ifs with h
  · subst h; simp
  · exact getD_set_ne m a d h

theorem get?_erase (m : SMap α) (k j : Nat) : (m.erase k).get? j = if j = k then none else m.get? j := by
  induction m with
  | nil => simp [erase, get?]
  | cons e r ih =>
    obtain ⟨k', b⟩ := e
    unfold erase at ih ⊢
    by_cases hk : k' = k
    · subst hk
      simp only [List.filter_cons, beq_self_eq_true, Bool.not_true, Bool.false_eq_true, ↓reduceIte, ih, get?_cons]
      by_cases hj : j = k'
      · simp [hj]
      · simp [hj, Ne.symm hj]
    · have hb : (k' == k) = false := by simp [hk]
      simp only [List.filter_cons, hb, Bool.not_false, ↓reduceIte, get?_cons, ih]
      by_cases hj : j = k
      · subst hj; simp [hk]
      · simp [hj]

theorem set_cons (k' : Nat) (b : α) (r : SMap α) (k : Nat) (a : α) : set ((k', b) :: r) k a =
    if k < k' then (k, a) :: (k', b) :: r else if k' = k then (k, a) :: r else (k', b) :: set r k a := rfl

@[simp] theorem set_set (m : SMap α) (k : Nat) (a b : α) : (m.set k a).set k b = m.set k b := by
  induction m with
  | nil => simp [set]
  | cons e r ih =>
    obtain ⟨k', x⟩ := e
    by_cases h1 : k < k'
    · simp [set_cons, h1]
    · by_cases h2 : k' = k
      · simp [set_cons, h2]
      · simp [set_cons, h1, h2, ih]

theorem get?_mapVals (f : Nat → α → α) (m : SMap α) (k : Nat) : (m.mapVals f).get? k = (m.get? k).map (f k) := by
  induction m with
  | nil => rfl
  | cons e r ih =>
    obtain ⟨k', b⟩ := e
    unfold mapVals at ih ⊢
    simp only [List.map_cons, get?_cons]
    split_ifs with h
    · subst h; rfl
    · exact ih

/-- The keys of a map after a write are the old ones and the written one. -/
theorem key_mem_set (m : SMap α) (k : Nat) (a : α) {e : Nat × α} (h : e ∈ m.set k a) : e = (k, a) ∨ e ∈ m := by
  induction m with
  | nil => simp_all [set]
  | cons x r ih =>
    obtain ⟨k', b⟩ := x
    unfold set at h
    split_ifs at h with h1 h2
    · simp_all
    · simp_all; tauto
    · simp only [List.mem_cons] at h ⊢
      rcases h with h | h
      · exact .inr (.inl h)
      · rcases ih h with h | h
        · exact .inl h
        · exact .inr (.inr h)

/-- Rising keys stay rising after a write. -/
theorem pairwise_set (m : SMap α) (k : Nat) (a : α) (h : m.Pairwise (fun x y => x.1 < y.1)) :
    (m.set k a).Pairwise (fun x y => x.1 < y.1) := by
  induction m with
  | nil => simp [set]
  | cons x r ih =>
    obtain ⟨k', b⟩ := x
    rw [List.pairwise_cons] at h
    unfold set
    split_ifs with h1 h2
    · refine List.pairwise_cons.2 ⟨?_, List.pairwise_cons.2 h⟩
      intro y hy
      rcases List.mem_cons.1 hy with rfl | hy
      · exact h1
      · exact lt_trans h1 (h.1 y hy)
    · subst h2; exact List.pairwise_cons.2 h
    · refine List.pairwise_cons.2 ⟨?_, ih h.2⟩
      intro y hy
      rcases key_mem_set r k a hy with rfl | hy
      · simp only; omega
      · exact h.1 y hy

end SMap

namespace Memory

theorem get?_eq_none_of_lt (m : Memory) (a : Nat) (h : ∀ e ∈ m, a < e.1) : SMap.get? m a = none := by
  induction m with
  | nil => rfl
  | cons e r ih =>
    obtain ⟨k, b⟩ := e
    have := h (k, b) (by simp)
    rw [SMap.get?_cons, if_neg (by simp at this; omega)]
    exact ih (fun e he => h e (by simp [he]))

/-- Reading back a byte just written. -/
@[simp] theorem read_write_self (m : Memory) (a : Nat) (b : Byte) : (m.write a b).read a = b := by
  unfold write read
  split_ifs with h
  · simp [SMap.getD, SMap.get?_erase, h]
  · simp

/-- A write leaves every other byte alone. -/
theorem read_write_ne (m : Memory) {a a' : Nat} (b : Byte) (h : a' ≠ a) : (m.write a b).read a' = m.read a' := by
  unfold write read
  split_ifs with hb
  · simp [SMap.getD, SMap.get?_erase, h]
  · exact SMap.getD_set_ne m b 0 h

theorem read_write (m : Memory) (a a' : Nat) (b : Byte) : (m.write a b).read a' = if a' = a then b else m.read a' := by
  split_ifs with h
  · subst h; simp
  · exact read_write_ne m b h

/-- A write keeps the canonical form. -/
theorem wf_write (m : Memory) (a : Nat) (b : Byte) (h : m.wf = true) : (m.write a b).wf = true := by
  simp only [wf, Bool.and_eq_true, decide_eq_true_eq, List.all_eq_true] at h ⊢
  unfold write
  split_ifs with hb
  · exact ⟨h.1.filter _, fun e he => h.2 e (List.mem_of_mem_filter he)⟩
  · refine ⟨SMap.pairwise_set m a b h.1, fun e he => ?_⟩
    rcases SMap.key_mem_set m a b he with rfl | he
    · simpa using hb
    · exact h.2 e he

/-- Writing consecutive bytes keeps the canonical form. -/
theorem wf_writeBytes (bs : List Byte) (m : Memory) (a : Nat) (h : m.wf = true) : (m.writeBytes a bs).wf = true := by
  induction bs generalizing m a with
  | nil => exact h
  | cons b bs ih => exact ih _ _ (wf_write m a b h)

/-- A run of bytes is written at its addresses and nowhere else. -/
theorem read_writeBytes (bs : List Byte) (m : Memory) (a a' : Nat) :
    (m.writeBytes a bs).read a' = if a ≤ a' ∧ a' < a + bs.length then bs.getD (a' - a) 0 else m.read a' := by
  induction bs generalizing m a with
  | nil => simp [writeBytes]
  | cons b bs ih =>
    rw [writeBytes, ih, read_write]
    by_cases h : a' = a
    · subst h
      rw [if_neg (by omega), if_pos rfl, if_pos (by simp)]
      simp
    · by_cases h' : a ≤ a' ∧ a' < a + (b :: bs).length
      · rw [if_pos h', if_pos (by simp only [List.length_cons] at h'; omega)]
        obtain ⟨n, hn⟩ : ∃ n, a' - a = n + 1 := ⟨a' - a - 1, by omega⟩
        rw [hn, show a' - (a + 1) = n by omega]
        simp
      · rw [if_neg h', if_neg (by simp only [List.length_cons] at h'; omega), if_neg h]

/-- Memory with nothing listed is in canonical form, and reads 0 everywhere. -/
@[simp] theorem wf_nil : wf [] = true := by decide
@[simp] theorem read_nil (a : Nat) : read [] a = 0 := rfl

end Memory

end Sys2Proof.Machine
end

