-- ==== Sys2Proof/Laws/State.lean ====
section
/-! SUPPORT. One lemma for each field of a record that an update leaves or sets: the group's register writes, the updates of
a core, a cluster, a context and the message list in the machine. Each holds by unfolding the update once. -/

namespace Sys2Proof.Machine

/-! ### Register writes of a group: v registers -/

@[simp] theorem Group.setV_uid (g : Group) (r t : Nat) (x : Word) : (g.setV r t x).uid = g.uid := rfl
@[simp] theorem Group.setV_id (g : Group) (r t : Nat) (x : Word) : (g.setV r t x).id = g.id := rfl
@[simp] theorem Group.setV_valloc (g : Group) (r t : Nat) (x : Word) : (g.setV r t x).valloc = g.valloc := rfl
@[simp] theorem Group.setV_vtag (g : Group) (r t : Nat) (x : Word) : (g.setV r t x).vtag = g.vtag := rfl
@[simp] theorem Group.setV_k (g : Group) (r t : Nat) (x : Word) : (g.setV r t x).k = g.k := rfl
@[simp] theorem Group.setV_preds (g : Group) (r t : Nat) (x : Word) : (g.setV r t x).preds = g.preds := rfl
@[simp] theorem Group.setV_spans (g : Group) (r t : Nat) (x : Word) : (g.setV r t x).spans = g.spans := rfl
@[simp] theorem Group.setV_lines (g : Group) (r t : Nat) (x : Word) : (g.setV r t x).lines = g.lines := rfl
@[simp] theorem Group.setV_gang (g : Group) (r t : Nat) (x : Word) : (g.setV r t x).gang = g.gang := rfl
@[simp] theorem Group.setV_amask (g : Group) (r t : Nat) (x : Word) : (g.setV r t x).amask = g.amask := rfl
@[simp] theorem Group.setV_stack (g : Group) (r t : Nat) (x : Word) : (g.setV r t x).stack = g.stack := rfl
@[simp] theorem Group.setV_depth (g : Group) (r t : Nat) (x : Word) : (g.setV r t x).depth = g.depth := rfl
@[simp] theorem Group.setV_exited (g : Group) (r t : Nat) (x : Word) : (g.setV r t x).exited = g.exited := rfl
@[simp] theorem Group.setV_pc (g : Group) (r t : Nat) (x : Word) : (g.setV r t x).pc = g.pc := rfl
@[simp] theorem Group.setV_runCount (g : Group) (r t : Nat) (x : Word) : (g.setV r t x).runCount = g.runCount := rfl
@[simp] theorem Group.setV_sb (g : Group) (r t : Nat) (x : Word) : (g.setV r t x).sb = g.sb := rfl
@[simp] theorem Group.setV_bad (g : Group) (r t : Nat) (x : Word) : (g.setV r t x).bad = g.bad := rfl
@[simp] theorem Group.setV_acqHold (g : Group) (r t : Nat) (x : Word) : (g.setV r t x).acqHold = g.acqHold := rfl
@[simp] theorem Group.setV_relHold (g : Group) (r t : Nat) (x : Word) : (g.setV r t x).relHold = g.relHold := rfl
@[simp] theorem Group.setV_lsts (g : Group) (r t : Nat) (x : Word) : (g.setV r t x).lsts = g.lsts := rfl
@[simp] theorem Group.setV_fcode (g : Group) (r t : Nat) (x : Word) : (g.setV r t x).fcode = g.fcode := rfl
@[simp] theorem Group.setV_crit (g : Group) (r t : Nat) (x : Word) : (g.setV r t x).crit = g.crit := rfl
@[simp] theorem Group.setV_cause (g : Group) (r t : Nat) (x : Word) : (g.setV r t x).cause = g.cause := rfl
@[simp] theorem Group.setV_state (g : Group) (r t : Nat) (x : Word) : (g.setV r t x).state = g.state := rfl
@[simp] theorem Group.setV_wait (g : Group) (r t : Nat) (x : Word) : (g.setV r t x).wait = g.wait := rfl
@[simp] theorem Group.setV_bereave (g : Group) (r t : Nat) (x : Word) : (g.setV r t x).bereave = g.bereave := rfl
@[simp] theorem Group.setV_callow (g : Group) (r t : Nat) (x : Word) : (g.setV r t x).callow = g.callow := rfl
@[simp] theorem Group.setV_batch (g : Group) (r t : Nat) (x : Word) : (g.setV r t x).batch = g.batch := rfl
@[simp] theorem Group.setV_tokens (g : Group) (r t : Nat) (x : Word) : (g.setV r t x).tokens = g.tokens := rfl
@[simp] theorem Group.setV_eseq (g : Group) (r t : Nat) (x : Word) : (g.setV r t x).eseq = g.eseq := rfl
@[simp] theorem Group.setV_objects (g : Group) (r t : Nat) (x : Word) : (g.setV r t x).objects = g.objects := rfl
@[simp] theorem Group.setV_dspec (g : Group) (r t : Nat) (x : Word) : (g.setV r t x).dspec = g.dspec := rfl
@[simp] theorem Group.setV_didx (g : Group) (r t : Nat) (x : Word) : (g.setV r t x).didx = g.didx := rfl
@[simp] theorem Group.setV_arb (g : Group) (r t : Nat) (x : Word) : (g.setV r t x).arb = g.arb := rfl
@[simp] theorem Group.setV_dup (g : Group) (r t : Nat) (x : Word) : (g.setV r t x).dup = g.dup := rfl
@[simp] theorem Group.setV_eng (g : Group) (r t : Nat) (x : Word) : (g.setV r t x).eng = g.eng := rfl
@[simp] theorem Group.setV_stopMark (g : Group) (r t : Nat) (x : Word) : (g.setV r t x).stopMark = g.stopMark := rfl
@[simp] theorem Group.setV_freeze (g : Group) (r t : Nat) (x : Word) : (g.setV r t x).freeze = g.freeze := rfl
@[simp] theorem Group.setV_freezeBits (g : Group) (r t : Nat) (x : Word) : (g.setV r t x).freezeBits = g.freezeBits := rfl
@[simp] theorem Group.setV_preempt (g : Group) (r t : Nat) (x : Word) : (g.setV r t x).preempt = g.preempt := rfl
@[simp] theorem Group.setV_revoked (g : Group) (r t : Nat) (x : Word) : (g.setV r t x).revoked = g.revoked := rfl
@[simp] theorem Group.setV_skipImplicit (g : Group) (r t : Nat) (x : Word) : (g.setV r t x).skipImplicit = g.skipImplicit := rfl
@[simp] theorem Group.setV_parking (g : Group) (r t : Nat) (x : Word) : (g.setV r t x).parking = g.parking := rfl
@[simp] theorem Group.setV_unparking (g : Group) (r t : Nat) (x : Word) : (g.setV r t x).unparking = g.unparking := rfl
@[simp] theorem Group.setV_inReserve (g : Group) (r t : Nat) (x : Word) : (g.setV r t x).inReserve = g.inReserve := rfl
@[simp] theorem Group.setV_live (g : Group) (r t : Nat) (x : Word) : (g.setV r t x).live = g.live := rfl
@[simp] theorem Group.setV_atSafe (g : Group) (r t : Nat) (x : Word) : (g.setV r t x).atSafe = g.atSafe := rfl
@[simp] theorem Group.setV_testRuns (g : Group) (r t : Nat) (x : Word) : (g.setV r t x).testRuns = g.testRuns := rfl
@[simp] theorem Group.setV_home (g : Group) (r t : Nat) (x : Word) : (g.setV r t x).home = g.home := rfl
@[simp] theorem Group.setV_ending (g : Group) (r t : Nat) (x : Word) : (g.setV r t x).ending = g.ending := rfl

/-! ### k registers -/

@[simp] theorem Group.setK_uid (g : Group) (j : Nat) (x : Word) : (g.setK j x).uid = g.uid := rfl
@[simp] theorem Group.setK_id (g : Group) (j : Nat) (x : Word) : (g.setK j x).id = g.id := rfl
@[simp] theorem Group.setK_valloc (g : Group) (j : Nat) (x : Word) : (g.setK j x).valloc = g.valloc := rfl
@[simp] theorem Group.setK_v (g : Group) (j : Nat) (x : Word) : (g.setK j x).v = g.v := rfl
@[simp] theorem Group.setK_vtag (g : Group) (j : Nat) (x : Word) : (g.setK j x).vtag = g.vtag := rfl
@[simp] theorem Group.setK_preds (g : Group) (j : Nat) (x : Word) : (g.setK j x).preds = g.preds := rfl
@[simp] theorem Group.setK_spans (g : Group) (j : Nat) (x : Word) : (g.setK j x).spans = g.spans := rfl
@[simp] theorem Group.setK_lines (g : Group) (j : Nat) (x : Word) : (g.setK j x).lines = g.lines := rfl
@[simp] theorem Group.setK_gang (g : Group) (j : Nat) (x : Word) : (g.setK j x).gang = g.gang := rfl
@[simp] theorem Group.setK_amask (g : Group) (j : Nat) (x : Word) : (g.setK j x).amask = g.amask := rfl
@[simp] theorem Group.setK_stack (g : Group) (j : Nat) (x : Word) : (g.setK j x).stack = g.stack := rfl
@[simp] theorem Group.setK_depth (g : Group) (j : Nat) (x : Word) : (g.setK j x).depth = g.depth := rfl
@[simp] theorem Group.setK_exited (g : Group) (j : Nat) (x : Word) : (g.setK j x).exited = g.exited := rfl
@[simp] theorem Group.setK_pc (g : Group) (j : Nat) (x : Word) : (g.setK j x).pc = g.pc := rfl
@[simp] theorem Group.setK_runCount (g : Group) (j : Nat) (x : Word) : (g.setK j x).runCount = g.runCount := rfl
@[simp] theorem Group.setK_sb (g : Group) (j : Nat) (x : Word) : (g.setK j x).sb = g.sb := rfl
@[simp] theorem Group.setK_bad (g : Group) (j : Nat) (x : Word) : (g.setK j x).bad = g.bad := rfl
@[simp] theorem Group.setK_acqHold (g : Group) (j : Nat) (x : Word) : (g.setK j x).acqHold = g.acqHold := rfl
@[simp] theorem Group.setK_relHold (g : Group) (j : Nat) (x : Word) : (g.setK j x).relHold = g.relHold := rfl
@[simp] theorem Group.setK_lsts (g : Group) (j : Nat) (x : Word) : (g.setK j x).lsts = g.lsts := rfl
@[simp] theorem Group.setK_fcode (g : Group) (j : Nat) (x : Word) : (g.setK j x).fcode = g.fcode := rfl
@[simp] theorem Group.setK_crit (g : Group) (j : Nat) (x : Word) : (g.setK j x).crit = g.crit := rfl
@[simp] theorem Group.setK_cause (g : Group) (j : Nat) (x : Word) : (g.setK j x).cause = g.cause := rfl
@[simp] theorem Group.setK_state (g : Group) (j : Nat) (x : Word) : (g.setK j x).state = g.state := rfl
@[simp] theorem Group.setK_wait (g : Group) (j : Nat) (x : Word) : (g.setK j x).wait = g.wait := rfl
@[simp] theorem Group.setK_bereave (g : Group) (j : Nat) (x : Word) : (g.setK j x).bereave = g.bereave := rfl
@[simp] theorem Group.setK_callow (g : Group) (j : Nat) (x : Word) : (g.setK j x).callow = g.callow := rfl
@[simp] theorem Group.setK_batch (g : Group) (j : Nat) (x : Word) : (g.setK j x).batch = g.batch := rfl
@[simp] theorem Group.setK_tokens (g : Group) (j : Nat) (x : Word) : (g.setK j x).tokens = g.tokens := rfl
@[simp] theorem Group.setK_eseq (g : Group) (j : Nat) (x : Word) : (g.setK j x).eseq = g.eseq := rfl
@[simp] theorem Group.setK_objects (g : Group) (j : Nat) (x : Word) : (g.setK j x).objects = g.objects := rfl
@[simp] theorem Group.setK_dspec (g : Group) (j : Nat) (x : Word) : (g.setK j x).dspec = g.dspec := rfl
@[simp] theorem Group.setK_didx (g : Group) (j : Nat) (x : Word) : (g.setK j x).didx = g.didx := rfl
@[simp] theorem Group.setK_arb (g : Group) (j : Nat) (x : Word) : (g.setK j x).arb = g.arb := rfl
@[simp] theorem Group.setK_dup (g : Group) (j : Nat) (x : Word) : (g.setK j x).dup = g.dup := rfl
@[simp] theorem Group.setK_eng (g : Group) (j : Nat) (x : Word) : (g.setK j x).eng = g.eng := rfl
@[simp] theorem Group.setK_stopMark (g : Group) (j : Nat) (x : Word) : (g.setK j x).stopMark = g.stopMark := rfl
@[simp] theorem Group.setK_freeze (g : Group) (j : Nat) (x : Word) : (g.setK j x).freeze = g.freeze := rfl
@[simp] theorem Group.setK_freezeBits (g : Group) (j : Nat) (x : Word) : (g.setK j x).freezeBits = g.freezeBits := rfl
@[simp] theorem Group.setK_preempt (g : Group) (j : Nat) (x : Word) : (g.setK j x).preempt = g.preempt := rfl
@[simp] theorem Group.setK_revoked (g : Group) (j : Nat) (x : Word) : (g.setK j x).revoked = g.revoked := rfl
@[simp] theorem Group.setK_skipImplicit (g : Group) (j : Nat) (x : Word) : (g.setK j x).skipImplicit = g.skipImplicit := rfl
@[simp] theorem Group.setK_parking (g : Group) (j : Nat) (x : Word) : (g.setK j x).parking = g.parking := rfl
@[simp] theorem Group.setK_unparking (g : Group) (j : Nat) (x : Word) : (g.setK j x).unparking = g.unparking := rfl
@[simp] theorem Group.setK_inReserve (g : Group) (j : Nat) (x : Word) : (g.setK j x).inReserve = g.inReserve := rfl
@[simp] theorem Group.setK_live (g : Group) (j : Nat) (x : Word) : (g.setK j x).live = g.live := rfl
@[simp] theorem Group.setK_atSafe (g : Group) (j : Nat) (x : Word) : (g.setK j x).atSafe = g.atSafe := rfl
@[simp] theorem Group.setK_testRuns (g : Group) (j : Nat) (x : Word) : (g.setK j x).testRuns = g.testRuns := rfl
@[simp] theorem Group.setK_home (g : Group) (j : Nat) (x : Word) : (g.setK j x).home = g.home := rfl
@[simp] theorem Group.setK_ending (g : Group) (j : Nat) (x : Word) : (g.setK j x).ending = g.ending := rfl

/-! ### Format tags -/

@[simp] theorem Group.setTag_uid (g : Group) (r : Nat) (f : FTag) : (g.setTag r f).uid = g.uid := rfl
@[simp] theorem Group.setTag_id (g : Group) (r : Nat) (f : FTag) : (g.setTag r f).id = g.id := rfl
@[simp] theorem Group.setTag_valloc (g : Group) (r : Nat) (f : FTag) : (g.setTag r f).valloc = g.valloc := rfl
@[simp] theorem Group.setTag_v (g : Group) (r : Nat) (f : FTag) : (g.setTag r f).v = g.v := rfl
@[simp] theorem Group.setTag_k (g : Group) (r : Nat) (f : FTag) : (g.setTag r f).k = g.k := rfl
@[simp] theorem Group.setTag_preds (g : Group) (r : Nat) (f : FTag) : (g.setTag r f).preds = g.preds := rfl
@[simp] theorem Group.setTag_spans (g : Group) (r : Nat) (f : FTag) : (g.setTag r f).spans = g.spans := rfl
@[simp] theorem Group.setTag_lines (g : Group) (r : Nat) (f : FTag) : (g.setTag r f).lines = g.lines := rfl
@[simp] theorem Group.setTag_gang (g : Group) (r : Nat) (f : FTag) : (g.setTag r f).gang = g.gang := rfl
@[simp] theorem Group.setTag_amask (g : Group) (r : Nat) (f : FTag) : (g.setTag r f).amask = g.amask := rfl
@[simp] theorem Group.setTag_stack (g : Group) (r : Nat) (f : FTag) : (g.setTag r f).stack = g.stack := rfl
@[simp] theorem Group.setTag_depth (g : Group) (r : Nat) (f : FTag) : (g.setTag r f).depth = g.depth := rfl
@[simp] theorem Group.setTag_exited (g : Group) (r : Nat) (f : FTag) : (g.setTag r f).exited = g.exited := rfl
@[simp] theorem Group.setTag_pc (g : Group) (r : Nat) (f : FTag) : (g.setTag r f).pc = g.pc := rfl
@[simp] theorem Group.setTag_runCount (g : Group) (r : Nat) (f : FTag) : (g.setTag r f).runCount = g.runCount := rfl
@[simp] theorem Group.setTag_sb (g : Group) (r : Nat) (f : FTag) : (g.setTag r f).sb = g.sb := rfl
@[simp] theorem Group.setTag_bad (g : Group) (r : Nat) (f : FTag) : (g.setTag r f).bad = g.bad := rfl
@[simp] theorem Group.setTag_acqHold (g : Group) (r : Nat) (f : FTag) : (g.setTag r f).acqHold = g.acqHold := rfl
@[simp] theorem Group.setTag_relHold (g : Group) (r : Nat) (f : FTag) : (g.setTag r f).relHold = g.relHold := rfl
@[simp] theorem Group.setTag_lsts (g : Group) (r : Nat) (f : FTag) : (g.setTag r f).lsts = g.lsts := rfl
@[simp] theorem Group.setTag_fcode (g : Group) (r : Nat) (f : FTag) : (g.setTag r f).fcode = g.fcode := rfl
@[simp] theorem Group.setTag_crit (g : Group) (r : Nat) (f : FTag) : (g.setTag r f).crit = g.crit := rfl
@[simp] theorem Group.setTag_cause (g : Group) (r : Nat) (f : FTag) : (g.setTag r f).cause = g.cause := rfl
@[simp] theorem Group.setTag_state (g : Group) (r : Nat) (f : FTag) : (g.setTag r f).state = g.state := rfl
@[simp] theorem Group.setTag_wait (g : Group) (r : Nat) (f : FTag) : (g.setTag r f).wait = g.wait := rfl
@[simp] theorem Group.setTag_bereave (g : Group) (r : Nat) (f : FTag) : (g.setTag r f).bereave = g.bereave := rfl
@[simp] theorem Group.setTag_callow (g : Group) (r : Nat) (f : FTag) : (g.setTag r f).callow = g.callow := rfl
@[simp] theorem Group.setTag_batch (g : Group) (r : Nat) (f : FTag) : (g.setTag r f).batch = g.batch := rfl
@[simp] theorem Group.setTag_tokens (g : Group) (r : Nat) (f : FTag) : (g.setTag r f).tokens = g.tokens := rfl
@[simp] theorem Group.setTag_eseq (g : Group) (r : Nat) (f : FTag) : (g.setTag r f).eseq = g.eseq := rfl
@[simp] theorem Group.setTag_objects (g : Group) (r : Nat) (f : FTag) : (g.setTag r f).objects = g.objects := rfl
@[simp] theorem Group.setTag_dspec (g : Group) (r : Nat) (f : FTag) : (g.setTag r f).dspec = g.dspec := rfl
@[simp] theorem Group.setTag_didx (g : Group) (r : Nat) (f : FTag) : (g.setTag r f).didx = g.didx := rfl
@[simp] theorem Group.setTag_arb (g : Group) (r : Nat) (f : FTag) : (g.setTag r f).arb = g.arb := rfl
@[simp] theorem Group.setTag_dup (g : Group) (r : Nat) (f : FTag) : (g.setTag r f).dup = g.dup := rfl
@[simp] theorem Group.setTag_eng (g : Group) (r : Nat) (f : FTag) : (g.setTag r f).eng = g.eng := rfl
@[simp] theorem Group.setTag_stopMark (g : Group) (r : Nat) (f : FTag) : (g.setTag r f).stopMark = g.stopMark := rfl
@[simp] theorem Group.setTag_freeze (g : Group) (r : Nat) (f : FTag) : (g.setTag r f).freeze = g.freeze := rfl
@[simp] theorem Group.setTag_freezeBits (g : Group) (r : Nat) (f : FTag) : (g.setTag r f).freezeBits = g.freezeBits := rfl
@[simp] theorem Group.setTag_preempt (g : Group) (r : Nat) (f : FTag) : (g.setTag r f).preempt = g.preempt := rfl
@[simp] theorem Group.setTag_revoked (g : Group) (r : Nat) (f : FTag) : (g.setTag r f).revoked = g.revoked := rfl
@[simp] theorem Group.setTag_skipImplicit (g : Group) (r : Nat) (f : FTag) : (g.setTag r f).skipImplicit = g.skipImplicit := rfl
@[simp] theorem Group.setTag_parking (g : Group) (r : Nat) (f : FTag) : (g.setTag r f).parking = g.parking := rfl
@[simp] theorem Group.setTag_unparking (g : Group) (r : Nat) (f : FTag) : (g.setTag r f).unparking = g.unparking := rfl
@[simp] theorem Group.setTag_inReserve (g : Group) (r : Nat) (f : FTag) : (g.setTag r f).inReserve = g.inReserve := rfl
@[simp] theorem Group.setTag_live (g : Group) (r : Nat) (f : FTag) : (g.setTag r f).live = g.live := rfl
@[simp] theorem Group.setTag_atSafe (g : Group) (r : Nat) (f : FTag) : (g.setTag r f).atSafe = g.atSafe := rfl
@[simp] theorem Group.setTag_testRuns (g : Group) (r : Nat) (f : FTag) : (g.setTag r f).testRuns = g.testRuns := rfl
@[simp] theorem Group.setTag_home (g : Group) (r : Nat) (f : FTag) : (g.setTag r f).home = g.home := rfl
@[simp] theorem Group.setTag_ending (g : Group) (r : Nat) (f : FTag) : (g.setTag r f).ending = g.ending := rfl

/-! ### Span registers -/

@[simp] theorem Group.setSpan_uid (g : Group) (i : Nat) (x : Span) : (g.setSpan i x).uid = g.uid := rfl
@[simp] theorem Group.setSpan_id (g : Group) (i : Nat) (x : Span) : (g.setSpan i x).id = g.id := rfl
@[simp] theorem Group.setSpan_valloc (g : Group) (i : Nat) (x : Span) : (g.setSpan i x).valloc = g.valloc := rfl
@[simp] theorem Group.setSpan_v (g : Group) (i : Nat) (x : Span) : (g.setSpan i x).v = g.v := rfl
@[simp] theorem Group.setSpan_vtag (g : Group) (i : Nat) (x : Span) : (g.setSpan i x).vtag = g.vtag := rfl
@[simp] theorem Group.setSpan_k (g : Group) (i : Nat) (x : Span) : (g.setSpan i x).k = g.k := rfl
@[simp] theorem Group.setSpan_preds (g : Group) (i : Nat) (x : Span) : (g.setSpan i x).preds = g.preds := rfl
@[simp] theorem Group.setSpan_lines (g : Group) (i : Nat) (x : Span) : (g.setSpan i x).lines = g.lines := rfl
@[simp] theorem Group.setSpan_gang (g : Group) (i : Nat) (x : Span) : (g.setSpan i x).gang = g.gang := rfl
@[simp] theorem Group.setSpan_amask (g : Group) (i : Nat) (x : Span) : (g.setSpan i x).amask = g.amask := rfl
@[simp] theorem Group.setSpan_stack (g : Group) (i : Nat) (x : Span) : (g.setSpan i x).stack = g.stack := rfl
@[simp] theorem Group.setSpan_depth (g : Group) (i : Nat) (x : Span) : (g.setSpan i x).depth = g.depth := rfl
@[simp] theorem Group.setSpan_exited (g : Group) (i : Nat) (x : Span) : (g.setSpan i x).exited = g.exited := rfl
@[simp] theorem Group.setSpan_pc (g : Group) (i : Nat) (x : Span) : (g.setSpan i x).pc = g.pc := rfl
@[simp] theorem Group.setSpan_runCount (g : Group) (i : Nat) (x : Span) : (g.setSpan i x).runCount = g.runCount := rfl
@[simp] theorem Group.setSpan_sb (g : Group) (i : Nat) (x : Span) : (g.setSpan i x).sb = g.sb := rfl
@[simp] theorem Group.setSpan_bad (g : Group) (i : Nat) (x : Span) : (g.setSpan i x).bad = g.bad := rfl
@[simp] theorem Group.setSpan_acqHold (g : Group) (i : Nat) (x : Span) : (g.setSpan i x).acqHold = g.acqHold := rfl
@[simp] theorem Group.setSpan_relHold (g : Group) (i : Nat) (x : Span) : (g.setSpan i x).relHold = g.relHold := rfl
@[simp] theorem Group.setSpan_lsts (g : Group) (i : Nat) (x : Span) : (g.setSpan i x).lsts = g.lsts := rfl
@[simp] theorem Group.setSpan_fcode (g : Group) (i : Nat) (x : Span) : (g.setSpan i x).fcode = g.fcode := rfl
@[simp] theorem Group.setSpan_crit (g : Group) (i : Nat) (x : Span) : (g.setSpan i x).crit = g.crit := rfl
@[simp] theorem Group.setSpan_cause (g : Group) (i : Nat) (x : Span) : (g.setSpan i x).cause = g.cause := rfl
@[simp] theorem Group.setSpan_state (g : Group) (i : Nat) (x : Span) : (g.setSpan i x).state = g.state := rfl
@[simp] theorem Group.setSpan_wait (g : Group) (i : Nat) (x : Span) : (g.setSpan i x).wait = g.wait := rfl
@[simp] theorem Group.setSpan_bereave (g : Group) (i : Nat) (x : Span) : (g.setSpan i x).bereave = g.bereave := rfl
@[simp] theorem Group.setSpan_callow (g : Group) (i : Nat) (x : Span) : (g.setSpan i x).callow = g.callow := rfl
@[simp] theorem Group.setSpan_batch (g : Group) (i : Nat) (x : Span) : (g.setSpan i x).batch = g.batch := rfl
@[simp] theorem Group.setSpan_tokens (g : Group) (i : Nat) (x : Span) : (g.setSpan i x).tokens = g.tokens := rfl
@[simp] theorem Group.setSpan_eseq (g : Group) (i : Nat) (x : Span) : (g.setSpan i x).eseq = g.eseq := rfl
@[simp] theorem Group.setSpan_objects (g : Group) (i : Nat) (x : Span) : (g.setSpan i x).objects = g.objects := rfl
@[simp] theorem Group.setSpan_dspec (g : Group) (i : Nat) (x : Span) : (g.setSpan i x).dspec = g.dspec := rfl
@[simp] theorem Group.setSpan_didx (g : Group) (i : Nat) (x : Span) : (g.setSpan i x).didx = g.didx := rfl
@[simp] theorem Group.setSpan_arb (g : Group) (i : Nat) (x : Span) : (g.setSpan i x).arb = g.arb := rfl
@[simp] theorem Group.setSpan_dup (g : Group) (i : Nat) (x : Span) : (g.setSpan i x).dup = g.dup := rfl
@[simp] theorem Group.setSpan_eng (g : Group) (i : Nat) (x : Span) : (g.setSpan i x).eng = g.eng := rfl
@[simp] theorem Group.setSpan_stopMark (g : Group) (i : Nat) (x : Span) : (g.setSpan i x).stopMark = g.stopMark := rfl
@[simp] theorem Group.setSpan_freeze (g : Group) (i : Nat) (x : Span) : (g.setSpan i x).freeze = g.freeze := rfl
@[simp] theorem Group.setSpan_freezeBits (g : Group) (i : Nat) (x : Span) : (g.setSpan i x).freezeBits = g.freezeBits := rfl
@[simp] theorem Group.setSpan_preempt (g : Group) (i : Nat) (x : Span) : (g.setSpan i x).preempt = g.preempt := rfl
@[simp] theorem Group.setSpan_revoked (g : Group) (i : Nat) (x : Span) : (g.setSpan i x).revoked = g.revoked := rfl
@[simp] theorem Group.setSpan_skipImplicit (g : Group) (i : Nat) (x : Span) : (g.setSpan i x).skipImplicit = g.skipImplicit := rfl
@[simp] theorem Group.setSpan_parking (g : Group) (i : Nat) (x : Span) : (g.setSpan i x).parking = g.parking := rfl
@[simp] theorem Group.setSpan_unparking (g : Group) (i : Nat) (x : Span) : (g.setSpan i x).unparking = g.unparking := rfl
@[simp] theorem Group.setSpan_inReserve (g : Group) (i : Nat) (x : Span) : (g.setSpan i x).inReserve = g.inReserve := rfl
@[simp] theorem Group.setSpan_live (g : Group) (i : Nat) (x : Span) : (g.setSpan i x).live = g.live := rfl
@[simp] theorem Group.setSpan_atSafe (g : Group) (i : Nat) (x : Span) : (g.setSpan i x).atSafe = g.atSafe := rfl
@[simp] theorem Group.setSpan_testRuns (g : Group) (i : Nat) (x : Span) : (g.setSpan i x).testRuns = g.testRuns := rfl
@[simp] theorem Group.setSpan_home (g : Group) (i : Nat) (x : Span) : (g.setSpan i x).home = g.home := rfl
@[simp] theorem Group.setSpan_ending (g : Group) (i : Nat) (x : Span) : (g.setSpan i x).ending = g.ending := rfl

/-! ### Line registers -/

@[simp] theorem Group.setLine_uid (g : Group) (l : Nat) (x : LineReg) : (g.setLine l x).uid = g.uid := rfl
@[simp] theorem Group.setLine_id (g : Group) (l : Nat) (x : LineReg) : (g.setLine l x).id = g.id := rfl
@[simp] theorem Group.setLine_valloc (g : Group) (l : Nat) (x : LineReg) : (g.setLine l x).valloc = g.valloc := rfl
@[simp] theorem Group.setLine_v (g : Group) (l : Nat) (x : LineReg) : (g.setLine l x).v = g.v := rfl
@[simp] theorem Group.setLine_vtag (g : Group) (l : Nat) (x : LineReg) : (g.setLine l x).vtag = g.vtag := rfl
@[simp] theorem Group.setLine_k (g : Group) (l : Nat) (x : LineReg) : (g.setLine l x).k = g.k := rfl
@[simp] theorem Group.setLine_preds (g : Group) (l : Nat) (x : LineReg) : (g.setLine l x).preds = g.preds := rfl
@[simp] theorem Group.setLine_spans (g : Group) (l : Nat) (x : LineReg) : (g.setLine l x).spans = g.spans := rfl
@[simp] theorem Group.setLine_gang (g : Group) (l : Nat) (x : LineReg) : (g.setLine l x).gang = g.gang := rfl
@[simp] theorem Group.setLine_amask (g : Group) (l : Nat) (x : LineReg) : (g.setLine l x).amask = g.amask := rfl
@[simp] theorem Group.setLine_stack (g : Group) (l : Nat) (x : LineReg) : (g.setLine l x).stack = g.stack := rfl
@[simp] theorem Group.setLine_depth (g : Group) (l : Nat) (x : LineReg) : (g.setLine l x).depth = g.depth := rfl
@[simp] theorem Group.setLine_exited (g : Group) (l : Nat) (x : LineReg) : (g.setLine l x).exited = g.exited := rfl
@[simp] theorem Group.setLine_pc (g : Group) (l : Nat) (x : LineReg) : (g.setLine l x).pc = g.pc := rfl
@[simp] theorem Group.setLine_runCount (g : Group) (l : Nat) (x : LineReg) : (g.setLine l x).runCount = g.runCount := rfl
@[simp] theorem Group.setLine_sb (g : Group) (l : Nat) (x : LineReg) : (g.setLine l x).sb = g.sb := rfl
@[simp] theorem Group.setLine_bad (g : Group) (l : Nat) (x : LineReg) : (g.setLine l x).bad = g.bad := rfl
@[simp] theorem Group.setLine_acqHold (g : Group) (l : Nat) (x : LineReg) : (g.setLine l x).acqHold = g.acqHold := rfl
@[simp] theorem Group.setLine_relHold (g : Group) (l : Nat) (x : LineReg) : (g.setLine l x).relHold = g.relHold := rfl
@[simp] theorem Group.setLine_lsts (g : Group) (l : Nat) (x : LineReg) : (g.setLine l x).lsts = g.lsts := rfl
@[simp] theorem Group.setLine_fcode (g : Group) (l : Nat) (x : LineReg) : (g.setLine l x).fcode = g.fcode := rfl
@[simp] theorem Group.setLine_crit (g : Group) (l : Nat) (x : LineReg) : (g.setLine l x).crit = g.crit := rfl
@[simp] theorem Group.setLine_cause (g : Group) (l : Nat) (x : LineReg) : (g.setLine l x).cause = g.cause := rfl
@[simp] theorem Group.setLine_state (g : Group) (l : Nat) (x : LineReg) : (g.setLine l x).state = g.state := rfl
@[simp] theorem Group.setLine_wait (g : Group) (l : Nat) (x : LineReg) : (g.setLine l x).wait = g.wait := rfl
@[simp] theorem Group.setLine_bereave (g : Group) (l : Nat) (x : LineReg) : (g.setLine l x).bereave = g.bereave := rfl
@[simp] theorem Group.setLine_callow (g : Group) (l : Nat) (x : LineReg) : (g.setLine l x).callow = g.callow := rfl
@[simp] theorem Group.setLine_batch (g : Group) (l : Nat) (x : LineReg) : (g.setLine l x).batch = g.batch := rfl
@[simp] theorem Group.setLine_tokens (g : Group) (l : Nat) (x : LineReg) : (g.setLine l x).tokens = g.tokens := rfl
@[simp] theorem Group.setLine_eseq (g : Group) (l : Nat) (x : LineReg) : (g.setLine l x).eseq = g.eseq := rfl
@[simp] theorem Group.setLine_objects (g : Group) (l : Nat) (x : LineReg) : (g.setLine l x).objects = g.objects := rfl
@[simp] theorem Group.setLine_dspec (g : Group) (l : Nat) (x : LineReg) : (g.setLine l x).dspec = g.dspec := rfl
@[simp] theorem Group.setLine_didx (g : Group) (l : Nat) (x : LineReg) : (g.setLine l x).didx = g.didx := rfl
@[simp] theorem Group.setLine_arb (g : Group) (l : Nat) (x : LineReg) : (g.setLine l x).arb = g.arb := rfl
@[simp] theorem Group.setLine_dup (g : Group) (l : Nat) (x : LineReg) : (g.setLine l x).dup = g.dup := rfl
@[simp] theorem Group.setLine_eng (g : Group) (l : Nat) (x : LineReg) : (g.setLine l x).eng = g.eng := rfl
@[simp] theorem Group.setLine_stopMark (g : Group) (l : Nat) (x : LineReg) : (g.setLine l x).stopMark = g.stopMark := rfl
@[simp] theorem Group.setLine_freeze (g : Group) (l : Nat) (x : LineReg) : (g.setLine l x).freeze = g.freeze := rfl
@[simp] theorem Group.setLine_freezeBits (g : Group) (l : Nat) (x : LineReg) : (g.setLine l x).freezeBits = g.freezeBits := rfl
@[simp] theorem Group.setLine_preempt (g : Group) (l : Nat) (x : LineReg) : (g.setLine l x).preempt = g.preempt := rfl
@[simp] theorem Group.setLine_revoked (g : Group) (l : Nat) (x : LineReg) : (g.setLine l x).revoked = g.revoked := rfl
@[simp] theorem Group.setLine_skipImplicit (g : Group) (l : Nat) (x : LineReg) : (g.setLine l x).skipImplicit = g.skipImplicit := rfl
@[simp] theorem Group.setLine_parking (g : Group) (l : Nat) (x : LineReg) : (g.setLine l x).parking = g.parking := rfl
@[simp] theorem Group.setLine_unparking (g : Group) (l : Nat) (x : LineReg) : (g.setLine l x).unparking = g.unparking := rfl
@[simp] theorem Group.setLine_inReserve (g : Group) (l : Nat) (x : LineReg) : (g.setLine l x).inReserve = g.inReserve := rfl
@[simp] theorem Group.setLine_live (g : Group) (l : Nat) (x : LineReg) : (g.setLine l x).live = g.live := rfl
@[simp] theorem Group.setLine_atSafe (g : Group) (l : Nat) (x : LineReg) : (g.setLine l x).atSafe = g.atSafe := rfl
@[simp] theorem Group.setLine_testRuns (g : Group) (l : Nat) (x : LineReg) : (g.setLine l x).testRuns = g.testRuns := rfl
@[simp] theorem Group.setLine_home (g : Group) (l : Nat) (x : LineReg) : (g.setLine l x).home = g.home := rfl
@[simp] theorem Group.setLine_ending (g : Group) (l : Nat) (x : LineReg) : (g.setLine l x).ending = g.ending := rfl

/-! ### A lane of a core -/

@[simp] theorem Core.setLane_cycle (c : Core) (l : Nat) (x : Lane) : (c.setLane l x).cycle = c.cycle := rfl
@[simp] theorem Core.setLane_groups (c : Core) (l : Nat) (x : Lane) : (c.setLane l x).groups = c.groups := rfl
@[simp] theorem Core.setLane_frames (c : Core) (l : Nat) (x : Lane) : (c.setLane l x).frames = c.frames := rfl
@[simp] theorem Core.setLane_claims (c : Core) (l : Nat) (x : Lane) : (c.setLane l x).claims = c.claims := rfl
@[simp] theorem Core.setLane_estate (c : Core) (l : Nat) (x : Lane) : (c.setLane l x).estate = c.estate := rfl
@[simp] theorem Core.setLane_acc (c : Core) (l : Nat) (x : Lane) : (c.setLane l x).acc = c.acc := rfl
@[simp] theorem Core.setLane_engine (c : Core) (l : Nat) (x : Lane) : (c.setLane l x).engine = c.engine := rfl
@[simp] theorem Core.setLane_latches (c : Core) (l : Nat) (x : Lane) : (c.setLane l x).latches = c.latches := rfl
@[simp] theorem Core.setLane_dicts (c : Core) (l : Nat) (x : Lane) : (c.setLane l x).dicts = c.dicts := rfl
@[simp] theorem Core.setLane_mbox (c : Core) (l : Nat) (x : Lane) : (c.setLane l x).mbox = c.mbox := rfl
@[simp] theorem Core.setLane_stopList (c : Core) (l : Nat) (x : Lane) : (c.setLane l x).stopList = c.stopList := rfl
@[simp] theorem Core.setLane_mseq (c : Core) (l : Nat) (x : Lane) : (c.setLane l x).mseq = c.mseq := rfl
@[simp] theorem Core.setLane_chans (c : Core) (l : Nat) (x : Lane) : (c.setLane l x).chans = c.chans := rfl
@[simp] theorem Core.setLane_perf (c : Core) (l : Nat) (x : Lane) : (c.setLane l x).perf = c.perf := rfl
@[simp] theorem Core.setLane_select (c : Core) (l : Nat) (x : Lane) : (c.setLane l x).select = c.select := rfl
@[simp] theorem Core.setLane_sched (c : Core) (l : Nat) (x : Lane) : (c.setLane l x).sched = c.sched := rfl
@[simp] theorem Core.setLane_interval (c : Core) (l : Nat) (x : Lane) : (c.setLane l x).interval = c.interval := rfl
@[simp] theorem Core.setLane_meshp (c : Core) (l : Nat) (x : Lane) : (c.setLane l x).meshp = c.meshp := rfl
@[simp] theorem Core.setLane_congestion (c : Core) (l : Nat) (x : Lane) : (c.setLane l x).congestion = c.congestion := rfl
@[simp] theorem Core.setLane_meshSum (c : Core) (l : Nat) (x : Lane) : (c.setLane l x).meshSum = c.meshSum := rfl
@[simp] theorem Core.setLane_lastOpen (c : Core) (l : Nat) (x : Lane) : (c.setLane l x).lastOpen = c.lastOpen := rfl
@[simp] theorem Core.setLane_capped (c : Core) (l : Nat) (x : Lane) : (c.setLane l x).capped = c.capped := rfl
@[simp] theorem Core.setLane_capOwner (c : Core) (l : Nat) (x : Lane) : (c.setLane l x).capOwner = c.capOwner := rfl
@[simp] theorem Core.setLane_capHarvest (c : Core) (l : Nat) (x : Lane) : (c.setLane l x).capHarvest = c.capHarvest := rfl
@[simp] theorem Core.setLane_harvestCtx (c : Core) (l : Nat) (x : Lane) : (c.setLane l x).harvestCtx = c.harvestCtx := rfl
@[simp] theorem Core.setLane_ops (c : Core) (l : Nat) (x : Lane) : (c.setLane l x).ops = c.ops := rfl
@[simp] theorem Core.setLane_reserved (c : Core) (l : Nat) (x : Lane) : (c.setLane l x).reserved = c.reserved := rfl
@[simp] theorem Core.setLane_saved (c : Core) (l : Nat) (x : Lane) : (c.setLane l x).saved = c.saved := rfl
@[simp] theorem Core.setLane_savedAcc (c : Core) (l : Nat) (x : Lane) : (c.setLane l x).savedAcc = c.savedAcc := rfl
@[simp] theorem Core.setLane_outOfService (c : Core) (l : Nat) (x : Lane) : (c.setLane l x).outOfService = c.outOfService := rfl
@[simp] theorem Core.setLane_tableError (c : Core) (l : Nat) (x : Lane) : (c.setLane l x).tableError = c.tableError := rfl
@[simp] theorem Core.setLane_estateBad (c : Core) (l : Nat) (x : Lane) : (c.setLane l x).estateBad = c.estateBad := rfl
@[simp] theorem Core.setLane_testing (c : Core) (l : Nat) (x : Lane) : (c.setLane l x).testing = c.testing := rfl
@[simp] theorem Core.setLane_ownerRan (c : Core) (l : Nat) (x : Lane) : (c.setLane l x).ownerRan = c.ownerRan := rfl

/-! ### A performance counter of a core -/

@[simp] theorem Core.bump_cycle (c : Core) (i n : Nat) : (c.bump i n).cycle = c.cycle := rfl
@[simp] theorem Core.bump_groups (c : Core) (i n : Nat) : (c.bump i n).groups = c.groups := rfl
@[simp] theorem Core.bump_lanes (c : Core) (i n : Nat) : (c.bump i n).lanes = c.lanes := rfl
@[simp] theorem Core.bump_frames (c : Core) (i n : Nat) : (c.bump i n).frames = c.frames := rfl
@[simp] theorem Core.bump_claims (c : Core) (i n : Nat) : (c.bump i n).claims = c.claims := rfl
@[simp] theorem Core.bump_estate (c : Core) (i n : Nat) : (c.bump i n).estate = c.estate := rfl
@[simp] theorem Core.bump_acc (c : Core) (i n : Nat) : (c.bump i n).acc = c.acc := rfl
@[simp] theorem Core.bump_engine (c : Core) (i n : Nat) : (c.bump i n).engine = c.engine := rfl
@[simp] theorem Core.bump_latches (c : Core) (i n : Nat) : (c.bump i n).latches = c.latches := rfl
@[simp] theorem Core.bump_dicts (c : Core) (i n : Nat) : (c.bump i n).dicts = c.dicts := rfl
@[simp] theorem Core.bump_mbox (c : Core) (i n : Nat) : (c.bump i n).mbox = c.mbox := rfl
@[simp] theorem Core.bump_stopList (c : Core) (i n : Nat) : (c.bump i n).stopList = c.stopList := rfl
@[simp] theorem Core.bump_mseq (c : Core) (i n : Nat) : (c.bump i n).mseq = c.mseq := rfl
@[simp] theorem Core.bump_chans (c : Core) (i n : Nat) : (c.bump i n).chans = c.chans := rfl
@[simp] theorem Core.bump_select (c : Core) (i n : Nat) : (c.bump i n).select = c.select := rfl
@[simp] theorem Core.bump_sched (c : Core) (i n : Nat) : (c.bump i n).sched = c.sched := rfl
@[simp] theorem Core.bump_interval (c : Core) (i n : Nat) : (c.bump i n).interval = c.interval := rfl
@[simp] theorem Core.bump_meshp (c : Core) (i n : Nat) : (c.bump i n).meshp = c.meshp := rfl
@[simp] theorem Core.bump_congestion (c : Core) (i n : Nat) : (c.bump i n).congestion = c.congestion := rfl
@[simp] theorem Core.bump_meshSum (c : Core) (i n : Nat) : (c.bump i n).meshSum = c.meshSum := rfl
@[simp] theorem Core.bump_lastOpen (c : Core) (i n : Nat) : (c.bump i n).lastOpen = c.lastOpen := rfl
@[simp] theorem Core.bump_capped (c : Core) (i n : Nat) : (c.bump i n).capped = c.capped := rfl
@[simp] theorem Core.bump_capOwner (c : Core) (i n : Nat) : (c.bump i n).capOwner = c.capOwner := rfl
@[simp] theorem Core.bump_capHarvest (c : Core) (i n : Nat) : (c.bump i n).capHarvest = c.capHarvest := rfl
@[simp] theorem Core.bump_harvestCtx (c : Core) (i n : Nat) : (c.bump i n).harvestCtx = c.harvestCtx := rfl
@[simp] theorem Core.bump_ops (c : Core) (i n : Nat) : (c.bump i n).ops = c.ops := rfl
@[simp] theorem Core.bump_reserved (c : Core) (i n : Nat) : (c.bump i n).reserved = c.reserved := rfl
@[simp] theorem Core.bump_saved (c : Core) (i n : Nat) : (c.bump i n).saved = c.saved := rfl
@[simp] theorem Core.bump_savedAcc (c : Core) (i n : Nat) : (c.bump i n).savedAcc = c.savedAcc := rfl
@[simp] theorem Core.bump_outOfService (c : Core) (i n : Nat) : (c.bump i n).outOfService = c.outOfService := rfl
@[simp] theorem Core.bump_tableError (c : Core) (i n : Nat) : (c.bump i n).tableError = c.tableError := rfl
@[simp] theorem Core.bump_estateBad (c : Core) (i n : Nat) : (c.bump i n).estateBad = c.estateBad := rfl
@[simp] theorem Core.bump_testing (c : Core) (i n : Nat) : (c.bump i n).testing = c.testing := rfl
@[simp] theorem Core.bump_ownerRan (c : Core) (i n : Nat) : (c.bump i n).ownerRan = c.ownerRan := rfl

/-! ### A core of the machine -/

@[simp] theorem Mach.setCore_clusters (m : Mach) (c : Nat) (x : Core) : (m.setCore c x).clusters = m.clusters := rfl
@[simp] theorem Mach.setCore_dram (m : Mach) (c : Nat) (x : Core) : (m.setCore c x).dram = m.dram := rfl
@[simp] theorem Mach.setCore_hostMem (m : Mach) (c : Nat) (x : Core) : (m.setCore c x).hostMem = m.hostMem := rfl
@[simp] theorem Mach.setCore_peers (m : Mach) (c : Nat) (x : Core) : (m.setCore c x).peers = m.peers := rfl
@[simp] theorem Mach.setCore_fabric (m : Mach) (c : Nat) (x : Core) : (m.setCore c x).fabric = m.fabric := rfl
@[simp] theorem Mach.setCore_tags (m : Mach) (c : Nat) (x : Core) : (m.setCore c x).tags = m.tags := rfl
@[simp] theorem Mach.setCore_ecc (m : Mach) (c : Nat) (x : Core) : (m.setCore c x).ecc = m.ecc := rfl
@[simp] theorem Mach.setCore_waitTab (m : Mach) (c : Nat) (x : Core) : (m.setCore c x).waitTab = m.waitTab := rfl
@[simp] theorem Mach.setCore_replies (m : Mach) (c : Nat) (x : Core) : (m.setCore c x).replies = m.replies := rfl
@[simp] theorem Mach.setCore_slices (m : Mach) (c : Nat) (x : Core) : (m.setCore c x).slices = m.slices := rfl
@[simp] theorem Mach.setCore_walker (m : Mach) (c : Nat) (x : Core) : (m.setCore c x).walker = m.walker := rfl
@[simp] theorem Mach.setCore_jobs (m : Mach) (c : Nat) (x : Core) : (m.setCore c x).jobs = m.jobs := rfl
@[simp] theorem Mach.setCore_outbox (m : Mach) (c : Nat) (x : Core) : (m.setCore c x).outbox = m.outbox := rfl
@[simp] theorem Mach.setCore_ctxs (m : Mach) (c : Nat) (x : Core) : (m.setCore c x).ctxs = m.ctxs := rfl
@[simp] theorem Mach.setCore_queues (m : Mach) (c : Nat) (x : Core) : (m.setCore c x).queues = m.queues := rfl
@[simp] theorem Mach.setCore_launches (m : Mach) (c : Nat) (x : Core) : (m.setCore c x).launches = m.launches := rfl
@[simp] theorem Mach.setCore_rotation (m : Mach) (c : Nat) (x : Core) : (m.setCore c x).rotation = m.rotation := rfl
@[simp] theorem Mach.setCore_msgs (m : Mach) (c : Nat) (x : Core) : (m.setCore c x).msgs = m.msgs := rfl
@[simp] theorem Mach.setCore_fabricAtomics (m : Mach) (c : Nat) (x : Core) : (m.setCore c x).fabricAtomics = m.fabricAtomics := rfl
@[simp] theorem Mach.setCore_fabricRid (m : Mach) (c : Nat) (x : Core) : (m.setCore c x).fabricRid = m.fabricRid := rfl
@[simp] theorem Mach.setCore_windows (m : Mach) (c : Nat) (x : Core) : (m.setCore c x).windows = m.windows := rfl
@[simp] theorem Mach.setCore_log (m : Mach) (c : Nat) (x : Core) : (m.setCore c x).log = m.log := rfl
@[simp] theorem Mach.setCore_migration (m : Mach) (c : Nat) (x : Core) : (m.setCore c x).migration = m.migration := rfl
@[simp] theorem Mach.setCore_viral (m : Mach) (c : Nat) (x : Core) : (m.setCore c x).viral = m.viral := rfl
@[simp] theorem Mach.setCore_linkDown (m : Mach) (c : Nat) (x : Core) : (m.setCore c x).linkDown = m.linkDown := rfl
@[simp] theorem Mach.setCore_nextUid (m : Mach) (c : Nat) (x : Core) : (m.setCore c x).nextUid = m.nextUid := rfl
@[simp] theorem Mach.setCore_draws (m : Mach) (c : Nat) (x : Core) : (m.setCore c x).draws = m.draws := rfl
@[simp] theorem Mach.setCore_creates (m : Mach) (c : Nat) (x : Core) : (m.setCore c x).creates = m.creates := rfl
@[simp] theorem Mach.setCore_hostFrozen (m : Mach) (c : Nat) (x : Core) : (m.setCore c x).hostFrozen = m.hostFrozen := rfl
@[simp] theorem Mach.setCore_mmio (m : Mach) (c : Nat) (x : Core) : (m.setCore c x).mmio = m.mmio := rfl
@[simp] theorem Mach.setCore_hostReply (m : Mach) (c : Nat) (x : Core) : (m.setCore c x).hostReply = m.hostReply := rfl
@[simp] theorem Mach.setCore_halves (m : Mach) (c : Nat) (x : Core) : (m.setCore c x).halves = m.halves := rfl
@[simp] theorem Mach.setCore_chance (m : Mach) (c : Nat) (x : Core) : (m.setCore c x).chance = m.chance := rfl
@[simp] theorem Mach.setCore_peerTags (m : Mach) (c : Nat) (x : Core) : (m.setCore c x).peerTags = m.peerTags := rfl
@[simp] theorem Mach.setCore_peerEcc (m : Mach) (c : Nat) (x : Core) : (m.setCore c x).peerEcc = m.peerEcc := rfl
@[simp] theorem Mach.setCore_peerReads (m : Mach) (c : Nat) (x : Core) : (m.setCore c x).peerReads = m.peerReads := rfl
@[simp] theorem Mach.setCore_marks (m : Mach) (c : Nat) (x : Core) : (m.setCore c x).marks = m.marks := rfl

/-! ### A core of the machine, changed -/

@[simp] theorem Mach.modCore_clusters (m : Mach) (c : Nat) (f : Core → Core) : (m.modCore c f).clusters = m.clusters := rfl
@[simp] theorem Mach.modCore_dram (m : Mach) (c : Nat) (f : Core → Core) : (m.modCore c f).dram = m.dram := rfl
@[simp] theorem Mach.modCore_hostMem (m : Mach) (c : Nat) (f : Core → Core) : (m.modCore c f).hostMem = m.hostMem := rfl
@[simp] theorem Mach.modCore_peers (m : Mach) (c : Nat) (f : Core → Core) : (m.modCore c f).peers = m.peers := rfl
@[simp] theorem Mach.modCore_fabric (m : Mach) (c : Nat) (f : Core → Core) : (m.modCore c f).fabric = m.fabric := rfl
@[simp] theorem Mach.modCore_tags (m : Mach) (c : Nat) (f : Core → Core) : (m.modCore c f).tags = m.tags := rfl
@[simp] theorem Mach.modCore_ecc (m : Mach) (c : Nat) (f : Core → Core) : (m.modCore c f).ecc = m.ecc := rfl
@[simp] theorem Mach.modCore_waitTab (m : Mach) (c : Nat) (f : Core → Core) : (m.modCore c f).waitTab = m.waitTab := rfl
@[simp] theorem Mach.modCore_replies (m : Mach) (c : Nat) (f : Core → Core) : (m.modCore c f).replies = m.replies := rfl
@[simp] theorem Mach.modCore_slices (m : Mach) (c : Nat) (f : Core → Core) : (m.modCore c f).slices = m.slices := rfl
@[simp] theorem Mach.modCore_walker (m : Mach) (c : Nat) (f : Core → Core) : (m.modCore c f).walker = m.walker := rfl
@[simp] theorem Mach.modCore_jobs (m : Mach) (c : Nat) (f : Core → Core) : (m.modCore c f).jobs = m.jobs := rfl
@[simp] theorem Mach.modCore_outbox (m : Mach) (c : Nat) (f : Core → Core) : (m.modCore c f).outbox = m.outbox := rfl
@[simp] theorem Mach.modCore_ctxs (m : Mach) (c : Nat) (f : Core → Core) : (m.modCore c f).ctxs = m.ctxs := rfl
@[simp] theorem Mach.modCore_queues (m : Mach) (c : Nat) (f : Core → Core) : (m.modCore c f).queues = m.queues := rfl
@[simp] theorem Mach.modCore_launches (m : Mach) (c : Nat) (f : Core → Core) : (m.modCore c f).launches = m.launches := rfl
@[simp] theorem Mach.modCore_rotation (m : Mach) (c : Nat) (f : Core → Core) : (m.modCore c f).rotation = m.rotation := rfl
@[simp] theorem Mach.modCore_msgs (m : Mach) (c : Nat) (f : Core → Core) : (m.modCore c f).msgs = m.msgs := rfl
@[simp] theorem Mach.modCore_fabricAtomics (m : Mach) (c : Nat) (f : Core → Core) : (m.modCore c f).fabricAtomics = m.fabricAtomics := rfl
@[simp] theorem Mach.modCore_fabricRid (m : Mach) (c : Nat) (f : Core → Core) : (m.modCore c f).fabricRid = m.fabricRid := rfl
@[simp] theorem Mach.modCore_windows (m : Mach) (c : Nat) (f : Core → Core) : (m.modCore c f).windows = m.windows := rfl
@[simp] theorem Mach.modCore_log (m : Mach) (c : Nat) (f : Core → Core) : (m.modCore c f).log = m.log := rfl
@[simp] theorem Mach.modCore_migration (m : Mach) (c : Nat) (f : Core → Core) : (m.modCore c f).migration = m.migration := rfl
@[simp] theorem Mach.modCore_viral (m : Mach) (c : Nat) (f : Core → Core) : (m.modCore c f).viral = m.viral := rfl
@[simp] theorem Mach.modCore_linkDown (m : Mach) (c : Nat) (f : Core → Core) : (m.modCore c f).linkDown = m.linkDown := rfl
@[simp] theorem Mach.modCore_nextUid (m : Mach) (c : Nat) (f : Core → Core) : (m.modCore c f).nextUid = m.nextUid := rfl
@[simp] theorem Mach.modCore_draws (m : Mach) (c : Nat) (f : Core → Core) : (m.modCore c f).draws = m.draws := rfl
@[simp] theorem Mach.modCore_creates (m : Mach) (c : Nat) (f : Core → Core) : (m.modCore c f).creates = m.creates := rfl
@[simp] theorem Mach.modCore_hostFrozen (m : Mach) (c : Nat) (f : Core → Core) : (m.modCore c f).hostFrozen = m.hostFrozen := rfl
@[simp] theorem Mach.modCore_mmio (m : Mach) (c : Nat) (f : Core → Core) : (m.modCore c f).mmio = m.mmio := rfl
@[simp] theorem Mach.modCore_hostReply (m : Mach) (c : Nat) (f : Core → Core) : (m.modCore c f).hostReply = m.hostReply := rfl
@[simp] theorem Mach.modCore_halves (m : Mach) (c : Nat) (f : Core → Core) : (m.modCore c f).halves = m.halves := rfl
@[simp] theorem Mach.modCore_chance (m : Mach) (c : Nat) (f : Core → Core) : (m.modCore c f).chance = m.chance := rfl
@[simp] theorem Mach.modCore_peerTags (m : Mach) (c : Nat) (f : Core → Core) : (m.modCore c f).peerTags = m.peerTags := rfl
@[simp] theorem Mach.modCore_peerEcc (m : Mach) (c : Nat) (f : Core → Core) : (m.modCore c f).peerEcc = m.peerEcc := rfl
@[simp] theorem Mach.modCore_peerReads (m : Mach) (c : Nat) (f : Core → Core) : (m.modCore c f).peerReads = m.peerReads := rfl
@[simp] theorem Mach.modCore_marks (m : Mach) (c : Nat) (f : Core → Core) : (m.modCore c f).marks = m.marks := rfl

/-! ### A cluster of the machine -/

@[simp] theorem Mach.setCluster_cores (m : Mach) (c : Nat) (x : Cluster) : (m.setCluster c x).cores = m.cores := rfl
@[simp] theorem Mach.setCluster_dram (m : Mach) (c : Nat) (x : Cluster) : (m.setCluster c x).dram = m.dram := rfl
@[simp] theorem Mach.setCluster_hostMem (m : Mach) (c : Nat) (x : Cluster) : (m.setCluster c x).hostMem = m.hostMem := rfl
@[simp] theorem Mach.setCluster_peers (m : Mach) (c : Nat) (x : Cluster) : (m.setCluster c x).peers = m.peers := rfl
@[simp] theorem Mach.setCluster_fabric (m : Mach) (c : Nat) (x : Cluster) : (m.setCluster c x).fabric = m.fabric := rfl
@[simp] theorem Mach.setCluster_tags (m : Mach) (c : Nat) (x : Cluster) : (m.setCluster c x).tags = m.tags := rfl
@[simp] theorem Mach.setCluster_ecc (m : Mach) (c : Nat) (x : Cluster) : (m.setCluster c x).ecc = m.ecc := rfl
@[simp] theorem Mach.setCluster_waitTab (m : Mach) (c : Nat) (x : Cluster) : (m.setCluster c x).waitTab = m.waitTab := rfl
@[simp] theorem Mach.setCluster_replies (m : Mach) (c : Nat) (x : Cluster) : (m.setCluster c x).replies = m.replies := rfl
@[simp] theorem Mach.setCluster_slices (m : Mach) (c : Nat) (x : Cluster) : (m.setCluster c x).slices = m.slices := rfl
@[simp] theorem Mach.setCluster_walker (m : Mach) (c : Nat) (x : Cluster) : (m.setCluster c x).walker = m.walker := rfl
@[simp] theorem Mach.setCluster_jobs (m : Mach) (c : Nat) (x : Cluster) : (m.setCluster c x).jobs = m.jobs := rfl
@[simp] theorem Mach.setCluster_outbox (m : Mach) (c : Nat) (x : Cluster) : (m.setCluster c x).outbox = m.outbox := rfl
@[simp] theorem Mach.setCluster_ctxs (m : Mach) (c : Nat) (x : Cluster) : (m.setCluster c x).ctxs = m.ctxs := rfl
@[simp] theorem Mach.setCluster_queues (m : Mach) (c : Nat) (x : Cluster) : (m.setCluster c x).queues = m.queues := rfl
@[simp] theorem Mach.setCluster_launches (m : Mach) (c : Nat) (x : Cluster) : (m.setCluster c x).launches = m.launches := rfl
@[simp] theorem Mach.setCluster_rotation (m : Mach) (c : Nat) (x : Cluster) : (m.setCluster c x).rotation = m.rotation := rfl
@[simp] theorem Mach.setCluster_msgs (m : Mach) (c : Nat) (x : Cluster) : (m.setCluster c x).msgs = m.msgs := rfl
@[simp] theorem Mach.setCluster_fabricAtomics (m : Mach) (c : Nat) (x : Cluster) : (m.setCluster c x).fabricAtomics = m.fabricAtomics := rfl
@[simp] theorem Mach.setCluster_fabricRid (m : Mach) (c : Nat) (x : Cluster) : (m.setCluster c x).fabricRid = m.fabricRid := rfl
@[simp] theorem Mach.setCluster_windows (m : Mach) (c : Nat) (x : Cluster) : (m.setCluster c x).windows = m.windows := rfl
@[simp] theorem Mach.setCluster_log (m : Mach) (c : Nat) (x : Cluster) : (m.setCluster c x).log = m.log := rfl
@[simp] theorem Mach.setCluster_migration (m : Mach) (c : Nat) (x : Cluster) : (m.setCluster c x).migration = m.migration := rfl
@[simp] theorem Mach.setCluster_viral (m : Mach) (c : Nat) (x : Cluster) : (m.setCluster c x).viral = m.viral := rfl
@[simp] theorem Mach.setCluster_linkDown (m : Mach) (c : Nat) (x : Cluster) : (m.setCluster c x).linkDown = m.linkDown := rfl
@[simp] theorem Mach.setCluster_nextUid (m : Mach) (c : Nat) (x : Cluster) : (m.setCluster c x).nextUid = m.nextUid := rfl
@[simp] theorem Mach.setCluster_draws (m : Mach) (c : Nat) (x : Cluster) : (m.setCluster c x).draws = m.draws := rfl
@[simp] theorem Mach.setCluster_creates (m : Mach) (c : Nat) (x : Cluster) : (m.setCluster c x).creates = m.creates := rfl
@[simp] theorem Mach.setCluster_hostFrozen (m : Mach) (c : Nat) (x : Cluster) : (m.setCluster c x).hostFrozen = m.hostFrozen := rfl
@[simp] theorem Mach.setCluster_mmio (m : Mach) (c : Nat) (x : Cluster) : (m.setCluster c x).mmio = m.mmio := rfl
@[simp] theorem Mach.setCluster_hostReply (m : Mach) (c : Nat) (x : Cluster) : (m.setCluster c x).hostReply = m.hostReply := rfl
@[simp] theorem Mach.setCluster_halves (m : Mach) (c : Nat) (x : Cluster) : (m.setCluster c x).halves = m.halves := rfl
@[simp] theorem Mach.setCluster_chance (m : Mach) (c : Nat) (x : Cluster) : (m.setCluster c x).chance = m.chance := rfl
@[simp] theorem Mach.setCluster_peerTags (m : Mach) (c : Nat) (x : Cluster) : (m.setCluster c x).peerTags = m.peerTags := rfl
@[simp] theorem Mach.setCluster_peerEcc (m : Mach) (c : Nat) (x : Cluster) : (m.setCluster c x).peerEcc = m.peerEcc := rfl
@[simp] theorem Mach.setCluster_peerReads (m : Mach) (c : Nat) (x : Cluster) : (m.setCluster c x).peerReads = m.peerReads := rfl
@[simp] theorem Mach.setCluster_marks (m : Mach) (c : Nat) (x : Cluster) : (m.setCluster c x).marks = m.marks := rfl

/-! ### A context of the machine -/

@[simp] theorem Mach.modCtx_cores (m : Mach) (n : Nat) (f : Ctx → Ctx) : (m.modCtx n f).cores = m.cores := rfl
@[simp] theorem Mach.modCtx_clusters (m : Mach) (n : Nat) (f : Ctx → Ctx) : (m.modCtx n f).clusters = m.clusters := rfl
@[simp] theorem Mach.modCtx_dram (m : Mach) (n : Nat) (f : Ctx → Ctx) : (m.modCtx n f).dram = m.dram := rfl
@[simp] theorem Mach.modCtx_hostMem (m : Mach) (n : Nat) (f : Ctx → Ctx) : (m.modCtx n f).hostMem = m.hostMem := rfl
@[simp] theorem Mach.modCtx_peers (m : Mach) (n : Nat) (f : Ctx → Ctx) : (m.modCtx n f).peers = m.peers := rfl
@[simp] theorem Mach.modCtx_fabric (m : Mach) (n : Nat) (f : Ctx → Ctx) : (m.modCtx n f).fabric = m.fabric := rfl
@[simp] theorem Mach.modCtx_tags (m : Mach) (n : Nat) (f : Ctx → Ctx) : (m.modCtx n f).tags = m.tags := rfl
@[simp] theorem Mach.modCtx_ecc (m : Mach) (n : Nat) (f : Ctx → Ctx) : (m.modCtx n f).ecc = m.ecc := rfl
@[simp] theorem Mach.modCtx_waitTab (m : Mach) (n : Nat) (f : Ctx → Ctx) : (m.modCtx n f).waitTab = m.waitTab := rfl
@[simp] theorem Mach.modCtx_replies (m : Mach) (n : Nat) (f : Ctx → Ctx) : (m.modCtx n f).replies = m.replies := rfl
@[simp] theorem Mach.modCtx_slices (m : Mach) (n : Nat) (f : Ctx → Ctx) : (m.modCtx n f).slices = m.slices := rfl
@[simp] theorem Mach.modCtx_walker (m : Mach) (n : Nat) (f : Ctx → Ctx) : (m.modCtx n f).walker = m.walker := rfl
@[simp] theorem Mach.modCtx_jobs (m : Mach) (n : Nat) (f : Ctx → Ctx) : (m.modCtx n f).jobs = m.jobs := rfl
@[simp] theorem Mach.modCtx_outbox (m : Mach) (n : Nat) (f : Ctx → Ctx) : (m.modCtx n f).outbox = m.outbox := rfl
@[simp] theorem Mach.modCtx_queues (m : Mach) (n : Nat) (f : Ctx → Ctx) : (m.modCtx n f).queues = m.queues := rfl
@[simp] theorem Mach.modCtx_launches (m : Mach) (n : Nat) (f : Ctx → Ctx) : (m.modCtx n f).launches = m.launches := rfl
@[simp] theorem Mach.modCtx_rotation (m : Mach) (n : Nat) (f : Ctx → Ctx) : (m.modCtx n f).rotation = m.rotation := rfl
@[simp] theorem Mach.modCtx_msgs (m : Mach) (n : Nat) (f : Ctx → Ctx) : (m.modCtx n f).msgs = m.msgs := rfl
@[simp] theorem Mach.modCtx_fabricAtomics (m : Mach) (n : Nat) (f : Ctx → Ctx) : (m.modCtx n f).fabricAtomics = m.fabricAtomics := rfl
@[simp] theorem Mach.modCtx_fabricRid (m : Mach) (n : Nat) (f : Ctx → Ctx) : (m.modCtx n f).fabricRid = m.fabricRid := rfl
@[simp] theorem Mach.modCtx_windows (m : Mach) (n : Nat) (f : Ctx → Ctx) : (m.modCtx n f).windows = m.windows := rfl
@[simp] theorem Mach.modCtx_log (m : Mach) (n : Nat) (f : Ctx → Ctx) : (m.modCtx n f).log = m.log := rfl
@[simp] theorem Mach.modCtx_migration (m : Mach) (n : Nat) (f : Ctx → Ctx) : (m.modCtx n f).migration = m.migration := rfl
@[simp] theorem Mach.modCtx_viral (m : Mach) (n : Nat) (f : Ctx → Ctx) : (m.modCtx n f).viral = m.viral := rfl
@[simp] theorem Mach.modCtx_linkDown (m : Mach) (n : Nat) (f : Ctx → Ctx) : (m.modCtx n f).linkDown = m.linkDown := rfl
@[simp] theorem Mach.modCtx_nextUid (m : Mach) (n : Nat) (f : Ctx → Ctx) : (m.modCtx n f).nextUid = m.nextUid := rfl
@[simp] theorem Mach.modCtx_draws (m : Mach) (n : Nat) (f : Ctx → Ctx) : (m.modCtx n f).draws = m.draws := rfl
@[simp] theorem Mach.modCtx_creates (m : Mach) (n : Nat) (f : Ctx → Ctx) : (m.modCtx n f).creates = m.creates := rfl
@[simp] theorem Mach.modCtx_hostFrozen (m : Mach) (n : Nat) (f : Ctx → Ctx) : (m.modCtx n f).hostFrozen = m.hostFrozen := rfl
@[simp] theorem Mach.modCtx_mmio (m : Mach) (n : Nat) (f : Ctx → Ctx) : (m.modCtx n f).mmio = m.mmio := rfl
@[simp] theorem Mach.modCtx_hostReply (m : Mach) (n : Nat) (f : Ctx → Ctx) : (m.modCtx n f).hostReply = m.hostReply := rfl
@[simp] theorem Mach.modCtx_halves (m : Mach) (n : Nat) (f : Ctx → Ctx) : (m.modCtx n f).halves = m.halves := rfl
@[simp] theorem Mach.modCtx_chance (m : Mach) (n : Nat) (f : Ctx → Ctx) : (m.modCtx n f).chance = m.chance := rfl
@[simp] theorem Mach.modCtx_peerTags (m : Mach) (n : Nat) (f : Ctx → Ctx) : (m.modCtx n f).peerTags = m.peerTags := rfl
@[simp] theorem Mach.modCtx_peerEcc (m : Mach) (n : Nat) (f : Ctx → Ctx) : (m.modCtx n f).peerEcc = m.peerEcc := rfl
@[simp] theorem Mach.modCtx_peerReads (m : Mach) (n : Nat) (f : Ctx → Ctx) : (m.modCtx n f).peerReads = m.peerReads := rfl
@[simp] theorem Mach.modCtx_marks (m : Mach) (n : Nat) (f : Ctx → Ctx) : (m.modCtx n f).marks = m.marks := rfl

/-! ### The resident group of a slot -/

@[simp] theorem Mach.setGroup_clusters (m : Mach) (c k : Nat) (g : Group) : (m.setGroup c k g).clusters = m.clusters := rfl
@[simp] theorem Mach.setGroup_dram (m : Mach) (c k : Nat) (g : Group) : (m.setGroup c k g).dram = m.dram := rfl
@[simp] theorem Mach.setGroup_hostMem (m : Mach) (c k : Nat) (g : Group) : (m.setGroup c k g).hostMem = m.hostMem := rfl
@[simp] theorem Mach.setGroup_peers (m : Mach) (c k : Nat) (g : Group) : (m.setGroup c k g).peers = m.peers := rfl
@[simp] theorem Mach.setGroup_fabric (m : Mach) (c k : Nat) (g : Group) : (m.setGroup c k g).fabric = m.fabric := rfl
@[simp] theorem Mach.setGroup_tags (m : Mach) (c k : Nat) (g : Group) : (m.setGroup c k g).tags = m.tags := rfl
@[simp] theorem Mach.setGroup_ecc (m : Mach) (c k : Nat) (g : Group) : (m.setGroup c k g).ecc = m.ecc := rfl
@[simp] theorem Mach.setGroup_waitTab (m : Mach) (c k : Nat) (g : Group) : (m.setGroup c k g).waitTab = m.waitTab := rfl
@[simp] theorem Mach.setGroup_replies (m : Mach) (c k : Nat) (g : Group) : (m.setGroup c k g).replies = m.replies := rfl
@[simp] theorem Mach.setGroup_slices (m : Mach) (c k : Nat) (g : Group) : (m.setGroup c k g).slices = m.slices := rfl
@[simp] theorem Mach.setGroup_walker (m : Mach) (c k : Nat) (g : Group) : (m.setGroup c k g).walker = m.walker := rfl
@[simp] theorem Mach.setGroup_jobs (m : Mach) (c k : Nat) (g : Group) : (m.setGroup c k g).jobs = m.jobs := rfl
@[simp] theorem Mach.setGroup_outbox (m : Mach) (c k : Nat) (g : Group) : (m.setGroup c k g).outbox = m.outbox := rfl
@[simp] theorem Mach.setGroup_ctxs (m : Mach) (c k : Nat) (g : Group) : (m.setGroup c k g).ctxs = m.ctxs := rfl
@[simp] theorem Mach.setGroup_queues (m : Mach) (c k : Nat) (g : Group) : (m.setGroup c k g).queues = m.queues := rfl
@[simp] theorem Mach.setGroup_launches (m : Mach) (c k : Nat) (g : Group) : (m.setGroup c k g).launches = m.launches := rfl
@[simp] theorem Mach.setGroup_rotation (m : Mach) (c k : Nat) (g : Group) : (m.setGroup c k g).rotation = m.rotation := rfl
@[simp] theorem Mach.setGroup_msgs (m : Mach) (c k : Nat) (g : Group) : (m.setGroup c k g).msgs = m.msgs := rfl
@[simp] theorem Mach.setGroup_fabricAtomics (m : Mach) (c k : Nat) (g : Group) : (m.setGroup c k g).fabricAtomics = m.fabricAtomics := rfl
@[simp] theorem Mach.setGroup_fabricRid (m : Mach) (c k : Nat) (g : Group) : (m.setGroup c k g).fabricRid = m.fabricRid := rfl
@[simp] theorem Mach.setGroup_windows (m : Mach) (c k : Nat) (g : Group) : (m.setGroup c k g).windows = m.windows := rfl
@[simp] theorem Mach.setGroup_log (m : Mach) (c k : Nat) (g : Group) : (m.setGroup c k g).log = m.log := rfl
@[simp] theorem Mach.setGroup_migration (m : Mach) (c k : Nat) (g : Group) : (m.setGroup c k g).migration = m.migration := rfl
@[simp] theorem Mach.setGroup_viral (m : Mach) (c k : Nat) (g : Group) : (m.setGroup c k g).viral = m.viral := rfl
@[simp] theorem Mach.setGroup_linkDown (m : Mach) (c k : Nat) (g : Group) : (m.setGroup c k g).linkDown = m.linkDown := rfl
@[simp] theorem Mach.setGroup_nextUid (m : Mach) (c k : Nat) (g : Group) : (m.setGroup c k g).nextUid = m.nextUid := rfl
@[simp] theorem Mach.setGroup_draws (m : Mach) (c k : Nat) (g : Group) : (m.setGroup c k g).draws = m.draws := rfl
@[simp] theorem Mach.setGroup_creates (m : Mach) (c k : Nat) (g : Group) : (m.setGroup c k g).creates = m.creates := rfl
@[simp] theorem Mach.setGroup_hostFrozen (m : Mach) (c k : Nat) (g : Group) : (m.setGroup c k g).hostFrozen = m.hostFrozen := rfl
@[simp] theorem Mach.setGroup_mmio (m : Mach) (c k : Nat) (g : Group) : (m.setGroup c k g).mmio = m.mmio := rfl
@[simp] theorem Mach.setGroup_hostReply (m : Mach) (c k : Nat) (g : Group) : (m.setGroup c k g).hostReply = m.hostReply := rfl
@[simp] theorem Mach.setGroup_halves (m : Mach) (c k : Nat) (g : Group) : (m.setGroup c k g).halves = m.halves := rfl
@[simp] theorem Mach.setGroup_chance (m : Mach) (c k : Nat) (g : Group) : (m.setGroup c k g).chance = m.chance := rfl
@[simp] theorem Mach.setGroup_peerTags (m : Mach) (c k : Nat) (g : Group) : (m.setGroup c k g).peerTags = m.peerTags := rfl
@[simp] theorem Mach.setGroup_peerEcc (m : Mach) (c k : Nat) (g : Group) : (m.setGroup c k g).peerEcc = m.peerEcc := rfl
@[simp] theorem Mach.setGroup_peerReads (m : Mach) (c k : Nat) (g : Group) : (m.setGroup c k g).peerReads = m.peerReads := rfl
@[simp] theorem Mach.setGroup_marks (m : Mach) (c k : Nat) (g : Group) : (m.setGroup c k g).marks = m.marks := rfl

/-! ### A message sent -/

@[simp] theorem Mach.send_cores (m : Mach) (core slot uid place due : Nat) (held : Bool) (b : MsgBody) (src : Option Nat) :
    (m.send core slot uid place due held b src).cores = m.cores := rfl
@[simp] theorem Mach.send_clusters (m : Mach) (core slot uid place due : Nat) (held : Bool) (b : MsgBody) (src : Option Nat) :
    (m.send core slot uid place due held b src).clusters = m.clusters := rfl
@[simp] theorem Mach.send_dram (m : Mach) (core slot uid place due : Nat) (held : Bool) (b : MsgBody) (src : Option Nat) :
    (m.send core slot uid place due held b src).dram = m.dram := rfl
@[simp] theorem Mach.send_hostMem (m : Mach) (core slot uid place due : Nat) (held : Bool) (b : MsgBody) (src : Option Nat) :
    (m.send core slot uid place due held b src).hostMem = m.hostMem := rfl
@[simp] theorem Mach.send_peers (m : Mach) (core slot uid place due : Nat) (held : Bool) (b : MsgBody) (src : Option Nat) :
    (m.send core slot uid place due held b src).peers = m.peers := rfl
@[simp] theorem Mach.send_fabric (m : Mach) (core slot uid place due : Nat) (held : Bool) (b : MsgBody) (src : Option Nat) :
    (m.send core slot uid place due held b src).fabric = m.fabric := rfl
@[simp] theorem Mach.send_tags (m : Mach) (core slot uid place due : Nat) (held : Bool) (b : MsgBody) (src : Option Nat) :
    (m.send core slot uid place due held b src).tags = m.tags := rfl
@[simp] theorem Mach.send_ecc (m : Mach) (core slot uid place due : Nat) (held : Bool) (b : MsgBody) (src : Option Nat) :
    (m.send core slot uid place due held b src).ecc = m.ecc := rfl
@[simp] theorem Mach.send_waitTab (m : Mach) (core slot uid place due : Nat) (held : Bool) (b : MsgBody) (src : Option Nat) :
    (m.send core slot uid place due held b src).waitTab = m.waitTab := rfl
@[simp] theorem Mach.send_replies (m : Mach) (core slot uid place due : Nat) (held : Bool) (b : MsgBody) (src : Option Nat) :
    (m.send core slot uid place due held b src).replies = m.replies := rfl
@[simp] theorem Mach.send_slices (m : Mach) (core slot uid place due : Nat) (held : Bool) (b : MsgBody) (src : Option Nat) :
    (m.send core slot uid place due held b src).slices = m.slices := rfl
@[simp] theorem Mach.send_walker (m : Mach) (core slot uid place due : Nat) (held : Bool) (b : MsgBody) (src : Option Nat) :
    (m.send core slot uid place due held b src).walker = m.walker := rfl
@[simp] theorem Mach.send_jobs (m : Mach) (core slot uid place due : Nat) (held : Bool) (b : MsgBody) (src : Option Nat) :
    (m.send core slot uid place due held b src).jobs = m.jobs := rfl
@[simp] theorem Mach.send_outbox (m : Mach) (core slot uid place due : Nat) (held : Bool) (b : MsgBody) (src : Option Nat) :
    (m.send core slot uid place due held b src).outbox = m.outbox := rfl
@[simp] theorem Mach.send_ctxs (m : Mach) (core slot uid place due : Nat) (held : Bool) (b : MsgBody) (src : Option Nat) :
    (m.send core slot uid place due held b src).ctxs = m.ctxs := rfl
@[simp] theorem Mach.send_queues (m : Mach) (core slot uid place due : Nat) (held : Bool) (b : MsgBody) (src : Option Nat) :
    (m.send core slot uid place due held b src).queues = m.queues := rfl
@[simp] theorem Mach.send_launches (m : Mach) (core slot uid place due : Nat) (held : Bool) (b : MsgBody) (src : Option Nat) :
    (m.send core slot uid place due held b src).launches = m.launches := rfl
@[simp] theorem Mach.send_rotation (m : Mach) (core slot uid place due : Nat) (held : Bool) (b : MsgBody) (src : Option Nat) :
    (m.send core slot uid place due held b src).rotation = m.rotation := rfl
@[simp] theorem Mach.send_fabricAtomics (m : Mach) (core slot uid place due : Nat) (held : Bool) (b : MsgBody) (src : Option Nat) :
    (m.send core slot uid place due held b src).fabricAtomics = m.fabricAtomics := rfl
@[simp] theorem Mach.send_fabricRid (m : Mach) (core slot uid place due : Nat) (held : Bool) (b : MsgBody) (src : Option Nat) :
    (m.send core slot uid place due held b src).fabricRid = m.fabricRid := rfl
@[simp] theorem Mach.send_windows (m : Mach) (core slot uid place due : Nat) (held : Bool) (b : MsgBody) (src : Option Nat) :
    (m.send core slot uid place due held b src).windows = m.windows := rfl
@[simp] theorem Mach.send_log (m : Mach) (core slot uid place due : Nat) (held : Bool) (b : MsgBody) (src : Option Nat) :
    (m.send core slot uid place due held b src).log = m.log := rfl
@[simp] theorem Mach.send_migration (m : Mach) (core slot uid place due : Nat) (held : Bool) (b : MsgBody) (src : Option Nat) :
    (m.send core slot uid place due held b src).migration = m.migration := rfl
@[simp] theorem Mach.send_viral (m : Mach) (core slot uid place due : Nat) (held : Bool) (b : MsgBody) (src : Option Nat) :
    (m.send core slot uid place due held b src).viral = m.viral := rfl
@[simp] theorem Mach.send_linkDown (m : Mach) (core slot uid place due : Nat) (held : Bool) (b : MsgBody) (src : Option Nat) :
    (m.send core slot uid place due held b src).linkDown = m.linkDown := rfl
@[simp] theorem Mach.send_draws (m : Mach) (core slot uid place due : Nat) (held : Bool) (b : MsgBody) (src : Option Nat) :
    (m.send core slot uid place due held b src).draws = m.draws := rfl
@[simp] theorem Mach.send_creates (m : Mach) (core slot uid place due : Nat) (held : Bool) (b : MsgBody) (src : Option Nat) :
    (m.send core slot uid place due held b src).creates = m.creates := rfl
@[simp] theorem Mach.send_hostFrozen (m : Mach) (core slot uid place due : Nat) (held : Bool) (b : MsgBody) (src : Option Nat) :
    (m.send core slot uid place due held b src).hostFrozen = m.hostFrozen := rfl
@[simp] theorem Mach.send_mmio (m : Mach) (core slot uid place due : Nat) (held : Bool) (b : MsgBody) (src : Option Nat) :
    (m.send core slot uid place due held b src).mmio = m.mmio := rfl
@[simp] theorem Mach.send_hostReply (m : Mach) (core slot uid place due : Nat) (held : Bool) (b : MsgBody) (src : Option Nat) :
    (m.send core slot uid place due held b src).hostReply = m.hostReply := rfl
@[simp] theorem Mach.send_halves (m : Mach) (core slot uid place due : Nat) (held : Bool) (b : MsgBody) (src : Option Nat) :
    (m.send core slot uid place due held b src).halves = m.halves := rfl
@[simp] theorem Mach.send_chance (m : Mach) (core slot uid place due : Nat) (held : Bool) (b : MsgBody) (src : Option Nat) :
    (m.send core slot uid place due held b src).chance = m.chance := rfl
@[simp] theorem Mach.send_peerTags (m : Mach) (core slot uid place due : Nat) (held : Bool) (b : MsgBody) (src : Option Nat) :
    (m.send core slot uid place due held b src).peerTags = m.peerTags := rfl
@[simp] theorem Mach.send_peerEcc (m : Mach) (core slot uid place due : Nat) (held : Bool) (b : MsgBody) (src : Option Nat) :
    (m.send core slot uid place due held b src).peerEcc = m.peerEcc := rfl
@[simp] theorem Mach.send_peerReads (m : Mach) (core slot uid place due : Nat) (held : Bool) (b : MsgBody) (src : Option Nat) :
    (m.send core slot uid place due held b src).peerReads = m.peerReads := rfl
@[simp] theorem Mach.send_marks (m : Mach) (core slot uid place due : Nat) (held : Bool) (b : MsgBody) (src : Option Nat) :
    (m.send core slot uid place due held b src).marks = m.marks := rfl

/-! ### A changed group, a changed group by its identity, and a fault-queue entry -/

@[simp] theorem Mach.modGroup_clusters (m : Mach) (c k : Nat) (h : Group → Group) : (m.modGroup c k h).clusters = m.clusters := by
  unfold Mach.modGroup; split <;> rfl
@[simp] theorem Mach.modGroup_dram (m : Mach) (c k : Nat) (h : Group → Group) : (m.modGroup c k h).dram = m.dram := by
  unfold Mach.modGroup; split <;> rfl
@[simp] theorem Mach.modGroup_hostMem (m : Mach) (c k : Nat) (h : Group → Group) : (m.modGroup c k h).hostMem = m.hostMem := by
  unfold Mach.modGroup; split <;> rfl
@[simp] theorem Mach.modGroup_peers (m : Mach) (c k : Nat) (h : Group → Group) : (m.modGroup c k h).peers = m.peers := by
  unfold Mach.modGroup; split <;> rfl
@[simp] theorem Mach.modGroup_fabric (m : Mach) (c k : Nat) (h : Group → Group) : (m.modGroup c k h).fabric = m.fabric := by
  unfold Mach.modGroup; split <;> rfl
@[simp] theorem Mach.modGroup_tags (m : Mach) (c k : Nat) (h : Group → Group) : (m.modGroup c k h).tags = m.tags := by
  unfold Mach.modGroup; split <;> rfl
@[simp] theorem Mach.modGroup_ecc (m : Mach) (c k : Nat) (h : Group → Group) : (m.modGroup c k h).ecc = m.ecc := by
  unfold Mach.modGroup; split <;> rfl
@[simp] theorem Mach.modGroup_waitTab (m : Mach) (c k : Nat) (h : Group → Group) : (m.modGroup c k h).waitTab = m.waitTab := by
  unfold Mach.modGroup; split <;> rfl
@[simp] theorem Mach.modGroup_replies (m : Mach) (c k : Nat) (h : Group → Group) : (m.modGroup c k h).replies = m.replies := by
  unfold Mach.modGroup; split <;> rfl
@[simp] theorem Mach.modGroup_slices (m : Mach) (c k : Nat) (h : Group → Group) : (m.modGroup c k h).slices = m.slices := by
  unfold Mach.modGroup; split <;> rfl
@[simp] theorem Mach.modGroup_walker (m : Mach) (c k : Nat) (h : Group → Group) : (m.modGroup c k h).walker = m.walker := by
  unfold Mach.modGroup; split <;> rfl
@[simp] theorem Mach.modGroup_jobs (m : Mach) (c k : Nat) (h : Group → Group) : (m.modGroup c k h).jobs = m.jobs := by
  unfold Mach.modGroup; split <;> rfl
@[simp] theorem Mach.modGroup_outbox (m : Mach) (c k : Nat) (h : Group → Group) : (m.modGroup c k h).outbox = m.outbox := by
  unfold Mach.modGroup; split <;> rfl
@[simp] theorem Mach.modGroup_ctxs (m : Mach) (c k : Nat) (h : Group → Group) : (m.modGroup c k h).ctxs = m.ctxs := by
  unfold Mach.modGroup; split <;> rfl
@[simp] theorem Mach.modGroup_queues (m : Mach) (c k : Nat) (h : Group → Group) : (m.modGroup c k h).queues = m.queues := by
  unfold Mach.modGroup; split <;> rfl
@[simp] theorem Mach.modGroup_launches (m : Mach) (c k : Nat) (h : Group → Group) : (m.modGroup c k h).launches = m.launches := by
  unfold Mach.modGroup; split <;> rfl
@[simp] theorem Mach.modGroup_rotation (m : Mach) (c k : Nat) (h : Group → Group) : (m.modGroup c k h).rotation = m.rotation := by
  unfold Mach.modGroup; split <;> rfl
@[simp] theorem Mach.modGroup_msgs (m : Mach) (c k : Nat) (h : Group → Group) : (m.modGroup c k h).msgs = m.msgs := by
  unfold Mach.modGroup; split <;> rfl
@[simp] theorem Mach.modGroup_fabricAtomics (m : Mach) (c k : Nat) (h : Group → Group) : (m.modGroup c k h).fabricAtomics = m.fabricAtomics := by
  unfold Mach.modGroup; split <;> rfl
@[simp] theorem Mach.modGroup_fabricRid (m : Mach) (c k : Nat) (h : Group → Group) : (m.modGroup c k h).fabricRid = m.fabricRid := by
  unfold Mach.modGroup; split <;> rfl
@[simp] theorem Mach.modGroup_windows (m : Mach) (c k : Nat) (h : Group → Group) : (m.modGroup c k h).windows = m.windows := by
  unfold Mach.modGroup; split <;> rfl
@[simp] theorem Mach.modGroup_log (m : Mach) (c k : Nat) (h : Group → Group) : (m.modGroup c k h).log = m.log := by
  unfold Mach.modGroup; split <;> rfl
@[simp] theorem Mach.modGroup_migration (m : Mach) (c k : Nat) (h : Group → Group) : (m.modGroup c k h).migration = m.migration := by
  unfold Mach.modGroup; split <;> rfl
@[simp] theorem Mach.modGroup_viral (m : Mach) (c k : Nat) (h : Group → Group) : (m.modGroup c k h).viral = m.viral := by
  unfold Mach.modGroup; split <;> rfl
@[simp] theorem Mach.modGroup_linkDown (m : Mach) (c k : Nat) (h : Group → Group) : (m.modGroup c k h).linkDown = m.linkDown := by
  unfold Mach.modGroup; split <;> rfl
@[simp] theorem Mach.modGroup_nextUid (m : Mach) (c k : Nat) (h : Group → Group) : (m.modGroup c k h).nextUid = m.nextUid := by
  unfold Mach.modGroup; split <;> rfl
@[simp] theorem Mach.modGroup_draws (m : Mach) (c k : Nat) (h : Group → Group) : (m.modGroup c k h).draws = m.draws := by
  unfold Mach.modGroup; split <;> rfl
@[simp] theorem Mach.modGroup_creates (m : Mach) (c k : Nat) (h : Group → Group) : (m.modGroup c k h).creates = m.creates := by
  unfold Mach.modGroup; split <;> rfl
@[simp] theorem Mach.modGroup_hostFrozen (m : Mach) (c k : Nat) (h : Group → Group) : (m.modGroup c k h).hostFrozen = m.hostFrozen := by
  unfold Mach.modGroup; split <;> rfl
@[simp] theorem Mach.modGroup_mmio (m : Mach) (c k : Nat) (h : Group → Group) : (m.modGroup c k h).mmio = m.mmio := by
  unfold Mach.modGroup; split <;> rfl
@[simp] theorem Mach.modGroup_hostReply (m : Mach) (c k : Nat) (h : Group → Group) : (m.modGroup c k h).hostReply = m.hostReply := by
  unfold Mach.modGroup; split <;> rfl
@[simp] theorem Mach.modGroup_halves (m : Mach) (c k : Nat) (h : Group → Group) : (m.modGroup c k h).halves = m.halves := by
  unfold Mach.modGroup; split <;> rfl
@[simp] theorem Mach.modGroup_chance (m : Mach) (c k : Nat) (h : Group → Group) : (m.modGroup c k h).chance = m.chance := by
  unfold Mach.modGroup; split <;> rfl
@[simp] theorem Mach.modGroup_peerTags (m : Mach) (c k : Nat) (h : Group → Group) : (m.modGroup c k h).peerTags = m.peerTags := by
  unfold Mach.modGroup; split <;> rfl
@[simp] theorem Mach.modGroup_peerEcc (m : Mach) (c k : Nat) (h : Group → Group) : (m.modGroup c k h).peerEcc = m.peerEcc := by
  unfold Mach.modGroup; split <;> rfl
@[simp] theorem Mach.modGroup_peerReads (m : Mach) (c k : Nat) (h : Group → Group) : (m.modGroup c k h).peerReads = m.peerReads := by
  unfold Mach.modGroup; split <;> rfl
@[simp] theorem Mach.modGroup_marks (m : Mach) (c k : Nat) (h : Group → Group) : (m.modGroup c k h).marks = m.marks := by
  unfold Mach.modGroup; split <;> rfl
@[simp] theorem Mach.modUid_clusters (m : Mach) (c k u : Nat) (h : Group → Group) : (m.modUid c k u h).clusters = m.clusters := by
  unfold Mach.modUid; split
  · simp
  · split <;> rfl
@[simp] theorem Mach.modUid_dram (m : Mach) (c k u : Nat) (h : Group → Group) : (m.modUid c k u h).dram = m.dram := by
  unfold Mach.modUid; split
  · simp
  · split <;> rfl
@[simp] theorem Mach.modUid_hostMem (m : Mach) (c k u : Nat) (h : Group → Group) : (m.modUid c k u h).hostMem = m.hostMem := by
  unfold Mach.modUid; split
  · simp
  · split <;> rfl
@[simp] theorem Mach.modUid_peers (m : Mach) (c k u : Nat) (h : Group → Group) : (m.modUid c k u h).peers = m.peers := by
  unfold Mach.modUid; split
  · simp
  · split <;> rfl
@[simp] theorem Mach.modUid_fabric (m : Mach) (c k u : Nat) (h : Group → Group) : (m.modUid c k u h).fabric = m.fabric := by
  unfold Mach.modUid; split
  · simp
  · split <;> rfl
@[simp] theorem Mach.modUid_tags (m : Mach) (c k u : Nat) (h : Group → Group) : (m.modUid c k u h).tags = m.tags := by
  unfold Mach.modUid; split
  · simp
  · split <;> rfl
@[simp] theorem Mach.modUid_ecc (m : Mach) (c k u : Nat) (h : Group → Group) : (m.modUid c k u h).ecc = m.ecc := by
  unfold Mach.modUid; split
  · simp
  · split <;> rfl
@[simp] theorem Mach.modUid_waitTab (m : Mach) (c k u : Nat) (h : Group → Group) : (m.modUid c k u h).waitTab = m.waitTab := by
  unfold Mach.modUid; split
  · simp
  · split <;> rfl
@[simp] theorem Mach.modUid_replies (m : Mach) (c k u : Nat) (h : Group → Group) : (m.modUid c k u h).replies = m.replies := by
  unfold Mach.modUid; split
  · simp
  · split <;> rfl
@[simp] theorem Mach.modUid_slices (m : Mach) (c k u : Nat) (h : Group → Group) : (m.modUid c k u h).slices = m.slices := by
  unfold Mach.modUid; split
  · simp
  · split <;> rfl
@[simp] theorem Mach.modUid_walker (m : Mach) (c k u : Nat) (h : Group → Group) : (m.modUid c k u h).walker = m.walker := by
  unfold Mach.modUid; split
  · simp
  · split <;> rfl
@[simp] theorem Mach.modUid_jobs (m : Mach) (c k u : Nat) (h : Group → Group) : (m.modUid c k u h).jobs = m.jobs := by
  unfold Mach.modUid; split
  · simp
  · split <;> rfl
@[simp] theorem Mach.modUid_outbox (m : Mach) (c k u : Nat) (h : Group → Group) : (m.modUid c k u h).outbox = m.outbox := by
  unfold Mach.modUid; split
  · simp
  · split <;> rfl
@[simp] theorem Mach.modUid_ctxs (m : Mach) (c k u : Nat) (h : Group → Group) : (m.modUid c k u h).ctxs = m.ctxs := by
  unfold Mach.modUid; split
  · simp
  · split <;> rfl
@[simp] theorem Mach.modUid_queues (m : Mach) (c k u : Nat) (h : Group → Group) : (m.modUid c k u h).queues = m.queues := by
  unfold Mach.modUid; split
  · simp
  · split <;> rfl
@[simp] theorem Mach.modUid_launches (m : Mach) (c k u : Nat) (h : Group → Group) : (m.modUid c k u h).launches = m.launches := by
  unfold Mach.modUid; split
  · simp
  · split <;> rfl
@[simp] theorem Mach.modUid_rotation (m : Mach) (c k u : Nat) (h : Group → Group) : (m.modUid c k u h).rotation = m.rotation := by
  unfold Mach.modUid; split
  · simp
  · split <;> rfl
@[simp] theorem Mach.modUid_msgs (m : Mach) (c k u : Nat) (h : Group → Group) : (m.modUid c k u h).msgs = m.msgs := by
  unfold Mach.modUid; split
  · simp
  · split <;> rfl
@[simp] theorem Mach.modUid_fabricAtomics (m : Mach) (c k u : Nat) (h : Group → Group) : (m.modUid c k u h).fabricAtomics = m.fabricAtomics := by
  unfold Mach.modUid; split
  · simp
  · split <;> rfl
@[simp] theorem Mach.modUid_fabricRid (m : Mach) (c k u : Nat) (h : Group → Group) : (m.modUid c k u h).fabricRid = m.fabricRid := by
  unfold Mach.modUid; split
  · simp
  · split <;> rfl
@[simp] theorem Mach.modUid_windows (m : Mach) (c k u : Nat) (h : Group → Group) : (m.modUid c k u h).windows = m.windows := by
  unfold Mach.modUid; split
  · simp
  · split <;> rfl
@[simp] theorem Mach.modUid_log (m : Mach) (c k u : Nat) (h : Group → Group) : (m.modUid c k u h).log = m.log := by
  unfold Mach.modUid; split
  · simp
  · split <;> rfl
@[simp] theorem Mach.modUid_migration (m : Mach) (c k u : Nat) (h : Group → Group) : (m.modUid c k u h).migration = m.migration := by
  unfold Mach.modUid; split
  · simp
  · split <;> rfl
@[simp] theorem Mach.modUid_viral (m : Mach) (c k u : Nat) (h : Group → Group) : (m.modUid c k u h).viral = m.viral := by
  unfold Mach.modUid; split
  · simp
  · split <;> rfl
@[simp] theorem Mach.modUid_linkDown (m : Mach) (c k u : Nat) (h : Group → Group) : (m.modUid c k u h).linkDown = m.linkDown := by
  unfold Mach.modUid; split
  · simp
  · split <;> rfl
@[simp] theorem Mach.modUid_nextUid (m : Mach) (c k u : Nat) (h : Group → Group) : (m.modUid c k u h).nextUid = m.nextUid := by
  unfold Mach.modUid; split
  · simp
  · split <;> rfl
@[simp] theorem Mach.modUid_draws (m : Mach) (c k u : Nat) (h : Group → Group) : (m.modUid c k u h).draws = m.draws := by
  unfold Mach.modUid; split
  · simp
  · split <;> rfl
@[simp] theorem Mach.modUid_creates (m : Mach) (c k u : Nat) (h : Group → Group) : (m.modUid c k u h).creates = m.creates := by
  unfold Mach.modUid; split
  · simp
  · split <;> rfl
@[simp] theorem Mach.modUid_hostFrozen (m : Mach) (c k u : Nat) (h : Group → Group) : (m.modUid c k u h).hostFrozen = m.hostFrozen := by
  unfold Mach.modUid; split
  · simp
  · split <;> rfl
@[simp] theorem Mach.modUid_mmio (m : Mach) (c k u : Nat) (h : Group → Group) : (m.modUid c k u h).mmio = m.mmio := by
  unfold Mach.modUid; split
  · simp
  · split <;> rfl
@[simp] theorem Mach.modUid_hostReply (m : Mach) (c k u : Nat) (h : Group → Group) : (m.modUid c k u h).hostReply = m.hostReply := by
  unfold Mach.modUid; split
  · simp
  · split <;> rfl
@[simp] theorem Mach.modUid_halves (m : Mach) (c k u : Nat) (h : Group → Group) : (m.modUid c k u h).halves = m.halves := by
  unfold Mach.modUid; split
  · simp
  · split <;> rfl
@[simp] theorem Mach.modUid_chance (m : Mach) (c k u : Nat) (h : Group → Group) : (m.modUid c k u h).chance = m.chance := by
  unfold Mach.modUid; split
  · simp
  · split <;> rfl
@[simp] theorem Mach.modUid_peerTags (m : Mach) (c k u : Nat) (h : Group → Group) : (m.modUid c k u h).peerTags = m.peerTags := by
  unfold Mach.modUid; split
  · simp
  · split <;> rfl
@[simp] theorem Mach.modUid_peerEcc (m : Mach) (c k u : Nat) (h : Group → Group) : (m.modUid c k u h).peerEcc = m.peerEcc := by
  unfold Mach.modUid; split
  · simp
  · split <;> rfl
@[simp] theorem Mach.modUid_peerReads (m : Mach) (c k u : Nat) (h : Group → Group) : (m.modUid c k u h).peerReads = m.peerReads := by
  unfold Mach.modUid; split
  · simp
  · split <;> rfl
@[simp] theorem Mach.modUid_marks (m : Mach) (c k u : Nat) (h : Group → Group) : (m.modUid c k u h).marks = m.marks := by
  unfold Mach.modUid; split
  · simp
  · split <;> rfl
@[simp] theorem Mach.postFq_cores (m : Mach) (ctx kind acc va aux c : Nat) (sl : Option Nat) (ts : List Nat) :
    (m.postFq ctx kind acc va aux c sl ts).cores = m.cores := by unfold Mach.postFq; split <;> rfl
@[simp] theorem Mach.postFq_clusters (m : Mach) (ctx kind acc va aux c : Nat) (sl : Option Nat) (ts : List Nat) :
    (m.postFq ctx kind acc va aux c sl ts).clusters = m.clusters := by unfold Mach.postFq; split <;> rfl
@[simp] theorem Mach.postFq_dram (m : Mach) (ctx kind acc va aux c : Nat) (sl : Option Nat) (ts : List Nat) :
    (m.postFq ctx kind acc va aux c sl ts).dram = m.dram := by unfold Mach.postFq; split <;> rfl
@[simp] theorem Mach.postFq_hostMem (m : Mach) (ctx kind acc va aux c : Nat) (sl : Option Nat) (ts : List Nat) :
    (m.postFq ctx kind acc va aux c sl ts).hostMem = m.hostMem := by unfold Mach.postFq; split <;> rfl
@[simp] theorem Mach.postFq_peers (m : Mach) (ctx kind acc va aux c : Nat) (sl : Option Nat) (ts : List Nat) :
    (m.postFq ctx kind acc va aux c sl ts).peers = m.peers := by unfold Mach.postFq; split <;> rfl
@[simp] theorem Mach.postFq_fabric (m : Mach) (ctx kind acc va aux c : Nat) (sl : Option Nat) (ts : List Nat) :
    (m.postFq ctx kind acc va aux c sl ts).fabric = m.fabric := by unfold Mach.postFq; split <;> rfl
@[simp] theorem Mach.postFq_tags (m : Mach) (ctx kind acc va aux c : Nat) (sl : Option Nat) (ts : List Nat) :
    (m.postFq ctx kind acc va aux c sl ts).tags = m.tags := by unfold Mach.postFq; split <;> rfl
@[simp] theorem Mach.postFq_ecc (m : Mach) (ctx kind acc va aux c : Nat) (sl : Option Nat) (ts : List Nat) :
    (m.postFq ctx kind acc va aux c sl ts).ecc = m.ecc := by unfold Mach.postFq; split <;> rfl
@[simp] theorem Mach.postFq_waitTab (m : Mach) (ctx kind acc va aux c : Nat) (sl : Option Nat) (ts : List Nat) :
    (m.postFq ctx kind acc va aux c sl ts).waitTab = m.waitTab := by unfold Mach.postFq; split <;> rfl
@[simp] theorem Mach.postFq_replies (m : Mach) (ctx kind acc va aux c : Nat) (sl : Option Nat) (ts : List Nat) :
    (m.postFq ctx kind acc va aux c sl ts).replies = m.replies := by unfold Mach.postFq; split <;> rfl
@[simp] theorem Mach.postFq_slices (m : Mach) (ctx kind acc va aux c : Nat) (sl : Option Nat) (ts : List Nat) :
    (m.postFq ctx kind acc va aux c sl ts).slices = m.slices := by unfold Mach.postFq; split <;> rfl
@[simp] theorem Mach.postFq_walker (m : Mach) (ctx kind acc va aux c : Nat) (sl : Option Nat) (ts : List Nat) :
    (m.postFq ctx kind acc va aux c sl ts).walker = m.walker := by unfold Mach.postFq; split <;> rfl
@[simp] theorem Mach.postFq_jobs (m : Mach) (ctx kind acc va aux c : Nat) (sl : Option Nat) (ts : List Nat) :
    (m.postFq ctx kind acc va aux c sl ts).jobs = m.jobs := by unfold Mach.postFq; split <;> rfl
@[simp] theorem Mach.postFq_outbox (m : Mach) (ctx kind acc va aux c : Nat) (sl : Option Nat) (ts : List Nat) :
    (m.postFq ctx kind acc va aux c sl ts).outbox = m.outbox := by unfold Mach.postFq; split <;> rfl
@[simp] theorem Mach.postFq_queues (m : Mach) (ctx kind acc va aux c : Nat) (sl : Option Nat) (ts : List Nat) :
    (m.postFq ctx kind acc va aux c sl ts).queues = m.queues := by unfold Mach.postFq; split <;> rfl
@[simp] theorem Mach.postFq_launches (m : Mach) (ctx kind acc va aux c : Nat) (sl : Option Nat) (ts : List Nat) :
    (m.postFq ctx kind acc va aux c sl ts).launches = m.launches := by unfold Mach.postFq; split <;> rfl
@[simp] theorem Mach.postFq_rotation (m : Mach) (ctx kind acc va aux c : Nat) (sl : Option Nat) (ts : List Nat) :
    (m.postFq ctx kind acc va aux c sl ts).rotation = m.rotation := by unfold Mach.postFq; split <;> rfl
@[simp] theorem Mach.postFq_msgs (m : Mach) (ctx kind acc va aux c : Nat) (sl : Option Nat) (ts : List Nat) :
    (m.postFq ctx kind acc va aux c sl ts).msgs = m.msgs := by unfold Mach.postFq; split <;> rfl
@[simp] theorem Mach.postFq_fabricAtomics (m : Mach) (ctx kind acc va aux c : Nat) (sl : Option Nat) (ts : List Nat) :
    (m.postFq ctx kind acc va aux c sl ts).fabricAtomics = m.fabricAtomics := by unfold Mach.postFq; split <;> rfl
@[simp] theorem Mach.postFq_fabricRid (m : Mach) (ctx kind acc va aux c : Nat) (sl : Option Nat) (ts : List Nat) :
    (m.postFq ctx kind acc va aux c sl ts).fabricRid = m.fabricRid := by unfold Mach.postFq; split <;> rfl
@[simp] theorem Mach.postFq_windows (m : Mach) (ctx kind acc va aux c : Nat) (sl : Option Nat) (ts : List Nat) :
    (m.postFq ctx kind acc va aux c sl ts).windows = m.windows := by unfold Mach.postFq; split <;> rfl
@[simp] theorem Mach.postFq_log (m : Mach) (ctx kind acc va aux c : Nat) (sl : Option Nat) (ts : List Nat) :
    (m.postFq ctx kind acc va aux c sl ts).log = m.log := by unfold Mach.postFq; split <;> rfl
@[simp] theorem Mach.postFq_migration (m : Mach) (ctx kind acc va aux c : Nat) (sl : Option Nat) (ts : List Nat) :
    (m.postFq ctx kind acc va aux c sl ts).migration = m.migration := by unfold Mach.postFq; split <;> rfl
@[simp] theorem Mach.postFq_viral (m : Mach) (ctx kind acc va aux c : Nat) (sl : Option Nat) (ts : List Nat) :
    (m.postFq ctx kind acc va aux c sl ts).viral = m.viral := by unfold Mach.postFq; split <;> rfl
@[simp] theorem Mach.postFq_linkDown (m : Mach) (ctx kind acc va aux c : Nat) (sl : Option Nat) (ts : List Nat) :
    (m.postFq ctx kind acc va aux c sl ts).linkDown = m.linkDown := by unfold Mach.postFq; split <;> rfl
@[simp] theorem Mach.postFq_nextUid (m : Mach) (ctx kind acc va aux c : Nat) (sl : Option Nat) (ts : List Nat) :
    (m.postFq ctx kind acc va aux c sl ts).nextUid = m.nextUid := by unfold Mach.postFq; split <;> rfl
@[simp] theorem Mach.postFq_draws (m : Mach) (ctx kind acc va aux c : Nat) (sl : Option Nat) (ts : List Nat) :
    (m.postFq ctx kind acc va aux c sl ts).draws = m.draws := by unfold Mach.postFq; split <;> rfl
@[simp] theorem Mach.postFq_creates (m : Mach) (ctx kind acc va aux c : Nat) (sl : Option Nat) (ts : List Nat) :
    (m.postFq ctx kind acc va aux c sl ts).creates = m.creates := by unfold Mach.postFq; split <;> rfl
@[simp] theorem Mach.postFq_hostFrozen (m : Mach) (ctx kind acc va aux c : Nat) (sl : Option Nat) (ts : List Nat) :
    (m.postFq ctx kind acc va aux c sl ts).hostFrozen = m.hostFrozen := by unfold Mach.postFq; split <;> rfl
@[simp] theorem Mach.postFq_mmio (m : Mach) (ctx kind acc va aux c : Nat) (sl : Option Nat) (ts : List Nat) :
    (m.postFq ctx kind acc va aux c sl ts).mmio = m.mmio := by unfold Mach.postFq; split <;> rfl
@[simp] theorem Mach.postFq_hostReply (m : Mach) (ctx kind acc va aux c : Nat) (sl : Option Nat) (ts : List Nat) :
    (m.postFq ctx kind acc va aux c sl ts).hostReply = m.hostReply := by unfold Mach.postFq; split <;> rfl
@[simp] theorem Mach.postFq_halves (m : Mach) (ctx kind acc va aux c : Nat) (sl : Option Nat) (ts : List Nat) :
    (m.postFq ctx kind acc va aux c sl ts).halves = m.halves := by unfold Mach.postFq; split <;> rfl
@[simp] theorem Mach.postFq_chance (m : Mach) (ctx kind acc va aux c : Nat) (sl : Option Nat) (ts : List Nat) :
    (m.postFq ctx kind acc va aux c sl ts).chance = m.chance := by unfold Mach.postFq; split <;> rfl
@[simp] theorem Mach.postFq_peerTags (m : Mach) (ctx kind acc va aux c : Nat) (sl : Option Nat) (ts : List Nat) :
    (m.postFq ctx kind acc va aux c sl ts).peerTags = m.peerTags := by unfold Mach.postFq; split <;> rfl
@[simp] theorem Mach.postFq_peerEcc (m : Mach) (ctx kind acc va aux c : Nat) (sl : Option Nat) (ts : List Nat) :
    (m.postFq ctx kind acc va aux c sl ts).peerEcc = m.peerEcc := by unfold Mach.postFq; split <;> rfl
@[simp] theorem Mach.postFq_peerReads (m : Mach) (ctx kind acc va aux c : Nat) (sl : Option Nat) (ts : List Nat) :
    (m.postFq ctx kind acc va aux c sl ts).peerReads = m.peerReads := by unfold Mach.postFq; split <;> rfl
@[simp] theorem Mach.postFq_marks (m : Mach) (ctx kind acc va aux c : Nat) (sl : Option Nat) (ts : List Nat) :
    (m.postFq ctx kind acc va aux c sl ts).marks = m.marks := by unfold Mach.postFq; split <;> rfl
@[simp] theorem Mach.postEvent_cores (m : Mach) (kind source cycle data : Nat) :
    (m.postEvent kind source cycle data).cores = m.cores := by unfold Mach.postEvent; dsimp only; split <;> rfl
@[simp] theorem Mach.postEvent_clusters (m : Mach) (kind source cycle data : Nat) :
    (m.postEvent kind source cycle data).clusters = m.clusters := by unfold Mach.postEvent; dsimp only; split <;> rfl
@[simp] theorem Mach.postEvent_dram (m : Mach) (kind source cycle data : Nat) :
    (m.postEvent kind source cycle data).dram = m.dram := by unfold Mach.postEvent; dsimp only; split <;> rfl
@[simp] theorem Mach.postEvent_hostMem (m : Mach) (kind source cycle data : Nat) :
    (m.postEvent kind source cycle data).hostMem = m.hostMem := by unfold Mach.postEvent; dsimp only; split <;> rfl
@[simp] theorem Mach.postEvent_peers (m : Mach) (kind source cycle data : Nat) :
    (m.postEvent kind source cycle data).peers = m.peers := by unfold Mach.postEvent; dsimp only; split <;> rfl
@[simp] theorem Mach.postEvent_fabric (m : Mach) (kind source cycle data : Nat) :
    (m.postEvent kind source cycle data).fabric = m.fabric := by unfold Mach.postEvent; dsimp only; split <;> rfl
@[simp] theorem Mach.postEvent_tags (m : Mach) (kind source cycle data : Nat) :
    (m.postEvent kind source cycle data).tags = m.tags := by unfold Mach.postEvent; dsimp only; split <;> rfl
@[simp] theorem Mach.postEvent_ecc (m : Mach) (kind source cycle data : Nat) :
    (m.postEvent kind source cycle data).ecc = m.ecc := by unfold Mach.postEvent; dsimp only; split <;> rfl
@[simp] theorem Mach.postEvent_waitTab (m : Mach) (kind source cycle data : Nat) :
    (m.postEvent kind source cycle data).waitTab = m.waitTab := by unfold Mach.postEvent; dsimp only; split <;> rfl
@[simp] theorem Mach.postEvent_replies (m : Mach) (kind source cycle data : Nat) :
    (m.postEvent kind source cycle data).replies = m.replies := by unfold Mach.postEvent; dsimp only; split <;> rfl
@[simp] theorem Mach.postEvent_slices (m : Mach) (kind source cycle data : Nat) :
    (m.postEvent kind source cycle data).slices = m.slices := by unfold Mach.postEvent; dsimp only; split <;> rfl
@[simp] theorem Mach.postEvent_walker (m : Mach) (kind source cycle data : Nat) :
    (m.postEvent kind source cycle data).walker = m.walker := by unfold Mach.postEvent; dsimp only; split <;> rfl
@[simp] theorem Mach.postEvent_jobs (m : Mach) (kind source cycle data : Nat) :
    (m.postEvent kind source cycle data).jobs = m.jobs := by unfold Mach.postEvent; dsimp only; split <;> rfl
@[simp] theorem Mach.postEvent_outbox (m : Mach) (kind source cycle data : Nat) :
    (m.postEvent kind source cycle data).outbox = m.outbox := by unfold Mach.postEvent; dsimp only; split <;> rfl
@[simp] theorem Mach.postEvent_ctxs (m : Mach) (kind source cycle data : Nat) :
    (m.postEvent kind source cycle data).ctxs = m.ctxs := by unfold Mach.postEvent; dsimp only; split <;> rfl
@[simp] theorem Mach.postEvent_queues (m : Mach) (kind source cycle data : Nat) :
    (m.postEvent kind source cycle data).queues = m.queues := by unfold Mach.postEvent; dsimp only; split <;> rfl
@[simp] theorem Mach.postEvent_launches (m : Mach) (kind source cycle data : Nat) :
    (m.postEvent kind source cycle data).launches = m.launches := by unfold Mach.postEvent; dsimp only; split <;> rfl
@[simp] theorem Mach.postEvent_rotation (m : Mach) (kind source cycle data : Nat) :
    (m.postEvent kind source cycle data).rotation = m.rotation := by unfold Mach.postEvent; dsimp only; split <;> rfl
@[simp] theorem Mach.postEvent_msgs (m : Mach) (kind source cycle data : Nat) :
    (m.postEvent kind source cycle data).msgs = m.msgs := by unfold Mach.postEvent; dsimp only; split <;> rfl
@[simp] theorem Mach.postEvent_fabricAtomics (m : Mach) (kind source cycle data : Nat) :
    (m.postEvent kind source cycle data).fabricAtomics = m.fabricAtomics := by unfold Mach.postEvent; dsimp only; split <;> rfl
@[simp] theorem Mach.postEvent_fabricRid (m : Mach) (kind source cycle data : Nat) :
    (m.postEvent kind source cycle data).fabricRid = m.fabricRid := by unfold Mach.postEvent; dsimp only; split <;> rfl
@[simp] theorem Mach.postEvent_windows (m : Mach) (kind source cycle data : Nat) :
    (m.postEvent kind source cycle data).windows = m.windows := by unfold Mach.postEvent; dsimp only; split <;> rfl
@[simp] theorem Mach.postEvent_migration (m : Mach) (kind source cycle data : Nat) :
    (m.postEvent kind source cycle data).migration = m.migration := by unfold Mach.postEvent; dsimp only; split <;> rfl
@[simp] theorem Mach.postEvent_viral (m : Mach) (kind source cycle data : Nat) :
    (m.postEvent kind source cycle data).viral = m.viral := by unfold Mach.postEvent; dsimp only; split <;> rfl
@[simp] theorem Mach.postEvent_linkDown (m : Mach) (kind source cycle data : Nat) :
    (m.postEvent kind source cycle data).linkDown = m.linkDown := by unfold Mach.postEvent; dsimp only; split <;> rfl
@[simp] theorem Mach.postEvent_nextUid (m : Mach) (kind source cycle data : Nat) :
    (m.postEvent kind source cycle data).nextUid = m.nextUid := by unfold Mach.postEvent; dsimp only; split <;> rfl
@[simp] theorem Mach.postEvent_draws (m : Mach) (kind source cycle data : Nat) :
    (m.postEvent kind source cycle data).draws = m.draws := by unfold Mach.postEvent; dsimp only; split <;> rfl
@[simp] theorem Mach.postEvent_creates (m : Mach) (kind source cycle data : Nat) :
    (m.postEvent kind source cycle data).creates = m.creates := by unfold Mach.postEvent; dsimp only; split <;> rfl
@[simp] theorem Mach.postEvent_hostFrozen (m : Mach) (kind source cycle data : Nat) :
    (m.postEvent kind source cycle data).hostFrozen = m.hostFrozen := by unfold Mach.postEvent; dsimp only; split <;> rfl
@[simp] theorem Mach.postEvent_mmio (m : Mach) (kind source cycle data : Nat) :
    (m.postEvent kind source cycle data).mmio = m.mmio := by unfold Mach.postEvent; dsimp only; split <;> rfl
@[simp] theorem Mach.postEvent_hostReply (m : Mach) (kind source cycle data : Nat) :
    (m.postEvent kind source cycle data).hostReply = m.hostReply := by unfold Mach.postEvent; dsimp only; split <;> rfl
@[simp] theorem Mach.postEvent_halves (m : Mach) (kind source cycle data : Nat) :
    (m.postEvent kind source cycle data).halves = m.halves := by unfold Mach.postEvent; dsimp only; split <;> rfl
@[simp] theorem Mach.postEvent_chance (m : Mach) (kind source cycle data : Nat) :
    (m.postEvent kind source cycle data).chance = m.chance := by unfold Mach.postEvent; dsimp only; split <;> rfl
@[simp] theorem Mach.postEvent_peerTags (m : Mach) (kind source cycle data : Nat) :
    (m.postEvent kind source cycle data).peerTags = m.peerTags := by unfold Mach.postEvent; dsimp only; split <;> rfl
@[simp] theorem Mach.postEvent_peerEcc (m : Mach) (kind source cycle data : Nat) :
    (m.postEvent kind source cycle data).peerEcc = m.peerEcc := by unfold Mach.postEvent; dsimp only; split <;> rfl
@[simp] theorem Mach.postEvent_peerReads (m : Mach) (kind source cycle data : Nat) :
    (m.postEvent kind source cycle data).peerReads = m.peerReads := by unfold Mach.postEvent; dsimp only; split <;> rfl
@[simp] theorem Mach.postEvent_marks (m : Mach) (kind source cycle data : Nat) :
    (m.postEvent kind source cycle data).marks = m.marks := by unfold Mach.postEvent; dsimp only; split <;> rfl

/-! ### A placement opportunity (R340) -/

@[simp] theorem Mach.opportunity_cores (m : Mach) : m.opportunity.cores = m.cores := rfl
@[simp] theorem Mach.opportunity_clusters (m : Mach) : m.opportunity.clusters = m.clusters := rfl
@[simp] theorem Mach.opportunity_dram (m : Mach) : m.opportunity.dram = m.dram := rfl
@[simp] theorem Mach.opportunity_hostMem (m : Mach) : m.opportunity.hostMem = m.hostMem := rfl
@[simp] theorem Mach.opportunity_peers (m : Mach) : m.opportunity.peers = m.peers := rfl
@[simp] theorem Mach.opportunity_fabric (m : Mach) : m.opportunity.fabric = m.fabric := rfl
@[simp] theorem Mach.opportunity_tags (m : Mach) : m.opportunity.tags = m.tags := rfl
@[simp] theorem Mach.opportunity_ecc (m : Mach) : m.opportunity.ecc = m.ecc := rfl
@[simp] theorem Mach.opportunity_waitTab (m : Mach) : m.opportunity.waitTab = m.waitTab := rfl
@[simp] theorem Mach.opportunity_replies (m : Mach) : m.opportunity.replies = m.replies := rfl
@[simp] theorem Mach.opportunity_slices (m : Mach) : m.opportunity.slices = m.slices := rfl
@[simp] theorem Mach.opportunity_walker (m : Mach) : m.opportunity.walker = m.walker := rfl
@[simp] theorem Mach.opportunity_jobs (m : Mach) : m.opportunity.jobs = m.jobs := rfl
@[simp] theorem Mach.opportunity_outbox (m : Mach) : m.opportunity.outbox = m.outbox := rfl
@[simp] theorem Mach.opportunity_ctxs (m : Mach) : m.opportunity.ctxs = m.ctxs := rfl
@[simp] theorem Mach.opportunity_queues (m : Mach) : m.opportunity.queues = m.queues := rfl
@[simp] theorem Mach.opportunity_launches (m : Mach) : m.opportunity.launches = m.launches := rfl
@[simp] theorem Mach.opportunity_rotation (m : Mach) : m.opportunity.rotation = m.rotation := rfl
@[simp] theorem Mach.opportunity_msgs (m : Mach) : m.opportunity.msgs = m.msgs := rfl
@[simp] theorem Mach.opportunity_fabricAtomics (m : Mach) : m.opportunity.fabricAtomics = m.fabricAtomics := rfl
@[simp] theorem Mach.opportunity_fabricRid (m : Mach) : m.opportunity.fabricRid = m.fabricRid := rfl
@[simp] theorem Mach.opportunity_windows (m : Mach) : m.opportunity.windows = m.windows := rfl
@[simp] theorem Mach.opportunity_log (m : Mach) : m.opportunity.log = m.log := rfl
@[simp] theorem Mach.opportunity_migration (m : Mach) : m.opportunity.migration = m.migration := rfl
@[simp] theorem Mach.opportunity_viral (m : Mach) : m.opportunity.viral = m.viral := rfl
@[simp] theorem Mach.opportunity_linkDown (m : Mach) : m.opportunity.linkDown = m.linkDown := rfl
@[simp] theorem Mach.opportunity_nextUid (m : Mach) : m.opportunity.nextUid = m.nextUid := rfl
@[simp] theorem Mach.opportunity_draws (m : Mach) : m.opportunity.draws = m.draws := rfl
@[simp] theorem Mach.opportunity_creates (m : Mach) : m.opportunity.creates = m.creates := rfl
@[simp] theorem Mach.opportunity_hostFrozen (m : Mach) : m.opportunity.hostFrozen = m.hostFrozen := rfl
@[simp] theorem Mach.opportunity_mmio (m : Mach) : m.opportunity.mmio = m.mmio := rfl
@[simp] theorem Mach.opportunity_hostReply (m : Mach) : m.opportunity.hostReply = m.hostReply := rfl
@[simp] theorem Mach.opportunity_halves (m : Mach) : m.opportunity.halves = m.halves := rfl
@[simp] theorem Mach.opportunity_peerTags (m : Mach) : m.opportunity.peerTags = m.peerTags := rfl
@[simp] theorem Mach.opportunity_peerEcc (m : Mach) : m.opportunity.peerEcc = m.peerEcc := rfl
@[simp] theorem Mach.opportunity_peerReads (m : Mach) : m.opportunity.peerReads = m.peerReads := rfl
@[simp] theorem Mach.opportunity_marks (m : Mach) : m.opportunity.marks = m.marks := rfl
@[simp] theorem Mach.opportunity_chance (m : Mach) : m.opportunity.chance = true := rfl

end Sys2Proof.Machine
end

