-- ==== Sys2Proof/Laws/Reach.lean ====
section
/-! SUPPORT. Reaching a core, a cluster or a group after a change of one, and the frame relations of Safety: each is
reflexive and transitive, and each named operation that stays inside them has a lemma that says so. -/

namespace Sys2Proof.Machine

/-! ### Cores, clusters and groups -/

@[simp] theorem Mach.core_setCore_self (m : Mach) (c : Nat) (x : Core) : (m.setCore c x).core c = x := by
  simp [Mach.core, Mach.setCore]

theorem Mach.core_setCore_ne (m : Mach) {c c' : Nat} (x : Core) (h : c' ≠ c) : (m.setCore c x).core c' = m.core c' := by
  simp [Mach.core, Mach.setCore, SMap.getD_set_ne _ _ _ h]

@[simp] theorem Mach.core_modCore_self (m : Mach) (c : Nat) (f : Core → Core) : (m.modCore c f).core c = f (m.core c) := by
  simp [Mach.modCore]

theorem Mach.core_modCore_ne (m : Mach) {c c' : Nat} (f : Core → Core) (h : c' ≠ c) :
    (m.modCore c f).core c' = m.core c' := by simp [Mach.modCore, Mach.core_setCore_ne m _ h]

@[simp] theorem Mach.core_setGroup_self (m : Mach) (c k : Nat) (g : Group) :
    (m.setGroup c k g).core c = { m.core c with groups := (m.core c).groups.set k g } := by simp [Mach.setGroup]

theorem Mach.core_setGroup_ne (m : Mach) {c c' : Nat} (k : Nat) (g : Group) (h : c' ≠ c) :
    (m.setGroup c k g).core c' = m.core c' := by simp [Mach.setGroup, Mach.core_modCore_ne m _ h]

@[simp] theorem Mach.group?_setGroup_self (m : Mach) (c k : Nat) (g : Group) : (m.setGroup c k g).group? c k = some g := by
  simp [Mach.group?]

theorem Mach.group?_setGroup_ne (m : Mach) (c : Nat) {k k' : Nat} (g : Group) (h : k' ≠ k) :
    (m.setGroup c k g).group? c k' = m.group? c k' := by simp [Mach.group?, SMap.get?_set_ne _ _ h]

@[simp] theorem Mach.setCore_setCore (m : Mach) (c : Nat) (x y : Core) : (m.setCore c x).setCore c y = m.setCore c y := by
  simp [Mach.setCore]

@[simp] theorem Mach.setGroup_setGroup (m : Mach) (c k : Nat) (g h : Group) :
    (m.setGroup c k g).setGroup c k h = m.setGroup c k h := by simp [Mach.setGroup, Mach.modCore]

theorem Mach.modGroup_some {m : Mach} {c k : Nat} {g : Group} (f : Group → Group) (h : m.group? c k = some g) :
    m.modGroup c k f = m.setGroup c k (f g) := by simp [Mach.modGroup, h]

@[simp] theorem Mach.core_postEvent (m : Mach) (kind source cycle data c : Nat) :
    (m.postEvent kind source cycle data).core c = m.core c := by simp [Mach.core]

@[simp] theorem Mach.group?_postEvent (m : Mach) (kind source cycle data c k : Nat) :
    (m.postEvent kind source cycle data).group? c k = m.group? c k := by simp [Mach.group?]

@[simp] theorem Mach.core_send (m : Mach) (core slot uid place due : Nat) (held : Bool) (b : MsgBody) (c : Nat) :
    (m.send core slot uid place due held b).core c = m.core c := rfl

@[simp] theorem Mach.group?_send (m : Mach) (core slot uid place due : Nat) (held : Bool) (b : MsgBody) (c k : Nat) :
    (m.send core slot uid place due held b).group? c k = m.group? c k := rfl

@[simp] theorem Mach.cluster_setCluster_self (m : Mach) (c : Nat) (x : Cluster) : (m.setCluster c x).cluster c = x := by
  simp [Mach.cluster, Mach.setCluster]

theorem Mach.cluster_setCluster_ne (m : Mach) {c c' : Nat} (x : Cluster) (h : c' ≠ c) :
    (m.setCluster c x).cluster c' = m.cluster c' := by simp [Mach.cluster, Mach.setCluster, SMap.getD_set_ne _ _ _ h]

@[simp] theorem Mach.ctx_modCtx_self (m : Mach) (n : Nat) (f : Ctx → Ctx) : (m.modCtx n f).ctx n = f (m.ctx n) := by
  simp [Mach.ctx, Mach.modCtx]

theorem Mach.ctx_modCtx_ne (m : Mach) {n n' : Nat} (f : Ctx → Ctx) (h : n' ≠ n) : (m.modCtx n f).ctx n' = m.ctx n' := by
  simp [Mach.ctx, Mach.modCtx, SMap.getD_set_ne _ _ _ h]

/-! ### One core, one group -/

theorem OneCore.refl (m : Mach) (core : Nat) : OneCore m m core := ⟨rfl, fun _ _ => rfl⟩

theorem OneCore.trans {a b c : Mach} {core : Nat} (h : OneCore a b core) (h' : OneCore b c core) : OneCore a c core :=
  ⟨by rw [h'.mach, h.mach], fun k hk => (h'.cores k hk).trans (h.cores k hk)⟩

theorem OneCore.setCore (m : Mach) (core : Nat) (x : Core) : OneCore m (m.setCore core x) core :=
  ⟨rfl, fun _ h => Mach.core_setCore_ne m x h⟩

theorem OneCore.modCore (m : Mach) (core : Nat) (f : Core → Core) : OneCore m (m.modCore core f) core :=
  OneCore.setCore m core _

theorem OneCore.setGroup (m : Mach) (core slot : Nat) (g : Group) : OneCore m (m.setGroup core slot g) core :=
  OneCore.setCore m core _

theorem OneCore.postEvent (m : Mach) (core kind source cycle data : Nat) :
    OneCore m (m.postEvent kind source cycle data) core :=
  ⟨by unfold Mach.postEvent; dsimp only; split <;> rfl, fun _ _ => by simp⟩

theorem OneGroup.refl (c : Core) (slot : Nat) : OneGroup c c slot := ⟨rfl, fun _ _ => rfl⟩

theorem OneGroup.trans {a b c : Core} {slot : Nat} (h : OneGroup a b slot) (h' : OneGroup b c slot) : OneGroup a c slot :=
  ⟨by rw [h'.core, h.core], fun k hk => (h'.groups k hk).trans (h.groups k hk)⟩

theorem OneGroup.setGroups (c : Core) (slot : Nat) (g : Group) : OneGroup c { c with groups := c.groups.set slot g } slot :=
  ⟨rfl, fun _ h => SMap.get?_set_ne _ _ h⟩

theorem OneGroup.thenGroups {c x : Core} {slot : Nat} (h : OneGroup c x slot) (g : Group) :
    OneGroup c { x with groups := x.groups.set slot g } slot := h.trans (.setGroups x slot g)

theorem OneGroup.releaseLane (c : Core) (slot k : Nat) : OneGroup c (c.releaseLane k) slot := ⟨rfl, fun _ _ => rfl⟩

theorem OneGroup.setLane (c : Core) (slot n : Nat) (l : Lane) : OneGroup c (c.setLane n l) slot := ⟨rfl, fun _ _ => rfl⟩

theorem OneGroup.fillMailbox (c : Core) (slot : Nat) : OneGroup c c.fillMailbox slot := by
  unfold Core.fillMailbox
  split
  · exact .refl c slot
  · split
    · exact .refl c slot
    · exact ⟨rfl, fun _ _ => rfl⟩

theorem OneGroup.postStop (c : Core) (slot : Nat) (r : MboxRec) : OneGroup c (c.postStop r) slot := by
  unfold Core.postStop
  exact OneGroup.trans (b := { c with stopList := c.stopList ++ [{ slot := r.slot, cycle := c.cycle, record := r }] }) ⟨rfl, fun _ _ => rfl⟩
    (OneGroup.fillMailbox _ slot)

/-- Only the performance counters differ. -/
def OnlyPerf (c x : Core) : Prop := x = { c with perf := x.perf }

theorem OnlyPerf.bump (c : Core) (i n : Nat) : OnlyPerf c (c.bump i n) := rfl

theorem OnlyPerf.trans {a b c : Core} (h : OnlyPerf a b) (h' : OnlyPerf b c) : OnlyPerf a c := by
  unfold OnlyPerf at *; rw [h', h]

/-- A fold changes only the performance counters when each of its steps does. -/
theorem OnlyPerf.foldl {β : Type} (step : Core → β → Core) (hs : ∀ x b, OnlyPerf x (step x b)) (bs : List β) (c : Core) :
    OnlyPerf c (bs.foldl step c) := by
  induction bs generalizing c with
  | nil => rfl
  | cons b bs ih => exact (hs c b).trans (ih _)

/-- Counting an event changes nothing but the performance counters. -/
theorem Core.count_eq (c : Core) (code n : Nat) (id : Ident) : OnlyPerf c (c.count code n id) :=
  OnlyPerf.foldl _ (fun x e => by split <;> first | exact .bump .. | rfl) _ _

theorem Core.countIdle_eq (c : Core) (t : Nat) : OnlyPerf c (c.countIdle t) :=
  OnlyPerf.foldl _ (fun x e => by split <;> first | exact .bump .. | rfl) _ _

/-- The passing of time changes nothing but the clock, the performance counters and the sums of the congestion counts. -/
theorem Core.advance_eq (c : Core) (t : Nat) :
    c.advance t = { c with cycle := max c.cycle t, perf := (c.advance t).perf, meshSum := (c.advance t).meshSum } := by
  have h : OnlyPerf c (if c.stalledLanes = 0 then c.countIdle t else (c.countIdle t).bump 0 ((t - c.cycle) * c.stalledLanes)) := by
    split
    · exact c.countIdle_eq t
    · exact (c.countIdle_eq t).trans (.bump ..)
  unfold Core.advance
  split
  · rw [Nat.max_eq_left ‹_›]
  · rw [Nat.max_eq_right (by omega)]
    dsimp only
    rw [h]

theorem OneGroup.count (c : Core) (slot code n : Nat) (id : Ident) : OneGroup c (c.count code n id) slot := by
  rw [Core.count_eq]; exact ⟨rfl, fun _ _ => rfl⟩

theorem OneGroup.advance (c : Core) (slot t : Nat) : OneGroup c (c.advance t) slot := by
  rw [Core.advance_eq]; exact ⟨rfl, fun _ _ => rfl⟩

@[simp] theorem Core.advance_groups (c : Core) (t : Nat) : (c.advance t).groups = c.groups := by rw [Core.advance_eq]

@[simp] theorem Core.advance_mbox (c : Core) (t : Nat) : (c.advance t).mbox = c.mbox := by rw [Core.advance_eq]

@[simp] theorem Core.count_groups (c : Core) (code n : Nat) (id : Ident) : (c.count code n id).groups = c.groups := by
  rw [Core.count_eq]

@[simp] theorem Core.count_mbox (c : Core) (code n : Nat) (id : Ident) : (c.count code n id).mbox = c.mbox := by
  rw [Core.count_eq]

@[simp] theorem Core.postStop_groups (c : Core) (r : MboxRec) : (c.postStop r).groups = c.groups := by
  unfold Core.postStop Core.fillMailbox
  split
  · rfl
  · split <;> rfl

/-! ### Memory -/

theorem SameMemory.refl (m : Mach) : SameMemory m m :=
  ⟨fun _ => rfl, fun _ => rfl, fun _ => rfl, fun _ _ => rfl, rfl, rfl, fun _ _ => rfl, fun _ _ => rfl⟩

/-- What stays inside one group leaves memory alone. -/
theorem OneCore.sameMemory {m m' : Mach} {core slot : Nat} (h : OneCore m m' core)
    (h' : OneGroup (m.core core) (m'.core core) slot) : SameMemory m m' := by
  have e := h.mach
  refine ⟨fun a => by rw [e], fun a => by rw [e], fun a => by rw [e], fun d a => by rw [e], by rw [e], by rw [e],
    fun c a => ?_, fun c f => ?_⟩
  · have : m'.cluster c = m.cluster c := by unfold Mach.cluster; rw [e]
    rw [this]
  · by_cases hc : c = core
    · subst hc; unfold Core.frame; rw [h'.core]
    · rw [h.cores c hc]

end Sys2Proof.Machine
end

