-- ==== Sys2Proof/Laws/Issue.lean ====
section
/-! SUPPORT. What the issue of one word does: its lane and its group once it has issued, the run boundary, and the step of a
word that acts on its own group alone. -/

namespace Sys2Proof.Machine

/-! ### The word leaves its lane -/

@[simp] theorem Mach.group?_retire (m : Mach) (w : Who) (g : Group) : (m.retire w g).group? w.core w.slot = some (g.retired w) := by
  simp [Mach.retire, Group.retired]

/-- Of a core, issuing changes its time, its lanes, its counters and the issuing group. -/
theorem OneGroup.retire (m : Mach) (w : Who) (g : Group) : OneGroup (m.core w.core) ((m.retire w g).core w.core) w.slot := by
  unfold Mach.retire
  dsimp only
  rw [Mach.core_setGroup_self, Mach.core_setCore_self]
  refine OneGroup.thenGroups ?_ _
  have h : ∀ t l, OneGroup (m.core w.core) ((((m.core w.core).advance t).setLane (laneOf w.slot) l).count 2 1 g.id) w.slot :=
    fun t l => (OneGroup.advance _ _ t).trans
      ((OneGroup.setLane _ _ _ l).trans (OneGroup.count _ _ _ _ _))
  split
  · exact h _ _
  · exact (h _ _).trans (OneGroup.count _ _ _ _ _)

theorem OneCore.retire (m : Mach) (w : Who) (g : Group) : OneCore m (m.retire w g) w.core := by
  unfold Mach.retire
  exact (OneCore.setCore m w.core _).trans (OneCore.setGroup _ _ _ _)

@[simp] theorem Mach.retire_log (m : Mach) (w : Who) (g : Group) : (m.retire w g).log = m.log := rfl

@[simp] theorem Mach.retire_mbox (m : Mach) (w : Who) (g : Group) :
    ((m.retire w g).core w.core).mbox = (m.core w.core).mbox := by
  simp only [Mach.retire, Mach.core_setGroup_self, Mach.core_setCore_self]
  split <;> simp

/-! ### The run boundary (R230, R310) -/

/-- All that a run boundary does to a group that waits for nothing: nothing, or the stop that was asked for. -/
theorem Mach.atBoundary_spec {m : Mach} {core slot : Nat} {g : Group} (hg : m.group? core slot = some g)
    (hw : g.wait = none) :
    OneCore m (m.atBoundary core slot) core ∧
    OneGroup (m.core core) ((m.atBoundary core slot).core core) slot ∧
    (∃ g', (m.atBoundary core slot).group? core slot = some g' ∧ g'.rest = g.rest ∧ g'.wait = none ∧ g'.bad = g.bad) ∧
    (g.freeze = none ∧ g.stopMark = false → m.atBoundary core slot = m) := by
  have same : OneCore m m core ∧ OneGroup (m.core core) (m.core core) slot ∧
      (∃ g', m.group? core slot = some g' ∧ g'.rest = g.rest ∧ g'.wait = none ∧ g'.bad = g.bad) ∧
      (g.freeze = none ∧ g.stopMark = false → m = m) :=
    ⟨.refl _ _, .refl _ _, ⟨g, hg, rfl, hw, rfl⟩, fun _ => rfl⟩
  have hx : g.xlatFailed = none := by simp [Group.xlatFailed, hw]
  have ho : g.owed = none := by simp [Group.owed, hw]
  simp only [Mach.atBoundary, hg, hx, ho, Option.isSome_none, Bool.and_false, Bool.not_false, Bool.and_true]
  by_cases h1 : (g.state != .ready || g.atSafe) = true
  · rw [if_pos h1]; exact same
  rw [if_neg h1]
  by_cases h2 : (g.runCount != 0) = true
  · rw [if_pos h2]; exact same
  rw [if_neg h2]
  cases hf : g.freeze with
  | some code =>
    dsimp only
    by_cases hs : g.id.sup = true
    · rw [if_pos hs]
      refine ⟨(OneCore.setGroup ..).trans (.postEvent ..), ?_, ⟨{ g.stop .freeze (some code) with freeze := none }, ?_, ?_, ?_⟩, by simp⟩
      · simpa using OneGroup.setGroups (m.core core) slot _
      · rw [Mach.group?_postEvent, Mach.group?_setGroup_self]
      · simp [Group.rest, Group.stop, hf]
      · exact ⟨by simpa [Group.stop] using hw, rfl⟩
    · rw [if_neg hs]
      refine ⟨(OneCore.setGroup ..).trans (.modCore ..), ?_, ⟨{ g.stop .freeze (some code) with freeze := none }, ?_, ?_, ?_⟩, by simp⟩
      · simpa using (OneGroup.setGroups (m.core core) slot _).trans (OneGroup.postStop _ _ _)
      · simp [Mach.group?]
      · simp [Group.rest, Group.stop, hf]
      · exact ⟨by simpa [Group.stop] using hw, rfl⟩
  | none =>
    dsimp only
    by_cases hs : g.stopMark = true
    · rw [if_pos hs]
      unfold Mach.stopGroup
      refine ⟨(OneCore.setGroup ..).trans (.modCore ..), ?_, ⟨{ g.stop .gstop none with stopMark := false }, ?_, ?_, ?_⟩, by simp [hs]⟩
      · simpa using ((OneGroup.setGroups (m.core core) slot _).trans (OneGroup.releaseLane _ _ _)).trans
          (OneGroup.postStop _ _ _)
      · simp [Mach.group?, Core.releaseLane, Core.modLane]
      · simp [Group.rest, Group.stop, hf, hs]
      · exact ⟨by simpa [Group.stop] using hw, rfl⟩
    · rw [if_neg hs]; exact ⟨same.1, same.2.1, same.2.2.1, fun _ => rfl⟩

/-! ### The step of a word -/

/-- A word that issues and whose body completes: the machine its body leaves, at a run boundary after its stop. -/
theorem issue_eq {s : State} {slot : Nat} {g : Group} {f : Fields} {len : Nat} {b : Body} (h : Issues s slot g f) :
    issue len f b s = .next { s with mach := match runBody b s.dev { core := s.curCore, slot, f, addr := g.pc, len } g s.mach with
      | .ok m' => if f.e then m'.atBoundary s.curCore slot else m'
      | .error t => s.mach.takeTrap s.curCore slot t } := by
  obtain ⟨h1, h2, h3⟩ := h
  simp only [issue, h1, Mach.issueWord, h2, h3.1, h3.2.1, h3.2.2, Bool.false_eq_true, if_false] <;> rfl

/-- The step of a word whose body changes its own group by F, and nothing else. -/
theorem issue_modGroup {s : State} {slot : Nat} {g : Group} {f : Fields} {len : Nat} {b : Body} {F : Group → Group}
    (h : Issues s slot g f)
    (hb : runBody b s.dev { core := s.curCore, slot, f, addr := g.pc, len } g s.mach =
      .ok ((s.mach.retire { core := s.curCore, slot, f, addr := g.pc, len } g).modGroup s.curCore slot F))
    (hrest : (F (g.retired { core := s.curCore, slot, f, addr := g.pc, len })).wait = none)
    (hrun : ∀ x, (F x).state = x.state ∧ (F x).runCount = x.runCount ∧ (F x).cause = x.cause ∧ (F x).fcode = x.fcode ∧
      (F x).freeze = x.freeze ∧ (F x).stopMark = x.stopMark ∧ (F x).bad = x.bad) :
    ∃ t g', issue len f b s = .next t ∧ Stepped s t slot f g g' ∧
      g'.rest = (F (g.retired { core := s.curCore, slot, f, addr := g.pc, len })).rest := by
  set w : Who := { core := s.curCore, slot, f, addr := g.pc, len } with hw
  set g1 := g.retired w with hg1
  set m1 := (s.mach.retire w g).modGroup s.curCore slot F with hm1
  have hgr : (s.mach.retire w g).group? s.curCore slot = some g1 := Mach.group?_retire s.mach w g
  have hm1' : m1 = (s.mach.retire w g).setGroup s.curCore slot (F g1) := Mach.modGroup_some F hgr
  have hg2 : m1.group? s.curCore slot = some (F g1) := by rw [hm1']; simp
  have c1 : OneCore s.mach m1 s.curCore := by
    rw [hm1']; exact (OneCore.retire s.mach w g).trans (.setGroup ..)
  have o1 : OneGroup (s.mach.core s.curCore) (m1.core s.curCore) slot := by
    rw [hm1', Mach.core_setGroup_self]
    exact (OneGroup.retire s.mach w g).trans (.setGroups ..)
  have l1 : m1.log = s.mach.log := by rw [hm1']; rfl
  have b1 : (m1.core s.curCore).mbox = (s.mach.core s.curCore).mbox := by
    rw [hm1', Mach.core_setGroup_self]; exact Mach.retire_mbox s.mach w g
  have hF := hrun g1
  rw [issue_eq h, hb]
  dsimp only
  by_cases he : f.e = true
  · rw [if_pos he]
    obtain ⟨c2, o2, ⟨g', e1, e2, e3, e4⟩, hq⟩ := Mach.atBoundary_spec hg2 hrest
    refine ⟨_, g', rfl, ⟨⟨rfl, rfl, rfl, rfl⟩, c1.trans c2, o1.trans o2, (c1.trans c2).sameMemory (o1.trans o2), e1, e3,
      e4.trans hF.2.2.2.2.2.2, ?_⟩, e2⟩
    intro hr
    have hr' : (F g1).freeze = none ∧ (F g1).stopMark = false := by
      rcases hr with hr | hr
      · simp [he] at hr
      · rw [hF.2.2.2.2.1, hF.2.2.2.2.2.1]; exact hr
    have hm := hq hr'
    dsimp only
    rw [hm] at e1 ⊢
    have hgg : g' = F g1 := by rw [hg2] at e1; exact (Option.some.inj e1).symm
    subst hgg
    refine ⟨by rw [hF.1]; simp [hg1, Group.retired, hw, he], by rw [hF.2.1]; simp [hg1, Group.retired, hw, he],
      hF.2.2.1, hF.2.2.2.1, l1, b1⟩
  · have he' : f.e = false := by simpa using he
    rw [if_neg he]
    refine ⟨_, F g1, rfl, ⟨⟨rfl, rfl, rfl, rfl⟩, c1, o1, c1.sameMemory o1, hg2, hrest, hF.2.2.2.2.2.2, fun _ => ?_⟩, rfl⟩
    exact ⟨by rw [hF.1]; simp [hg1, Group.retired, hw, he'], by rw [hF.2.1]; simp [hg1, Group.retired, hw, he'],
      hF.2.2.1, hF.2.2.2.1, l1, b1⟩

/-- A body runs on the issued machine unless no thread is active and the word is not for the group. -/
theorem runBody_acts {b : Body} {d : Device} {w : Who} {g : Group} {m : Mach} (h : Acts g w.f) :
    runBody b d w g m = b d w (m.retire w g) := by
  unfold runBody
  rcases h with h | h
  · rw [if_neg]
    intro h0
    simp only [Bool.and_eq_true, beq_iff_eq] at h0
    exact h h0.1
  · simp [h]

/-- A body that changes its own group by a function of the group once issued. -/
theorem withGroup_retire (w : Who) (m : Mach) (g : Group) (k : Group → Except Trap Mach) :
    withGroup w (m.retire w g) k = k (g.retired w) := by
  simp [withGroup]

end Sys2Proof.Machine
end

