-- ==== Sys2Proof/Laws/Alu.lean ====
section
/-! SUPPORT. The register results of the shared shapes of Alu: what one pass a thread leaves in the registers (R54, R194), and
from it the step of every word of these shapes. -/

namespace Sys2Proof.Machine

/-! ### Register fields -/

theorem isV_iff (f : RegField) : isV f = true ↔ f.toNat < 47 := by simp [isV]
theorem isZ_iff (f : RegField) : isZ f = true ↔ f.toNat = 47 := by
  unfold isZ; rw [beq_iff_eq]; exact ⟨fun h => by rw [h]; rfl, fun h => BitVec.eq_of_toNat_eq h⟩
theorem isK_iff (f : RegField) : isK f = true ↔ 48 ≤ f.toNat := by simp [isK]

theorem mem_threadsOf_lt {m : Mask} {t : Nat} (h : t ∈ threadsOf m) : t < 32 := by
  unfold threadsOf at h; simp at h; exact h.1

theorem mem_active_lt {g : Group} {t : Nat} (h : t ∈ g.active) : t < 32 := mem_threadsOf_lt h

theorem mem_participants_lt {g : Group} {gf : BitVec 3} {t : Nat} (h : t ∈ g.participants gf) : t < 32 := by
  unfold Group.participants at h; exact mem_active_lt (List.mem_of_mem_filter h)

theorem mem_actors_lt {g : Group} {f : Fields} {t : Nat} (h : t ∈ g.actors f) : t < 32 := by
  unfold Group.actors at h
  split at h
  · have h1 := List.mem_of_mem_filter h
    rw [Option.mem_toList] at h1
    exact mem_active_lt (List.mem_of_mem_head? h1)
  · exact mem_participants_lt h

/-! ### One register write -/

theorem readV_setV (g : Group) (r t : Nat) (x : Word) (ht : t < 32) (r' t' : Nat) (ht' : t' < 32) :
    (g.setV r t x).readV r' t' = if r' = r ∧ t' = t then x else g.readV r' t' := by
  unfold Group.readV Group.setV
  simp only [SMap.getD_set]
  by_cases h : r' = r ∧ t' = t
  · rw [if_pos h, if_pos (by omega)]
  · rw [if_neg h, if_neg (by omega)]

@[simp] theorem readV_setK (g : Group) (j : Nat) (x : Word) (r t : Nat) : (g.setK j x).readV r t = g.readV r t := rfl
@[simp] theorem readV_setTag (g : Group) (j : Nat) (x : FTag) (r t : Nat) : (g.setTag j x).readV r t = g.readV r t := rfl
@[simp] theorem readK_setV (g : Group) (r t : Nat) (x : Word) (j : Nat) : (g.setV r t x).readK j = g.readK j := rfl
@[simp] theorem readK_setTag (g : Group) (r : Nat) (x : FTag) (j : Nat) : (g.setTag r x).readK j = g.readK j := rfl
theorem readK_setK (g : Group) (i j : Nat) (x : Word) : (g.setK i x).readK j = if j = i then x else g.readK j := by
  unfold Group.readK Group.setK; simp [SMap.getD_set]
@[simp] theorem tagV_setV (g : Group) (r t : Nat) (x : Word) (j : Nat) : (g.setV r t x).tagV j = g.tagV j := rfl
@[simp] theorem tagV_setK (g : Group) (r : Nat) (x : Word) (j : Nat) : (g.setK r x).tagV j = g.tagV j := rfl
theorem tagV_setTag (g : Group) (i j : Nat) (x : FTag) : (g.setTag i x).tagV j = if j = i then x else g.tagV j := by
  unfold Group.tagV Group.setTag; simp [SMap.getD_set]

/-! ### Register writes in order -/

@[simp] theorem applyWrites_nil (g : Group) : applyWrites g [] = g := rfl
@[simp] theorem applyWrites_cons (g : Group) (w : RegWrite) (ws : List RegWrite) :
    applyWrites g (w :: ws) = applyWrites (w.apply g) ws := rfl
theorem applyWrites_append (g : Group) (a b : List RegWrite) : applyWrites g (a ++ b) = applyWrites (applyWrites g a) b := by
  simp [applyWrites, List.foldl_append]

/-- The group after the passes is the group after their writes in order. -/
theorem passes_fst (f : Group → Nat → List RegWrite) (ts : List Nat) (g : Group) :
    (passes f g ts).1 = applyWrites g (passes f g ts).2 := by
  induction ts generalizing g with
  | nil => rfl
  | cons t ts ih => simp [passes, applyWrites_append, ih]

/-- The passes as a fold: each sees the writes of those before it. -/
theorem applyWrites_passes (f : Group → Nat → List RegWrite) (ts : List Nat) (g : Group) :
    applyWrites g (passes f g ts).2 = ts.foldl (fun h t => applyWrites h (f h t)) g := by
  induction ts generalizing g with
  | nil => rfl
  | cons t ts ih => simp [passes, applyWrites_append, ih]

/-- What register writes leave of a group, whatever they are: all but its registers, tags, predicates, status and tokens. -/
theorem applyWrites_rest (g : Group) (ws : List RegWrite) :
    applyWrites g ws = { g with v := (applyWrites g ws).v, vtag := (applyWrites g ws).vtag, k := (applyWrites g ws).k,
                                preds := (applyWrites g ws).preds, lsts := (applyWrites g ws).lsts,
                                tokens := (applyWrites g ws).tokens } := by
  induction ws generalizing g with
  | nil => rfl
  | cons w ws ih =>
    rw [applyWrites_cons, ih]
    cases w <;> try rfl
    simp only [RegWrite.apply, Group.setPred]
    split <;> rfl

/-- Writes of values, tags, k registers and predicates leave the status and the barrier tokens. -/
theorem applyWrites_lsts (g : Group) (ws : List RegWrite)
    (h : ∀ w ∈ ws, (∃ r t x, w = .v r t x) ∨ (∃ r x, w = .vtag r x) ∨ (∃ r x, w = .k r x) ∨ (∃ p t b, w = .pred p t b)) :
    (applyWrites g ws).lsts = g.lsts ∧ (applyWrites g ws).tokens = g.tokens := by
  induction ws generalizing g with
  | nil => exact ⟨rfl, rfl⟩
  | cons w ws ih =>
    rw [applyWrites_cons]
    have := ih (w.apply g) (fun x hx => h x (by simp [hx]))
    rw [this.1, this.2]
    rcases h w (by simp) with ⟨r, t, x, rfl⟩ | ⟨r, x, rfl⟩ | ⟨r, x, rfl⟩ | ⟨p, t, b, rfl⟩ <;> try exact ⟨rfl, rfl⟩
    simp only [RegWrite.apply, Group.setPred]
    split <;> exact ⟨rfl, rfl⟩

/-! ### One value a thread in D -/

/-- The value a word of one result register computes depends on its own thread's registers alone: another thread's part of a
v register does not matter. -/
def Local (d : RegField) (val : Group → Nat → Word) : Prop :=
  ∀ g t t' x, t ≠ t' → t < 32 → t' < 32 → val (g.setV d.toNat t x) t' = val g t'

theorem foldl_setV_spec (d : RegField) (val : Group → Nat → Word) (hl : Local d val) :
    ∀ (ts : List Nat) (g : Group), ts.Nodup → (∀ t ∈ ts, t < 32) →
      (∀ r t, t < 32 → (ts.foldl (fun h t => h.setV d.toNat t (val h t)) g).readV r t =
        if r = d.toNat ∧ t ∈ ts then val g t else g.readV r t) := by
  intro ts
  induction ts with
  | nil => simp
  | cons a ts ih =>
    intro g hn hlt r t ht
    have hn' := List.nodup_cons.1 hn
    rw [List.foldl_cons, ih _ hn'.2 (fun t h => hlt t (by simp [h])) r t ht, readV_setV _ _ _ _ (hlt a (by simp)) _ _ ht]
    by_cases h : r = d.toNat ∧ t ∈ ts
    · rw [if_pos h, if_pos ⟨h.1, by simp [h.2]⟩]
      exact hl g a t _ (fun e => hn'.1 (e ▸ h.2)) (hlt a (by simp)) ht
    · rw [if_neg h]
      by_cases h2 : r = d.toNat ∧ t = a
      · rw [if_pos h2, if_pos ⟨h2.1, by simp [h2.2]⟩, h2.2]
      · rw [if_neg h2, if_neg (by simp only [List.mem_cons]; tauto)]

/-- What holds at the start and is kept by every pass holds at the end. -/
theorem foldl_keeps {α β : Type} (P : α → Prop) (step : α → β → α) (hs : ∀ a b, P a → P (step a b)) :
    ∀ (l : List β) (a : α), P a → P (l.foldl step a) := by
  intro l
  induction l with
  | nil => exact fun _ h => h
  | cons b l ih => exact fun a h => ih _ (hs a b h)

theorem nodup_actors (g : Group) (f : Fields) : (g.actors f).Nodup := by
  unfold Group.actors
  split
  · refine List.Nodup.filter _ ?_
    cases g.active.head? <;> simp
  · exact (List.nodup_range.filter _).filter _

/-- The writes of one result register a thread, applied: the passes, then the tag. -/
theorem applyWrites_aluWrites (g : Group) (f : Fields) (tag : FTag) (val : Group → Nat → Word) :
    applyWrites g (aluWrites g f 1 tag (fun g t => [val g t])) =
      applyWrites ((g.actors f).foldl (fun h t => applyWrites h (writeWide f.fd t 0 [val h t])) g)
        (resultTag (g.actors f) f.fd 1 tag) := by
  simp only [aluWrites, applyWrites_append, applyWrites_passes]

theorem writeWide_one (d : RegField) (t : Nat) (x : Word) : writeWide d t 0 [x] = writeField d t x := by
  simp only [writeWide, List.append_nil]
  split
  · next h =>
    have := (isZ_iff d).1 h
    have hv : isV d = false := by
      cases hv : isV d with
      | false => rfl
      | true => have := (isV_iff d).1 hv; omega
    simp [writeField, h, hv]
  · simp

/-- A result in D, written in each acting thread. -/
theorem holds_alu (g : Group) (f : Fields) (tag : FTag) (val : Group → Nat → Word) (hl : Local f.fd val) :
    Holds g (applyWrites g (aluWrites g f 1 tag (fun g t => [val g t]))) f.fd (g.actors f) tag val := by
  rw [applyWrites_aluWrites]
  simp only [writeWide_one]
  set ts := g.actors f with hts
  have hlt : ∀ t ∈ ts, t < 32 := fun t h => mem_actors_lt h
  by_cases hv : isV f.fd = true
  · have hk : isK f.fd = false := by
      cases hk : isK f.fd with
      | false => rfl
      | true => have h1 := (isV_iff f.fd).1 hv; have h2 := (isK_iff f.fd).1 hk; omega
    have hw : ∀ (h : Group) t, applyWrites h (writeField f.fd t (val h t)) = h.setV f.fd.toNat t (val h t) := fun h t => by
      simp [writeField, hv, RegWrite.apply]
    simp only [hw]
    set g1 := ts.foldl (fun h t => h.setV f.fd.toNat t (val h t)) g with hg1
    have h1 := foldl_setV_spec f.fd val hl ts g (nodup_actors g f) hlt
    have h2 : g1.vtag = g.vtag ∧ g1.k = g.k ∧ g1.preds = g.preds :=
      foldl_keeps (fun h => h.vtag = g.vtag ∧ h.k = g.k ∧ h.preds = g.preds) (fun h t => h.setV f.fd.toNat t (val h t))
        (fun a t h => h) ts g ⟨rfl, rfl, rfl⟩
    by_cases he : ts = []
    · simp only [resultTag, he, if_pos, applyWrites_nil]
      refine ⟨fun r t ht => by rw [hg1]; simp [he], fun r => by rw [hg1]; simp [he], fun j => by simp [hk, Group.readK, h2.2.1],
        h2.2.2⟩
    · have hr : applyWrites g1 (resultTag ts f.fd 1 tag) = g1.setTag f.fd.toNat tag := by
        simp [resultTag, he, writeTag, hv, RegWrite.apply]
      rw [hr]
      refine ⟨fun r t ht => ?_, fun r => ?_, fun j => ?_, h2.2.2⟩
      · rw [readV_setTag, h1 r t ht]; simp [hv]
      · rw [tagV_setTag]; simp [hv, he, Group.tagV, h2.1]
      · simp [hk, Group.readK, h2.2.1]
  · have hvf : isV f.fd = false := by simpa using hv
    have hr : resultTag ts f.fd 1 tag = [] := by unfold resultTag writeTag; simp [hvf]
    rw [hr, applyWrites_nil]
    by_cases hz : isZ f.fd = true
    · have hk : isK f.fd = false := by
        cases hk : isK f.fd with
        | false => rfl
        | true => have h1 := (isZ_iff f.fd).1 hz; have h2 := (isK_iff f.fd).1 hk; omega
      have hw : ∀ (h : Group) t, applyWrites h (writeField f.fd t (val h t)) = h := fun h t => by
        simp [writeField, hvf, hz]
      have he : ts.foldl (fun h t => applyWrites h (writeField f.fd t (val h t))) g = g :=
        foldl_keeps (fun h => h = g) (fun h t => applyWrites h (writeField f.fd t (val h t)))
          (fun a t h => by rw [hw, h]) ts g rfl
      rw [he]
      exact ⟨fun r t _ => by simp [hvf], fun r => by simp [hvf], fun j => by simp [hk], rfl⟩
    · have hzf : isZ f.fd = false := by simpa using hz
      have hk : isK f.fd = true := by
        have h1 : ¬ f.fd.toNat < 47 := fun h => hv ((isV_iff _).2 h)
        have h2 : ¬ f.fd.toNat = 47 := fun h => hz ((isZ_iff _).2 h)
        exact (isK_iff _).2 (by omega)
      have hw : ∀ (h : Group) t, applyWrites h (writeField f.fd t (val h t)) = h.setK (f.fd.toNat - 48) (val h t) :=
        fun h t => by simp [writeField, hvf, hzf, RegWrite.apply]
      simp only [hw]
      set g1 := ts.foldl (fun h t => h.setK (f.fd.toNat - 48) (val h t)) g with hg1
      have h2 : g1.v = g.v ∧ g1.vtag = g.vtag ∧ g1.preds = g.preds :=
        foldl_keeps (fun h => h.v = g.v ∧ h.vtag = g.vtag ∧ h.preds = g.preds)
          (fun h t => h.setK (f.fd.toNat - 48) (val h t)) (fun a t h => h) ts g ⟨rfl, rfl, rfl⟩
      exact ⟨fun r t _ => by simp [hvf, Group.readV, h2.1], fun r => by simp [hvf, Group.tagV, h2.2.1], fun j => by rw [if_pos hk, hg1],
        h2.2.2⟩

/-! ### From the group as it issues to the group before -/

/-- A group of which a word has issued: its program counter, its run and its words in error are as these say (R23, R85, R182). -/
abbrev Group.ran (g : Group) (pc : Va) (rc tr : Nat) (st : GState) (bad : List Nat) : Group :=
  { g with pc, runCount := rc, wait := none, testRuns := tr, state := st, bad }

/-- A value that the run of a group does not reach: its program counter, its run count, its state, its waits and the words in error. -/
def Settled {α : Type} (val : Group → α) : Prop :=
  ∀ (g : Group) (pc : Va) (rc tr : Nat) (st : GState) (bad : List Nat), val (g.ran pc rc tr st bad) = val g

theorem Settled.comp {α β : Type} {val : Group → α} (h : Settled val) (F : α → β) : Settled (fun g => F (val g)) :=
  fun g pc rc tr st bad => congrArg F (h g pc rc tr st bad)

theorem Settled.retired {α : Type} {val : Group → α} (h : Settled val) (g : Group) (w : Who) : val (g.retired w) = val g :=
  h g _ _ _ _ _

theorem RegWrite.apply_ran (x : RegWrite) (g : Group) (pc : Va) (rc tr : Nat) (st : GState) (bad : List Nat) :
    x.apply (g.ran pc rc tr st bad) = (x.apply g).ran pc rc tr st bad := by
  cases x <;> try rfl
  simp only [RegWrite.apply, Group.setPred]; split <;> rfl

theorem applyWrites_ran (ws : List RegWrite) (g : Group) (pc : Va) (rc tr : Nat) (st : GState) (bad : List Nat) :
    applyWrites (g.ran pc rc tr st bad) ws = (applyWrites g ws).ran pc rc tr st bad := by
  induction ws generalizing g with
  | nil => rfl
  | cons x ws ih => rw [applyWrites_cons, applyWrites_cons, RegWrite.apply_ran, ih]

theorem applyWrites_retired (w : Who) (ws : List RegWrite) (g : Group) :
    applyWrites (g.retired w) ws = (applyWrites g ws).ran (w.addr + BitVec.ofNat 56 w.len) (g.retired w).runCount
      (g.retired w).testRuns (g.retired w).state (g.cleared w.f) := applyWrites_ran ..

/-- Passes over a group as it issues write what they write over the group before. -/
theorem passes_retired (w : Who) (step : Group → Nat → List RegWrite) (hs : ∀ t, Settled (fun g => step g t)) (ts : List Nat)
    (g : Group) : (passes step (g.retired w) ts).2 = (passes step g ts).2 := by
  have key : ∀ (ts : List Nat) (g g' : Group),
      (∃ pc rc tr st bad, g' = g.ran pc rc tr st bad) → (passes step g' ts).2 = (passes step g ts).2 := by
    intro ts
    induction ts with
    | nil => exact fun _ _ _ => rfl
    | cons t ts ih =>
      rintro g _ ⟨pc, rc, tr, st, bad, rfl⟩
      have h1 : step (g.ran pc rc tr st bad) t = step g t := hs t g pc rc tr st bad
      simp only [passes]
      rw [h1]
      congr 1
      exact ih _ _ ⟨pc, rc, tr, st, bad, applyWrites_ran ..⟩
  exact key ts g _ ⟨_, _, _, _, _, rfl⟩

theorem aluWrites_retired (w : Who) (f : Fields) (n : Nat) (tag : FTag) (val : Group → Nat → List Word)
    (hs : ∀ t, Settled (fun g => val g t)) (g : Group) : aluWrites (g.retired w) f n tag val = aluWrites g f n tag val := by
  unfold aluWrites
  have ha : (g.retired w).actors f = g.actors f := rfl
  dsimp only
  rw [ha, passes_retired w _ (fun t => (hs t).comp (writeWide f.fd t 0))]

/-! ### The step of a word of one register result -/

/-- A word whose effect is a list of register writes that depends on its group alone. -/
theorem issue_commit {s : State} {slot : Nat} {g : Group} {f : Fields} {len : Nat} {b : Body} {ws : List RegWrite}
    (h : Issues s slot g f)
    (hb : runBody b s.dev { core := s.curCore, slot, f, addr := g.pc, len } g s.mach =
      .ok (commit { core := s.curCore, slot, f, addr := g.pc, len }
        (s.mach.retire { core := s.curCore, slot, f, addr := g.pc, len } g) ws)) :
    ∃ t g', issue len f b s = .next t ∧ Stepped s t slot f g g' ∧
      g'.rest = ({ applyWrites g ws with pc := g.pc + BitVec.ofNat 56 len } : Group).rest := by
  obtain ⟨t, g', h1, h2, h3⟩ := issue_modGroup (F := fun g => applyWrites g ws) h hb
    (by rw [applyWrites_retired]) (fun x => by rw [applyWrites_rest]; exact ⟨rfl, rfl, rfl, rfl, rfl, rfl, rfl⟩)
  refine ⟨t, g', h1, h2, ?_⟩
  rw [h3]
  dsimp only
  rw [applyWrites_retired]
  rfl

/-- Two groups with the same rest have the same registers. -/
theorem Group.rest_regs {g g' : Group} (h : g.rest = g'.rest) :
    g.v = g'.v ∧ g.vtag = g'.vtag ∧ g.k = g'.k ∧ g.preds = g'.preds := by
  have h1 := congrArg Group.v h
  have h2 := congrArg Group.vtag h
  have h3 := congrArg Group.k h
  have h4 := congrArg Group.preds h
  exact ⟨h1, h2, h3, h4⟩

theorem Holds.congr {g g' g'' : Group} {d : RegField} {ts : List Nat} {tag : FTag} {val : Group → Nat → Word}
    (h : Holds g g' d ts tag val) (hr : g''.v = g'.v ∧ g''.vtag = g'.vtag ∧ g''.k = g'.k ∧ g''.preds = g'.preds) :
    Holds g g'' d ts tag val := by
  obtain ⟨h1, h2, h3, h4⟩ := h
  refine ⟨fun r t ht => ?_, fun r => ?_, fun j => ?_, hr.2.2.2.trans h4⟩
  · rw [← h1 r t ht]; simp [Group.readV, hr.1]
  · rw [← h2 r]; simp [Group.tagV, hr.2.1]
  · rw [← h3 j]; simp [Group.readK, hr.2.2.1]

/-- The step of a word of one register result (R194): D holds the value in each acting thread. -/
theorem alu_steps {s : State} {slot : Nat} {g : Group} {f : Fields} {len : Nat} {tag : Group → Fields → FTag}
    {val : Group → Fields → Nat → Word} (h : Issues s slot g f) (hl : Local f.fd (fun g t => val g f t))
    (hs : ∀ t, Settled (fun g => val g f t)) (ht : Settled (fun g => tag g f)) :
    ∃ t g', issue len f (alu tag val) s = .next t ∧ Stepped s t slot f g g' ∧ OnlyRegs g g' len ∧
      Holds g g' f.fd (g.actors f) (tag g f) (fun h t => val h f t) := by
  set ws := aluWrites g f 1 (tag g f) (fun g t => [val g f t]) with hws
  have hb : runBody (alu tag val) s.dev { core := s.curCore, slot, f, addr := g.pc, len } g s.mach =
      .ok (commit { core := s.curCore, slot, f, addr := g.pc, len }
        (s.mach.retire { core := s.curCore, slot, f, addr := g.pc, len } g) ws) := by
    unfold runBody
    dsimp only
    split
    · next h0 =>
      have h1 : g.amask = 0 := by simp only [Bool.and_eq_true, beq_iff_eq] at h0; exact h0.1
      have h2 : g.active = [] := by simp [Group.active, threadsOf, h1]
      have h3 : g.actors f = [] := by simp [Group.actors, Group.participants, h2]
      have h4 : ws = [] := by rw [hws]; simp [aluWrites, h3, passes, resultTag]
      rw [h4]
      unfold commit
      rw [Mach.modGroup_some _ (Mach.group?_retire s.mach { core := s.curCore, slot, f, addr := g.pc, len } g)]
      simp only [applyWrites_nil]
      unfold Mach.retire
      dsimp only
      rw [Mach.setGroup_setGroup]
      rfl
    · unfold alu
      rw [withGroup_retire]
      have ht' : tag (g.retired { core := s.curCore, slot, f, addr := g.pc, len }) f = tag g f := ht.retired g _
      rw [ht', aluWrites_retired _ _ _ _ _ (fun t => (hs t).comp (fun x => [x]))]
  obtain ⟨t, g', h1, h2, h3⟩ := issue_commit h hb
  have hr := Group.rest_regs h3
  refine ⟨t, g', h1, h2, ?_, (holds_alu g f (tag g f) _ hl).congr hr⟩
  unfold OnlyRegs
  rw [h3, hr.1, hr.2.1, hr.2.2.1, hr.2.2.2]
  have hlt := applyWrites_lsts g ws (by
    intro w hw
    rw [hws] at hw
    unfold aluWrites at hw
    rcases List.mem_append.1 hw with hw | hw
    · have hp : ∀ (ts : List Nat) (g : Group), ∀ w ∈ (passes (fun g t => writeWide f.fd t 0 [val g f t]) g ts).2,
          (∃ r t x, w = .v r t x) ∨ (∃ r x, w = .k r x) := by
        intro ts
        induction ts with
        | nil => simp [passes]
        | cons t ts ih =>
          intro g w hw
          simp only [passes, List.mem_append] at hw
          rcases hw with hw | hw
          · rw [writeWide_one] at hw
            unfold writeField at hw
            split at hw
            · simp at hw; exact .inl ⟨_, _, _, hw⟩
            · split at hw
              · simp at hw
              · simp at hw; exact .inr ⟨_, _, hw⟩
          · exact ih _ w hw
      rcases hp _ _ w hw with h | h
      · exact .inl h
      · exact .inr (.inr (.inl h))
    · unfold resultTag writeTag at hw
      split at hw
      · simp at hw
      · split at hw
        · simp at hw; exact .inr (.inl ⟨_, _, hw⟩)
        · simp at hw)
  rw [applyWrites_rest g ws]
  simp only [Group.rest, hlt.1, hlt.2]

end Sys2Proof.Machine
end

