-- ==== Sys2Proof/Laws/Layout.lean ====
section
/-! SUPPORT. What every encoded word shows whatever its fields hold: the size bit and the opcode (R182, R184, R188). -/

namespace Sys2Proof

theorem commonBits_low (op : BitVec 8) (g : BitVec 3) (u e : Bool) : (commonBits op g u e).getLsbD 0 = true := by
  simp [commonBits, placed]

theorem commonBits_op (op : BitVec 8) (g : BitVec 3) (u e : Bool) : (commonBits op g u e).extractLsb' 3 8 = op := by
  ext i hi
  have h : i = 0 ∨ i = 1 ∨ i = 2 ∨ i = 3 ∨ i = 4 ∨ i = 5 ∨ i = 6 ∨ i = 7 := by omega
  rcases h with h | h | h | h | h | h | h | h <;> subst h <;> simp [commonBits, placed]

/-- A field placed at bit k leaves the bits below k zero. -/
theorem placed_below {n : Nat} (k : Nat) (x : BitVec n) (i : Nat) (h : i < k) : (placed k x).getLsbD i = false := by
  simp [placed]; omega

/-- A field placed at bit 14 or above leaves the guard, the opcode and the bits below them alone. -/
theorem placed_or_low {n : Nat} (k : Nat) (hk : 14 ≤ k) (x : BitVec n) (y : BitVec 32) :
    (placed k x ||| y).extractLsb' 0 14 = y.extractLsb' 0 14 := by
  ext i hi
  have := placed_below k x i (by omega)
  simp [this]

/-- The size bit and the opcode of a word are read from its low fourteen bits. -/
theorem low_parts (x y : BitVec 32) (h : x.extractLsb' 0 14 = y.extractLsb' 0 14) :
    x.getLsbD 0 = y.getLsbD 0 ∧ x.extractLsb' 3 8 = y.extractLsb' 3 8 := by
  have key : ∀ i, i < 14 → x.getLsbD i = y.getLsbD i := fun i hi => by
    simpa [hi] using congrArg (fun v => BitVec.getLsbD v i) h
  refine ⟨key 0 (by omega), ?_⟩
  ext i hi
  simpa [hi] using key (3 + i) (by omega)

/-- A word whose low fourteen bits are those of commonBits has the size bit set and shows its opcode. -/
theorem parts_of_low (x : BitVec 32) (op : BitVec 8) (g : BitVec 3) (u e : Bool)
    (h : x.extractLsb' 0 14 = (commonBits op g u e).extractLsb' 0 14) :
    x.getLsbD 0 = true ∧ x.extractLsb' 3 8 = op := by
  obtain ⟨h0, h1⟩ := low_parts _ _ h
  exact ⟨h0.trans (commonBits_low ..), h1.trans (commonBits_op ..)⟩

theorem WordA.toBits_parts (op : BitVec 8) (w : WordA) :
    (w.toBits op).getLsbD 0 = true ∧ (w.toBits op).extractLsb' 3 8 = op := by
  refine parts_of_low _ op w.g w.u w.e ?_
  simp only [WordA.toBits, BitVec.or_assoc]
  simp [placed_or_low]

theorem WordI.toBits_parts (op : BitVec 8) (w : WordI) :
    (w.toBits op).getLsbD 0 = true ∧ (w.toBits op).extractLsb' 3 8 = op := by
  refine parts_of_low _ op w.g w.u w.e ?_
  simp only [WordI.toBits, BitVec.or_assoc]
  simp [placed_or_low]

theorem WordJ.toBits_parts (op : BitVec 8) (w : WordJ) :
    (w.toBits op).getLsbD 0 = true ∧ (w.toBits op).extractLsb' 3 8 = op := by
  refine parts_of_low _ op w.g w.u w.e ?_
  simp only [WordJ.toBits]
  simp [placed_or_low]

theorem WordM.toBits_parts (op : BitVec 8) (w : WordM) :
    (w.toBits op).getLsbD 0 = true ∧ (w.toBits op).extractLsb' 3 8 = op := by
  refine parts_of_low _ op w.g w.u w.e ?_
  simp only [WordM.toBits, BitVec.or_assoc]
  simp [placed_or_low]

theorem WordO.toBits_parts (op : BitVec 8) (w : WordO) :
    (w.toBits op).getLsbD 0 = true ∧ (w.toBits op).extractLsb' 3 8 = op := by
  refine parts_of_low _ op w.g w.u w.e ?_
  simp only [WordO.toBits, BitVec.or_assoc]
  simp [placed_or_low]

theorem WordC.toBits_parts (op : BitVec 8) (w : WordC) :
    (w.toBits op).getLsbD 0 = true ∧ (w.toBits op).extractLsb' 3 8 = op := by
  refine parts_of_low _ op w.g w.u w.e ?_
  simp only [WordC.toBits, BitVec.or_assoc]
  simp [placed_or_low]

theorem WordH.toBits_size (op : BitVec 4) (w : WordH) : (w.toBits op).getLsbD 0 = false := by
  simp [WordH.toBits, placedH]

theorem WordD.toBits_size (w : WordD) : w.toBits.getLsbD 0 = false := by
  simp [WordD.toBits, placedH]

end Sys2Proof
end

