-- ==== Sys2Proof/Laws/Memory.lean ====
section
/-! SUPPORT. The operations on the machine's byte memories: which leave them as they are, and that the others keep their
canonical form (log 3). -/

namespace Sys2Proof.Machine

/-- The byte memories are those of before. -/
def SameBytes (m m' : Mach) : Prop :=
  m'.dram = m.dram ∧ m'.hostMem = m.hostMem ∧ m'.fabric = m.fabric ∧ m'.peers = m.peers

namespace SameBytes

theorem refl (m : Mach) : SameBytes m m := ⟨rfl, rfl, rfl, rfl⟩

theorem trans {a b c : Mach} (h : SameBytes a b) (h' : SameBytes b c) : SameBytes a c :=
  ⟨h'.1.trans h.1, h'.2.1.trans h.2.1, h'.2.2.1.trans h.2.2.1, h'.2.2.2.trans h.2.2.2⟩

/-- A fold keeps the byte memories when each of its steps does. -/
theorem foldl {β : Type} (step : Mach → β → Mach) (hs : ∀ m b, SameBytes m (step m b)) (bs : List β) (m : Mach) :
    SameBytes m (bs.foldl step m) := by
  induction bs generalizing m with
  | nil => exact refl m
  | cons b bs ih => exact (hs m b).trans (ih _)

theorem setCore (m : Mach) (c : Nat) (x : Core) : SameBytes m (m.setCore c x) := ⟨rfl, rfl, rfl, rfl⟩
theorem modCore (m : Mach) (c : Nat) (f : Core → Core) : SameBytes m (m.modCore c f) := ⟨rfl, rfl, rfl, rfl⟩
theorem setGroup (m : Mach) (c k : Nat) (g : Group) : SameBytes m (m.setGroup c k g) := ⟨rfl, rfl, rfl, rfl⟩
theorem modCluster (m : Mach) (c : Nat) (f : Cluster → Cluster) : SameBytes m (m.modCluster c f) := ⟨rfl, rfl, rfl, rfl⟩
theorem modCtx (m : Mach) (n : Nat) (f : Ctx → Ctx) : SameBytes m (m.modCtx n f) := ⟨rfl, rfl, rfl, rfl⟩
theorem send (m : Mach) (core slot uid place due : Nat) (held : Bool) (b : MsgBody) (src : Option Nat) :
    SameBytes m (m.send core slot uid place due held b src) := ⟨rfl, rfl, rfl, rfl⟩

theorem modGroup (m : Mach) (c k : Nat) (f : Group → Group) : SameBytes m (m.modGroup c k f) := by
  unfold Mach.modGroup
  split
  · exact setGroup ..
  · exact refl m

theorem modUid (m : Mach) (c k uid : Nat) (f : Group → Group) : SameBytes m (m.modUid c k uid f) := by
  unfold Mach.modUid
  split
  · exact modGroup ..
  · split
    · exact modCore ..
    · exact refl m

theorem postEvent (m : Mach) (kind source cycle data : Nat) : SameBytes m (m.postEvent kind source cycle data) := by
  unfold Mach.postEvent
  simp only
  split <;> exact ⟨rfl, rfl, rfl, rfl⟩

theorem postFq (m : Mach) (ctx kind acc vaddr aux core : Nat) (slot : Option Nat) (tokens : List Nat) :
    SameBytes m (m.postFq ctx kind acc vaddr aux core slot tokens) := by
  unfold Mach.postFq
  split
  · exact refl m
  · exact modCtx ..

theorem notices (m : Mach) (line : Loc) (except : Option Nat) : SameBytes m (m.notices line except) :=
  foldl _ (fun m c => send m c 0 0 _ 0 false _ _) _ m

/-- What a group learns leaves the memories alone. -/
theorem meet (m : Mach) (word : Loc) (core slot uid scope : Nat) : SameBytes m (m.meet word core slot uid scope) := by
  unfold Mach.meet Mach.learn
  split
  · split
    · exact refl m
    · exact modUid ..
  · exact refl m

theorem logCorrected (m : Mach) (a ctx core : Nat) (slot : Option Nat) (acc vaddr : Nat) :
    SameBytes m (m.logCorrected a ctx core slot acc vaddr) := by
  unfold Mach.logCorrected
  split
  · exact refl m
  · exact (postFq ..).trans (modCore ..)

end SameBytes

namespace Mach.MemoriesWf

/-- What leaves the byte memories alone keeps their form. -/
theorem same {m m' : Mach} (h : m.MemoriesWf) (hs : SameBytes m m') : m'.MemoriesWf := by
  obtain ⟨h1, h2, h3, h4⟩ := hs
  simpa only [Mach.MemoriesWf, h1, h2, h3, h4] using h

/-- What may leave the byte memories alone keeps their form. -/
theorem orSame {m m' : Mach} (h : m.MemoriesWf) (hs : SameBytes m m') (p : Prop) [Decidable p] : (if p then m' else m).MemoriesWf := by
  split
  · exact h.same hs
  · exact h

/-- A fold keeps the form when each of its steps does. -/
theorem foldl {β : Type} (step : Mach → β → Mach) (hs : ∀ m b, m.MemoriesWf → (step m b).MemoriesWf) (bs : List β) {m : Mach}
    (h : m.MemoriesWf) : (bs.foldl step m).MemoriesWf := by
  induction bs generalizing m with
  | nil => exact h
  | cons b bs ih => exact ih (hs m b h)

theorem writeDram {m : Mach} (h : m.MemoriesWf) (a : Nat) (b : Byte) :
    ({ m with dram := m.dram.write a b } : Mach).MemoriesWf := ⟨Memory.wf_write _ _ _ h.1, h.2⟩

theorem writeHost {m : Mach} (h : m.MemoriesWf) (a : Nat) (b : Byte) :
    ({ m with hostMem := m.hostMem.write a b } : Mach).MemoriesWf := ⟨h.1, Memory.wf_write _ _ _ h.2.1, h.2.2⟩

theorem writeFabric {m : Mach} (h : m.MemoriesWf) (a : Nat) (b : Byte) :
    ({ m with fabric := m.fabric.write a b } : Mach).MemoriesWf := ⟨h.1, h.2.1, Memory.wf_write _ _ _ h.2.2.1, h.2.2.2⟩

/-- A peer that nothing has been written to reads from nothing listed. -/
theorem peer {m : Mach} (h : m.MemoriesWf) (d : Nat) : Memory.wf (m.peers.getD d []) = true := by
  unfold SMap.getD
  cases hf : m.peers.get? d with
  | none => exact Memory.wf_nil
  | some x => exact h.2.2.2 (d, x) (SMap.mem_of_get? hf)

theorem writePeer {m : Mach} (h : m.MemoriesWf) (d a : Nat) (b : Byte) :
    ({ m with peers := m.peers.set d ((m.peers.getD d []).write a b) } : Mach).MemoriesWf := by
  refine ⟨h.1, h.2.1, h.2.2.1, fun e he => ?_⟩
  rcases SMap.key_mem_set _ _ _ he with rfl | he
  · exact Memory.wf_write _ _ _ (h.peer d)
  · exact h.2.2.2 e he

/-- Storing a byte anywhere keeps the form. -/
theorem putByte {m : Mach} (h : m.MemoriesWf) (l : Loc) (b : Byte) : (m.putByte l b).MemoriesWf := by
  cases l with
  | dram a => exact h.writeDram a b
  | host a => exact h.writeHost a b
  | peer d a => exact h.writePeer d a b
  | rwin a => exact h.writeFabric a b
  | spad c a => exact h.same (SameBytes.modCluster ..)

theorem putBytes {m : Mach} (h : m.MemoriesWf) (l : Loc) (bs : List Byte) : (m.putBytes l bs).MemoriesWf := by
  induction bs generalizing m l with
  | nil => exact h
  | cons b bs ih => exact ih (h.putByte l b) _

/-- A sector of a peer's memory. -/
theorem peerSector {m : Mach} (h : m.MemoriesWf) (d line i : Nat) (mask : BitVec 128) (poison : Bool) (data : SMap Byte)
    (tag : Option FTag) : (peerSector m d line i mask poison data tag).mach.MemoriesWf := by
  have hf := fun os : List Nat =>
    foldl (fun (m : Mach) o => m.putByte (.peer d (line + o)) (data.getD o 0)) (fun m o hm => hm.putByte _ _) os h
  unfold Machine.peerSector
  dsimp only
  split_ifs
  · exact h
  · exact h
  all_goals exact (hf _).same ⟨rfl, rfl, rfl, rfl⟩

theorem hostStore {m : Mach} (h : m.MemoriesWf) (ctx line : Nat) (mask : BitVec 128) (data : SMap Byte) :
    (m.hostStore ctx line mask data).MemoriesWf := by
  unfold Mach.hostStore
  split
  · exact h.same (SameBytes.modCtx ..)
  · exact foldl _ (fun m o hm => hm.writeHost _ _) _ h

theorem wakeWaiter {m : Mach} (h : m.MemoriesWf) (ctx : Nat) (loc : Loc) (word : Word) (w : Waiter) :
    (m.wakeWaiter ctx loc word w).MemoriesWf := by
  unfold Mach.wakeWaiter
  cases w.host with
  | some line =>
    dsimp only
    repeat' split
    · exact h
    · exact h.same ⟨rfl, rfl, rfl, rfl⟩
    · exact h.hostStore ..
  | none =>
    dsimp only
    exact (h.orSame (SameBytes.meet ..) _).same (SameBytes.modUid ..)

theorem wakeEntry {m : Mach} (h : m.MemoriesWf) (key : Nat) : (m.wakeEntry key).MemoriesWf := by
  unfold Mach.wakeEntry
  split
  · exact h
  · exact (foldl _ (fun m w hm => hm.wakeWaiter _ _ _ w) _ h).same ⟨rfl, rfl, rfl, rfl⟩

theorem wakeLine {m : Mach} (h : m.MemoriesWf) (line : Loc) : (m.wakeLine line).MemoriesWf := by
  unfold Mach.wakeLine
  have hk := foldl Mach.wakeEntry (fun m k hm => hm.wakeEntry k)
    ((m.waitTab.filter (fun e => e.2.loc.line == line && m.word32 e.2.loc != e.2.armv)).map (·.1)) h
  split
  · refine foldl _ (fun m w hm => ?_) _ hk
    repeat' split
    · exact ((hm.same (SameBytes.meet ..)).same (SameBytes.modUid ..)).same (SameBytes.modCluster ..)
    all_goals exact hm
  · exact hk

theorem writeSector {m : Mach} (h : m.MemoriesWf) (line i : Nat) (mask : BitVec 128) (poison : Bool) (data : SMap Byte)
    (tag : Option FTag) (ctx core : Nat) (slot : Option Nat) (acc : Nat) (va : Option Va) :
    (writeSector m line i mask poison data tag ctx core slot acc va).mach.MemoriesWf := by
  have hf := fun os : List Nat =>
    foldl (fun (m : Mach) o => { m with dram := m.dram.write (line + o) (data.getD o 0) }) (fun m o hm => hm.writeDram _ _) os h
  unfold Machine.writeSector
  simp only
  generalize (match tag with | none => (0 : FTag) | some t => t ^^^ m.lineTag (line + 32 * i)) = diff
  split_ifs
  · exact h
  · exact h
  all_goals first
    | exact Mach.MemoriesWf.same ((hf _).same ⟨rfl, rfl, rfl, rfl⟩) (SameBytes.postFq ..)
    | exact Mach.MemoriesWf.same ((hf _).same ⟨rfl, rfl, rfl, rfl⟩) (SameBytes.logCorrected ..)
    | exact (hf _).same ⟨rfl, rfl, rfl, rfl⟩

/-- A masked write of one line keeps the form, wherever its home is. -/
theorem writeLine {m : Mach} (h : m.MemoriesWf) (line : Loc) (mask : BitVec 128) (poison : BitVec 4) (data : SMap Byte)
    (tag : Option FTag) (ctx core : Nat) (slot except : Option Nat) (acc : Nat) (va : Option Va) :
    (m.writeLine line mask poison data tag ctx core slot except acc va).mach.MemoriesWf := by
  have hp := foldl (fun (m : Mach) o => m.putByte (line.plus o) (data.getD o 0)) (fun m o hm => hm.putByte _ _)
    (maskOffsets mask) h
  cases line with
  | dram a =>
    refine (Mach.MemoriesWf.same ?_ (SameBytes.notices ..)).wakeLine _
    simp only [List.foldl]
    exact (((h.writeSector ..).writeSector ..).writeSector ..).writeSector ..
  | spad c a => exact (hp.same (SameBytes.modCluster ..)).wakeLine _
  | host a => exact ((h.hostStore ..).same (SameBytes.notices ..)).wakeLine _
  | peer d a =>
    refine (Mach.MemoriesWf.same ?_ (SameBytes.notices ..)).wakeLine _
    simp only [List.foldl]
    exact (((h.peerSector ..).peerSector ..).peerSector ..).peerSector ..
  | rwin a => exact (hp.same (SameBytes.notices ..)).wakeLine _

theorem writeAt {m : Mach} (h : m.MemoriesWf) (l : Loc) (bs : List Byte) (tag : Option FTag) (ctx core : Nat)
    (slot except : Option Nat) (acc : Nat) (va : Option Va) :
    (m.writeAt l bs tag ctx core slot except acc va).mach.MemoriesWf := h.writeLine ..

/-- The copy of a page keeps the form. -/
theorem copyPage {m : Mach} (h : m.MemoriesWf) (old new : Nat) : (m.copyPage old new).MemoriesWf := by
  refine ⟨?_, h.2⟩
  have hw : ∀ (bs : List (Nat × Byte)) (d : Memory), d.wf = true →
      (bs.foldl (fun d e => Memory.write d (e.1 - old * 65536 + new * 65536) e.2) d).wf = true := by
    intro bs
    induction bs with
    | nil => exact fun _ hd => hd
    | cons e bs ih => exact fun d hd => ih _ (Memory.wf_write _ _ _ hd)
  refine hw _ _ ?_
  have hd := h.1
  simp only [Memory.wf, Bool.and_eq_true, decide_eq_true_eq, List.all_eq_true] at hd ⊢
  exact ⟨hd.1.filter _, fun e he => hd.2 e (List.mem_of_mem_filter he)⟩

end Mach.MemoriesWf

/-! ### Read after write, at any place -/

/-- Only the byte at the location written changes. -/
theorem Mach.byteAt_putByte (m : Mach) (l l' : Loc) (b : Byte) :
    (m.putByte l b).byteAt l' = if l' = l then b else m.byteAt l' := by
  cases l <;> cases l' <;> simp only [Mach.putByte, Mach.byteAt, reduceCtorEq, if_false, Loc.dram.injEq, Loc.host.injEq,
    Loc.rwin.injEq, Loc.peer.injEq, Loc.spad.injEq] <;> try first | exact Memory.read_write .. | rfl
  · rename_i d a d' a'
    rw [SMap.getD_set]
    by_cases hd : d' = d
    · subst hd; simp [Memory.read_write]
    · simp [hd]
  · rename_i c a c' a'
    by_cases hc : c' = c
    · subst hc
      simp only [Mach.cluster, Mach.modCluster, Mach.setCluster, SMap.getD_set_self, Cluster.spadByte, SMap.get?_set, true_and]
      split_ifs <;> rfl
    · simp [Mach.cluster, Mach.modCluster, Mach.setCluster, SMap.getD_set_ne _ _ _ hc, hc]

end Sys2Proof.Machine
end

