-- ==== Sys2Proof/Laws/PerInstr.lean ====
section
/-! SUPPORT. One lemma per instruction: the encoder and the field reader agree on what the instruction is. A 32-bit
word has bit 0 set and shows, in its bits 10:3, the opcode whose ILLEGAL rows judge it (R182, R184, R190, R192); a
16-bit form has bit 0 clear; an event has neither encoding nor fields. -/

namespace Sys2Proof.Laws

/-- The encoder and the field reader agree on this instruction. -/
def Encoding.Statement (i : Instr) : Prop :=
  match encodeBits i with
  | .word w => w.getLsbD 0 = true ∧ ∃ f, i.fields? = some f ∧ w.extractLsb' 3 8 = BitVec.ofNat 8 f.op
  | .half h => h.getLsbD 0 = false
  | .none => i.fields? = none

/-- An instruction of a 32-bit word, from its bits and its fields. -/
theorem Encoding.of_word {i : Instr} {w : BitVec 32} {op : BitVec 8} {f : Machine.Fields} (he : encodeBits i = .word w)
    (hw : w.getLsbD 0 = true ∧ w.extractLsb' 3 8 = op) (hf : i.fields? = some f) (ho : BitVec.ofNat 8 f.op = op) :
    Encoding.Statement i := by
  simp only [Encoding.Statement, he]
  exact ⟨hw.1, f, hf, hw.2.trans ho.symm⟩

theorem Encoding.nop (w : WordA) : Encoding.Statement (.nop w) :=
  Encoding.of_word rfl (WordA.toBits_parts _ w) rfl rfl
theorem Encoding.bra (w : WordJ) : Encoding.Statement (.bra w) :=
  Encoding.of_word rfl (WordJ.toBits_parts _ w) rfl rfl
theorem Encoding.brany (w : WordJ) : Encoding.Statement (.brany w) :=
  Encoding.of_word rfl (WordJ.toBits_parts _ w) rfl rfl
theorem Encoding.brx (w : WordA) : Encoding.Statement (.brx w) :=
  Encoding.of_word rfl (WordA.toBits_parts _ w) rfl rfl
theorem Encoding.call (w : WordJ) : Encoding.Statement (.call w) :=
  Encoding.of_word rfl (WordJ.toBits_parts _ w) rfl rfl
theorem Encoding.ret (w : WordA) : Encoding.Statement (.ret w) :=
  Encoding.of_word rfl (WordA.toBits_parts _ w) rfl rfl
theorem Encoding.pushm (w : WordC) : Encoding.Statement (.pushm w) :=
  Encoding.of_word rfl (WordC.toBits_parts _ w) rfl rfl
theorem Encoding.flipm (w : WordA) : Encoding.Statement (.flipm w) :=
  Encoding.of_word rfl (WordA.toBits_parts _ w) rfl rfl
theorem Encoding.popm (w : WordA) : Encoding.Statement (.popm w) :=
  Encoding.of_word rfl (WordA.toBits_parts _ w) rfl rfl
theorem Encoding.breakm (w : WordC) : Encoding.Statement (.breakm w) :=
  Encoding.of_word rfl (WordC.toBits_parts _ w) rfl rfl
theorem Encoding.safept (w : WordJ) : Encoding.Statement (.safept w) :=
  Encoding.of_word rfl (WordJ.toBits_parts _ w) rfl rfl
theorem Encoding.exit (w : WordA) : Encoding.Statement (.exit w) :=
  Encoding.of_word rfl (WordA.toBits_parts _ w) rfl rfl
theorem Encoding.yield (w : WordA) : Encoding.Statement (.yield w) :=
  Encoding.of_word rfl (WordA.toBits_parts _ w) rfl rfl
theorem Encoding.trap (w : WordI) : Encoding.Statement (.trap w) :=
  Encoding.of_word rfl (WordI.toBits_parts _ w) rfl rfl
theorem Encoding.syscall (w : WordI) : Encoding.Statement (.syscall w) :=
  Encoding.of_word rfl (WordI.toBits_parts _ w) rfl rfl
theorem Encoding.eret (w : WordA) : Encoding.Statement (.eret w) :=
  Encoding.of_word rfl (WordA.toBits_parts _ w) rfl rfl
theorem Encoding.iadd (w : WordA) : Encoding.Statement (.iadd w) :=
  Encoding.of_word rfl (WordA.toBits_parts _ w) rfl rfl
theorem Encoding.isub (w : WordA) : Encoding.Statement (.isub w) :=
  Encoding.of_word rfl (WordA.toBits_parts _ w) rfl rfl
theorem Encoding.imul (w : WordA) : Encoding.Statement (.imul w) :=
  Encoding.of_word rfl (WordA.toBits_parts _ w) rfl rfl
theorem Encoding.imulhs (w : WordA) : Encoding.Statement (.imulhs w) :=
  Encoding.of_word rfl (WordA.toBits_parts _ w) rfl rfl
theorem Encoding.imulhn (w : WordA) : Encoding.Statement (.imulhn w) :=
  Encoding.of_word rfl (WordA.toBits_parts _ w) rfl rfl
theorem Encoding.imad (w : WordA) : Encoding.Statement (.imad w) :=
  Encoding.of_word rfl (WordA.toBits_parts _ w) rfl rfl
theorem Encoding.iabs (w : WordA) : Encoding.Statement (.iabs w) :=
  Encoding.of_word rfl (WordA.toBits_parts _ w) rfl rfl
theorem Encoding.ineg (w : WordA) : Encoding.Statement (.ineg w) :=
  Encoding.of_word rfl (WordA.toBits_parts _ w) rfl rfl
theorem Encoding.iminS (w : WordA) : Encoding.Statement (.iminS w) :=
  Encoding.of_word rfl (WordA.toBits_parts _ w) rfl rfl
theorem Encoding.iminN (w : WordA) : Encoding.Statement (.iminN w) :=
  Encoding.of_word rfl (WordA.toBits_parts _ w) rfl rfl
theorem Encoding.imaxS (w : WordA) : Encoding.Statement (.imaxS w) :=
  Encoding.of_word rfl (WordA.toBits_parts _ w) rfl rfl
theorem Encoding.imaxN (w : WordA) : Encoding.Statement (.imaxN w) :=
  Encoding.of_word rfl (WordA.toBits_parts _ w) rfl rfl
theorem Encoding.iaddminS (w : WordA) : Encoding.Statement (.iaddminS w) :=
  Encoding.of_word rfl (WordA.toBits_parts _ w) rfl rfl
theorem Encoding.iaddsatS (w : WordA) : Encoding.Statement (.iaddsatS w) :=
  Encoding.of_word rfl (WordA.toBits_parts _ w) rfl rfl
theorem Encoding.isubsatS (w : WordA) : Encoding.Statement (.isubsatS w) :=
  Encoding.of_word rfl (WordA.toBits_parts _ w) rfl rfl
theorem Encoding.iaddmaxS (w : WordA) : Encoding.Statement (.iaddmaxS w) :=
  Encoding.of_word rfl (WordA.toBits_parts _ w) rfl rfl
theorem Encoding.iaddi (w : WordI) : Encoding.Statement (.iaddi w) :=
  Encoding.of_word rfl (WordI.toBits_parts _ w) rfl rfl
theorem Encoding.imuli (w : WordI) : Encoding.Statement (.imuli w) :=
  Encoding.of_word rfl (WordI.toBits_parts _ w) rfl rfl
theorem Encoding.andi (w : WordI) : Encoding.Statement (.andi w) :=
  Encoding.of_word rfl (WordI.toBits_parts _ w) rfl rfl
theorem Encoding.ori (w : WordI) : Encoding.Statement (.ori w) :=
  Encoding.of_word rfl (WordI.toBits_parts _ w) rfl rfl
theorem Encoding.xori (w : WordI) : Encoding.Statement (.xori w) :=
  Encoding.of_word rfl (WordI.toBits_parts _ w) rfl rfl
theorem Encoding.shli (w : WordI) : Encoding.Statement (.shli w) :=
  Encoding.of_word rfl (WordI.toBits_parts _ w) rfl rfl
theorem Encoding.shrli (w : WordI) : Encoding.Statement (.shrli w) :=
  Encoding.of_word rfl (WordI.toBits_parts _ w) rfl rfl
theorem Encoding.shrai (w : WordI) : Encoding.Statement (.shrai w) :=
  Encoding.of_word rfl (WordI.toBits_parts _ w) rfl rfl
theorem Encoding.movi (w : WordI) : Encoding.Statement (.movi w) :=
  Encoding.of_word rfl (WordI.toBits_parts _ w) rfl rfl
theorem Encoding.movhi (w : WordI) : Encoding.Statement (.movhi w) :=
  Encoding.of_word rfl (WordI.toBits_parts _ w) rfl rfl
theorem Encoding.ldk (w : WordI) : Encoding.Statement (.ldk w) :=
  Encoding.of_word rfl (WordI.toBits_parts _ w) rfl rfl
theorem Encoding.iadd64 (w : WordA) : Encoding.Statement (.iadd64 w) :=
  Encoding.of_word rfl (WordA.toBits_parts _ w) rfl rfl
theorem Encoding.isub64 (w : WordA) : Encoding.Statement (.isub64 w) :=
  Encoding.of_word rfl (WordA.toBits_parts _ w) rfl rfl
theorem Encoding.imadw (w : WordA) : Encoding.Statement (.imadw w) :=
  Encoding.of_word rfl (WordA.toBits_parts _ w) rfl rfl
theorem Encoding.icmpiS (w : WordC) : Encoding.Statement (.icmpiS w) :=
  Encoding.of_word rfl (WordC.toBits_parts _ w) rfl rfl
theorem Encoding.sel (w : WordA) : Encoding.Statement (.sel w) :=
  Encoding.of_word rfl (WordA.toBits_parts _ w) rfl rfl
theorem Encoding.and_ (w : WordA) : Encoding.Statement (.and_ w) :=
  Encoding.of_word rfl (WordA.toBits_parts _ w) rfl rfl
theorem Encoding.or_ (w : WordA) : Encoding.Statement (.or_ w) :=
  Encoding.of_word rfl (WordA.toBits_parts _ w) rfl rfl
theorem Encoding.xor (w : WordA) : Encoding.Statement (.xor w) :=
  Encoding.of_word rfl (WordA.toBits_parts _ w) rfl rfl
theorem Encoding.andn (w : WordA) : Encoding.Statement (.andn w) :=
  Encoding.of_word rfl (WordA.toBits_parts _ w) rfl rfl
theorem Encoding.not_ (w : WordA) : Encoding.Statement (.not_ w) :=
  Encoding.of_word rfl (WordA.toBits_parts _ w) rfl rfl
theorem Encoding.shl (w : WordA) : Encoding.Statement (.shl w) :=
  Encoding.of_word rfl (WordA.toBits_parts _ w) rfl rfl
theorem Encoding.shrl (w : WordA) : Encoding.Statement (.shrl w) :=
  Encoding.of_word rfl (WordA.toBits_parts _ w) rfl rfl
theorem Encoding.shra (w : WordA) : Encoding.Statement (.shra w) :=
  Encoding.of_word rfl (WordA.toBits_parts _ w) rfl rfl
theorem Encoding.rotl (w : WordA) : Encoding.Statement (.rotl w) :=
  Encoding.of_word rfl (WordA.toBits_parts _ w) rfl rfl
theorem Encoding.clz (w : WordA) : Encoding.Statement (.clz w) :=
  Encoding.of_word rfl (WordA.toBits_parts _ w) rfl rfl
theorem Encoding.ctz (w : WordA) : Encoding.Statement (.ctz w) :=
  Encoding.of_word rfl (WordA.toBits_parts _ w) rfl rfl
theorem Encoding.popc (w : WordA) : Encoding.Statement (.popc w) :=
  Encoding.of_word rfl (WordA.toBits_parts _ w) rfl rfl
theorem Encoding.brev (w : WordA) : Encoding.Statement (.brev w) :=
  Encoding.of_word rfl (WordA.toBits_parts _ w) rfl rfl
theorem Encoding.bfx (w : WordA) : Encoding.Statement (.bfx w) :=
  Encoding.of_word rfl (WordA.toBits_parts _ w) rfl rfl
theorem Encoding.bfi (w : WordA) : Encoding.Statement (.bfi w) :=
  Encoding.of_word rfl (WordA.toBits_parts _ w) rfl rfl
theorem Encoding.prmb (w : WordA) : Encoding.Statement (.prmb w) :=
  Encoding.of_word rfl (WordA.toBits_parts _ w) rfl rfl
theorem Encoding.icmpS (w : WordC) : Encoding.Statement (.icmpS w) :=
  Encoding.of_word rfl (WordC.toBits_parts _ w) rfl rfl
theorem Encoding.icmpN (w : WordC) : Encoding.Statement (.icmpN w) :=
  Encoding.of_word rfl (WordC.toBits_parts _ w) rfl rfl
theorem Encoding.fcmp (w : WordC) : Encoding.Statement (.fcmp w) :=
  Encoding.of_word rfl (WordC.toBits_parts _ w) rfl rfl
theorem Encoding.pset (w : WordC) : Encoding.Statement (.pset w) :=
  Encoding.of_word rfl (WordC.toBits_parts _ w) rfl rfl
theorem Encoding.pand (w : WordC) : Encoding.Statement (.pand w) :=
  Encoding.of_word rfl (WordC.toBits_parts _ w) rfl rfl
theorem Encoding.por (w : WordC) : Encoding.Statement (.por w) :=
  Encoding.of_word rfl (WordC.toBits_parts _ w) rfl rfl
theorem Encoding.pxor (w : WordC) : Encoding.Statement (.pxor w) :=
  Encoding.of_word rfl (WordC.toBits_parts _ w) rfl rfl
theorem Encoding.pmov (w : WordC) : Encoding.Statement (.pmov w) :=
  Encoding.of_word rfl (WordC.toBits_parts _ w) rfl rfl
theorem Encoding.voteAny (w : WordC) : Encoding.Statement (.voteAny w) :=
  Encoding.of_word rfl (WordC.toBits_parts _ w) rfl rfl
theorem Encoding.voteAll (w : WordC) : Encoding.Statement (.voteAll w) :=
  Encoding.of_word rfl (WordC.toBits_parts _ w) rfl rfl
theorem Encoding.ballot (w : WordA) : Encoding.Statement (.ballot w) :=
  Encoding.of_word rfl (WordA.toBits_parts _ w) rfl rfl
theorem Encoding.mov (w : WordA) : Encoding.Statement (.mov w) :=
  Encoding.of_word rfl (WordA.toBits_parts _ w) rfl rfl
theorem Encoding.movk (w : WordA) : Encoding.Statement (.movk w) :=
  Encoding.of_word rfl (WordA.toBits_parts _ w) rfl rfl
theorem Encoding.rdsr (w : WordI) : Encoding.Statement (.rdsr w) :=
  Encoding.of_word rfl (WordI.toBits_parts _ w) rfl rfl
theorem Encoding.wrsr (w : WordI) : Encoding.Statement (.wrsr w) :=
  Encoding.of_word rfl (WordI.toBits_parts _ w) rfl rfl
theorem Encoding.wid (w : WordI) : Encoding.Statement (.wid w) :=
  Encoding.of_word rfl (WordI.toBits_parts _ w) rfl rfl
theorem Encoding.shflIdx (w : WordA) : Encoding.Statement (.shflIdx w) :=
  Encoding.of_word rfl (WordA.toBits_parts _ w) rfl rfl
theorem Encoding.shflUp (w : WordA) : Encoding.Statement (.shflUp w) :=
  Encoding.of_word rfl (WordA.toBits_parts _ w) rfl rfl
theorem Encoding.shflDn (w : WordA) : Encoding.Statement (.shflDn w) :=
  Encoding.of_word rfl (WordA.toBits_parts _ w) rfl rfl
theorem Encoding.shflXor (w : WordA) : Encoding.Statement (.shflXor w) :=
  Encoding.of_word rfl (WordA.toBits_parts _ w) rfl rfl
theorem Encoding.bcast (w : WordA) : Encoding.Statement (.bcast w) :=
  Encoding.of_word rfl (WordA.toBits_parts _ w) rfl rfl
theorem Encoding.rdth (w : WordA) : Encoding.Statement (.rdth w) :=
  Encoding.of_word rfl (WordA.toBits_parts _ w) rfl rfl
theorem Encoding.wrth (w : WordA) : Encoding.Statement (.wrth w) :=
  Encoding.of_word rfl (WordA.toBits_parts _ w) rfl rfl
theorem Encoding.redaddS (w : WordA) : Encoding.Statement (.redaddS w) :=
  Encoding.of_word rfl (WordA.toBits_parts _ w) rfl rfl
theorem Encoding.redminS (w : WordA) : Encoding.Statement (.redminS w) :=
  Encoding.of_word rfl (WordA.toBits_parts _ w) rfl rfl
theorem Encoding.redmaxS (w : WordA) : Encoding.Statement (.redmaxS w) :=
  Encoding.of_word rfl (WordA.toBits_parts _ w) rfl rfl
theorem Encoding.redaddF32 (w : WordA) : Encoding.Statement (.redaddF32 w) :=
  Encoding.of_word rfl (WordA.toBits_parts _ w) rfl rfl
theorem Encoding.scanaddS (w : WordA) : Encoding.Statement (.scanaddS w) :=
  Encoding.of_word rfl (WordA.toBits_parts _ w) rfl rfl
theorem Encoding.scanaddF32 (w : WordA) : Encoding.Statement (.scanaddF32 w) :=
  Encoding.of_word rfl (WordA.toBits_parts _ w) rfl rfl
theorem Encoding.match_ (w : WordA) : Encoding.Statement (.match_ w) :=
  Encoding.of_word rfl (WordA.toBits_parts _ w) rfl rfl
theorem Encoding.elect (w : WordC) : Encoding.Statement (.elect w) :=
  Encoding.of_word rfl (WordC.toBits_parts _ w) rfl rfl
theorem Encoding.gsize (w : WordA) : Encoding.Statement (.gsize w) :=
  Encoding.of_word rfl (WordA.toBits_parts _ w) rfl rfl
theorem Encoding.fadd (w : WordA) : Encoding.Statement (.fadd w) :=
  Encoding.of_word rfl (WordA.toBits_parts _ w) rfl rfl
theorem Encoding.fsub (w : WordA) : Encoding.Statement (.fsub w) :=
  Encoding.of_word rfl (WordA.toBits_parts _ w) rfl rfl
theorem Encoding.fmul (w : WordA) : Encoding.Statement (.fmul w) :=
  Encoding.of_word rfl (WordA.toBits_parts _ w) rfl rfl
theorem Encoding.ffma (w : WordA) : Encoding.Statement (.ffma w) :=
  Encoding.of_word rfl (WordA.toBits_parts _ w) rfl rfl
theorem Encoding.fmin (w : WordA) : Encoding.Statement (.fmin w) :=
  Encoding.of_word rfl (WordA.toBits_parts _ w) rfl rfl
theorem Encoding.fmax (w : WordA) : Encoding.Statement (.fmax w) :=
  Encoding.of_word rfl (WordA.toBits_parts _ w) rfl rfl
theorem Encoding.fneg (w : WordA) : Encoding.Statement (.fneg w) :=
  Encoding.of_word rfl (WordA.toBits_parts _ w) rfl rfl
theorem Encoding.fabs (w : WordA) : Encoding.Statement (.fabs w) :=
  Encoding.of_word rfl (WordA.toBits_parts _ w) rfl rfl
theorem Encoding.frcp (w : WordA) : Encoding.Statement (.frcp w) :=
  Encoding.of_word rfl (WordA.toBits_parts _ w) rfl rfl
theorem Encoding.frsq (w : WordA) : Encoding.Statement (.frsq w) :=
  Encoding.of_word rfl (WordA.toBits_parts _ w) rfl rfl
theorem Encoding.fsqrt (w : WordA) : Encoding.Statement (.fsqrt w) :=
  Encoding.of_word rfl (WordA.toBits_parts _ w) rfl rfl
theorem Encoding.fexp2 (w : WordA) : Encoding.Statement (.fexp2 w) :=
  Encoding.of_word rfl (WordA.toBits_parts _ w) rfl rfl
theorem Encoding.flog2 (w : WordA) : Encoding.Statement (.flog2 w) :=
  Encoding.of_word rfl (WordA.toBits_parts _ w) rfl rfl
theorem Encoding.ftanh (w : WordA) : Encoding.Statement (.ftanh w) :=
  Encoding.of_word rfl (WordA.toBits_parts _ w) rfl rfl
theorem Encoding.fsig (w : WordA) : Encoding.Statement (.fsig w) :=
  Encoding.of_word rfl (WordA.toBits_parts _ w) rfl rfl
theorem Encoding.faddmin (w : WordA) : Encoding.Statement (.faddmin w) :=
  Encoding.of_word rfl (WordA.toBits_parts _ w) rfl rfl
theorem Encoding.haddBf (w : WordA) : Encoding.Statement (.haddBf w) :=
  Encoding.of_word rfl (WordA.toBits_parts _ w) rfl rfl
theorem Encoding.hmulBf (w : WordA) : Encoding.Statement (.hmulBf w) :=
  Encoding.of_word rfl (WordA.toBits_parts _ w) rfl rfl
theorem Encoding.hfmaBf (w : WordA) : Encoding.Statement (.hfmaBf w) :=
  Encoding.of_word rfl (WordA.toBits_parts _ w) rfl rfl
theorem Encoding.haddHf (w : WordA) : Encoding.Statement (.haddHf w) :=
  Encoding.of_word rfl (WordA.toBits_parts _ w) rfl rfl
theorem Encoding.hmulHf (w : WordA) : Encoding.Statement (.hmulHf w) :=
  Encoding.of_word rfl (WordA.toBits_parts _ w) rfl rfl
theorem Encoding.hfmaHf (w : WordA) : Encoding.Statement (.hfmaHf w) :=
  Encoding.of_word rfl (WordA.toBits_parts _ w) rfl rfl
theorem Encoding.hminBf (w : WordA) : Encoding.Statement (.hminBf w) :=
  Encoding.of_word rfl (WordA.toBits_parts _ w) rfl rfl
theorem Encoding.hmaxBf (w : WordA) : Encoding.Statement (.hmaxBf w) :=
  Encoding.of_word rfl (WordA.toBits_parts _ w) rfl rfl
theorem Encoding.hminHf (w : WordA) : Encoding.Statement (.hminHf w) :=
  Encoding.of_word rfl (WordA.toBits_parts _ w) rfl rfl
theorem Encoding.hmaxHf (w : WordA) : Encoding.Statement (.hmaxHf w) :=
  Encoding.of_word rfl (WordA.toBits_parts _ w) rfl rfl
theorem Encoding.hdotBf (w : WordA) : Encoding.Statement (.hdotBf w) :=
  Encoding.of_word rfl (WordA.toBits_parts _ w) rfl rfl
theorem Encoding.hdotHf (w : WordA) : Encoding.Statement (.hdotHf w) :=
  Encoding.of_word rfl (WordA.toBits_parts _ w) rfl rfl
theorem Encoding.mdot4 (w : WordA) : Encoding.Statement (.mdot4 w) :=
  Encoding.of_word rfl (WordA.toBits_parts _ w) rfl rfl
theorem Encoding.idot4S (w : WordA) : Encoding.Statement (.idot4S w) :=
  Encoding.of_word rfl (WordA.toBits_parts _ w) rfl rfl
theorem Encoding.idot8S (w : WordA) : Encoding.Statement (.idot8S w) :=
  Encoding.of_word rfl (WordA.toBits_parts _ w) rfl rfl
theorem Encoding.frnd (w : WordA) : Encoding.Statement (.frnd w) :=
  Encoding.of_word rfl (WordA.toBits_parts _ w) rfl rfl
theorem Encoding.cvtF32S32 (w : WordA) : Encoding.Statement (.cvtF32S32 w) :=
  Encoding.of_word rfl (WordA.toBits_parts _ w) rfl rfl
theorem Encoding.cvtS32F32 (w : WordA) : Encoding.Statement (.cvtS32F32 w) :=
  Encoding.of_word rfl (WordA.toBits_parts _ w) rfl rfl
theorem Encoding.cvtF32N32 (w : WordA) : Encoding.Statement (.cvtF32N32 w) :=
  Encoding.of_word rfl (WordA.toBits_parts _ w) rfl rfl
theorem Encoding.cvtN32F32 (w : WordA) : Encoding.Statement (.cvtN32F32 w) :=
  Encoding.of_word rfl (WordA.toBits_parts _ w) rfl rfl
theorem Encoding.cvtBfF32 (w : WordA) : Encoding.Statement (.cvtBfF32 w) :=
  Encoding.of_word rfl (WordA.toBits_parts _ w) rfl rfl
theorem Encoding.cvtF32Bf (w : WordA) : Encoding.Statement (.cvtF32Bf w) :=
  Encoding.of_word rfl (WordA.toBits_parts _ w) rfl rfl
theorem Encoding.cvtHfF32 (w : WordA) : Encoding.Statement (.cvtHfF32 w) :=
  Encoding.of_word rfl (WordA.toBits_parts _ w) rfl rfl
theorem Encoding.cvtF32Hf (w : WordA) : Encoding.Statement (.cvtF32Hf w) :=
  Encoding.of_word rfl (WordA.toBits_parts _ w) rfl rfl
theorem Encoding.cvtM8F32 (w : WordA) : Encoding.Statement (.cvtM8F32 w) :=
  Encoding.of_word rfl (WordA.toBits_parts _ w) rfl rfl
theorem Encoding.cvtF32M8 (w : WordA) : Encoding.Statement (.cvtF32M8 w) :=
  Encoding.of_word rfl (WordA.toBits_parts _ w) rfl rfl
theorem Encoding.cvtM4F32 (w : WordA) : Encoding.Statement (.cvtM4F32 w) :=
  Encoding.of_word rfl (WordA.toBits_parts _ w) rfl rfl
theorem Encoding.cvtF32M4 (w : WordA) : Encoding.Statement (.cvtF32M4 w) :=
  Encoding.of_word rfl (WordA.toBits_parts _ w) rfl rfl
theorem Encoding.cvtI8S32 (w : WordA) : Encoding.Statement (.cvtI8S32 w) :=
  Encoding.of_word rfl (WordA.toBits_parts _ w) rfl rfl
theorem Encoding.cvtI4S32 (w : WordA) : Encoding.Statement (.cvtI4S32 w) :=
  Encoding.of_word rfl (WordA.toBits_parts _ w) rfl rfl
theorem Encoding.setfmt (w : WordI) : Encoding.Statement (.setfmt w) :=
  Encoding.of_word rfl (WordI.toBits_parts _ w) rfl rfl
theorem Encoding.getfmt (w : WordA) : Encoding.Statement (.getfmt w) :=
  Encoding.of_word rfl (WordA.toBits_parts _ w) rfl rfl
theorem Encoding.open_ (w : WordO) : Encoding.Statement (.open_ w) :=
  Encoding.of_word rfl (WordO.toBits_parts _ w) rfl rfl
theorem Encoding.openW (w : WordO) : Encoding.Statement (.openW w) :=
  Encoding.of_word rfl (WordO.toBits_parts _ w) rfl rfl
theorem Encoding.recall (w : WordO) : Encoding.Statement (.recall w) :=
  Encoding.of_word rfl (WordO.toBits_parts _ w) rfl rfl
theorem Encoding.recallD (w : WordO) : Encoding.Statement (.recallD w) :=
  Encoding.of_word rfl (WordO.toBits_parts _ w) rfl rfl
theorem Encoding.ldB8s (w : WordM) : Encoding.Statement (.ldB8s w) :=
  Encoding.of_word rfl (WordM.toBits_parts _ w) rfl rfl
theorem Encoding.ldB8n (w : WordM) : Encoding.Statement (.ldB8n w) :=
  Encoding.of_word rfl (WordM.toBits_parts _ w) rfl rfl
theorem Encoding.ldH16s (w : WordM) : Encoding.Statement (.ldH16s w) :=
  Encoding.of_word rfl (WordM.toBits_parts _ w) rfl rfl
theorem Encoding.ldH16n (w : WordM) : Encoding.Statement (.ldH16n w) :=
  Encoding.of_word rfl (WordM.toBits_parts _ w) rfl rfl
theorem Encoding.ldW32 (w : WordM) : Encoding.Statement (.ldW32 w) :=
  Encoding.of_word rfl (WordM.toBits_parts _ w) rfl rfl
theorem Encoding.ldW64 (w : WordM) : Encoding.Statement (.ldW64 w) :=
  Encoding.of_word rfl (WordM.toBits_parts _ w) rfl rfl
theorem Encoding.ldW128 (w : WordM) : Encoding.Statement (.ldW128 w) :=
  Encoding.of_word rfl (WordM.toBits_parts _ w) rfl rfl
theorem Encoding.stB8 (w : WordM) : Encoding.Statement (.stB8 w) :=
  Encoding.of_word rfl (WordM.toBits_parts _ w) rfl rfl
theorem Encoding.stH16 (w : WordM) : Encoding.Statement (.stH16 w) :=
  Encoding.of_word rfl (WordM.toBits_parts _ w) rfl rfl
theorem Encoding.stW32 (w : WordM) : Encoding.Statement (.stW32 w) :=
  Encoding.of_word rfl (WordM.toBits_parts _ w) rfl rfl
theorem Encoding.stW64 (w : WordM) : Encoding.Statement (.stW64 w) :=
  Encoding.of_word rfl (WordM.toBits_parts _ w) rfl rfl
theorem Encoding.stW128 (w : WordM) : Encoding.Statement (.stW128 w) :=
  Encoding.of_word rfl (WordM.toBits_parts _ w) rfl rfl
theorem Encoding.spset (w : WordA) : Encoding.Statement (.spset w) :=
  Encoding.of_word rfl (WordA.toBits_parts _ w) rfl rfl
theorem Encoding.spnarrow (w : WordA) : Encoding.Statement (.spnarrow w) :=
  Encoding.of_word rfl (WordA.toBits_parts _ w) rfl rfl
theorem Encoding.spadv (w : WordA) : Encoding.Statement (.spadv w) :=
  Encoding.of_word rfl (WordA.toBits_parts _ w) rfl rfl
theorem Encoding.spget (w : WordA) : Encoding.Statement (.spget w) :=
  Encoding.of_word rfl (WordA.toBits_parts _ w) rfl rfl
theorem Encoding.spchk (w : WordA) : Encoding.Statement (.spchk w) :=
  Encoding.of_word rfl (WordA.toBits_parts _ w) rfl rfl
theorem Encoding.spsave (w : WordM) : Encoding.Statement (.spsave w) :=
  Encoding.of_word rfl (WordM.toBits_parts _ w) rfl rfl
theorem Encoding.spload (w : WordM) : Encoding.Statement (.spload w) :=
  Encoding.of_word rfl (WordM.toBits_parts _ w) rfl rfl
theorem Encoding.flushl (w : WordO) : Encoding.Statement (.flushl w) :=
  Encoding.of_word rfl (WordO.toBits_parts _ w) rfl rfl
theorem Encoding.lstat (w : WordM) : Encoding.Statement (.lstat w) :=
  Encoding.of_word rfl (WordM.toBits_parts _ w) rfl rfl
theorem Encoding.tagset (w : WordA) : Encoding.Statement (.tagset w) :=
  Encoding.of_word rfl (WordA.toBits_parts _ w) rfl rfl
theorem Encoding.tagget (w : WordA) : Encoding.Statement (.tagget w) :=
  Encoding.of_word rfl (WordA.toBits_parts _ w) rfl rfl
theorem Encoding.pref (w : WordO) : Encoding.Statement (.pref w) :=
  Encoding.of_word rfl (WordO.toBits_parts _ w) rfl rfl
theorem Encoding.grow (w : WordI) : Encoding.Statement (.grow w) :=
  Encoding.of_word rfl (WordI.toBits_parts _ w) rfl rfl
theorem Encoding.shrink (w : WordI) : Encoding.Statement (.shrink w) :=
  Encoding.of_word rfl (WordI.toBits_parts _ w) rfl rfl
theorem Encoding.lend (w : WordA) : Encoding.Statement (.lend w) :=
  Encoding.of_word rfl (WordA.toBits_parts _ w) rfl rfl
theorem Encoding.reclaim (w : WordA) : Encoding.Statement (.reclaim w) :=
  Encoding.of_word rfl (WordA.toBits_parts _ w) rfl rfl
theorem Encoding.aadd (w : WordM) : Encoding.Statement (.aadd w) :=
  Encoding.of_word rfl (WordM.toBits_parts _ w) rfl rfl
theorem Encoding.aadd64 (w : WordM) : Encoding.Statement (.aadd64 w) :=
  Encoding.of_word rfl (WordM.toBits_parts _ w) rfl rfl
theorem Encoding.afadd (w : WordM) : Encoding.Statement (.afadd w) :=
  Encoding.of_word rfl (WordM.toBits_parts _ w) rfl rfl
theorem Encoding.aminS (w : WordM) : Encoding.Statement (.aminS w) :=
  Encoding.of_word rfl (WordM.toBits_parts _ w) rfl rfl
theorem Encoding.amaxS (w : WordM) : Encoding.Statement (.amaxS w) :=
  Encoding.of_word rfl (WordM.toBits_parts _ w) rfl rfl
theorem Encoding.aminN (w : WordM) : Encoding.Statement (.aminN w) :=
  Encoding.of_word rfl (WordM.toBits_parts _ w) rfl rfl
theorem Encoding.amaxN (w : WordM) : Encoding.Statement (.amaxN w) :=
  Encoding.of_word rfl (WordM.toBits_parts _ w) rfl rfl
theorem Encoding.aand (w : WordM) : Encoding.Statement (.aand w) :=
  Encoding.of_word rfl (WordM.toBits_parts _ w) rfl rfl
theorem Encoding.aor (w : WordM) : Encoding.Statement (.aor w) :=
  Encoding.of_word rfl (WordM.toBits_parts _ w) rfl rfl
theorem Encoding.axor (w : WordM) : Encoding.Statement (.axor w) :=
  Encoding.of_word rfl (WordM.toBits_parts _ w) rfl rfl
theorem Encoding.axchg (w : WordM) : Encoding.Statement (.axchg w) :=
  Encoding.of_word rfl (WordM.toBits_parts _ w) rfl rfl
theorem Encoding.acas (w : WordM) : Encoding.Statement (.acas w) :=
  Encoding.of_word rfl (WordM.toBits_parts _ w) rfl rfl
theorem Encoding.acas64 (w : WordM) : Encoding.Statement (.acas64 w) :=
  Encoding.of_word rfl (WordM.toBits_parts _ w) rfl rfl
theorem Encoding.put (w : WordA) : Encoding.Statement (.put w) :=
  Encoding.of_word rfl (WordA.toBits_parts _ w) rfl rfl
theorem Encoding.putv (w : WordA) : Encoding.Statement (.putv w) :=
  Encoding.of_word rfl (WordA.toBits_parts _ w) rfl rfl
theorem Encoding.cwait (w : WordA) : Encoding.Statement (.cwait w) :=
  Encoding.of_word rfl (WordA.toBits_parts _ w) rfl rfl
theorem Encoding.copy (w : WordA) : Encoding.Statement (.copy w) :=
  Encoding.of_word rfl (WordA.toBits_parts _ w) rfl rfl
theorem Encoding.copyTr8 (w : WordA) : Encoding.Statement (.copyTr8 w) :=
  Encoding.of_word rfl (WordA.toBits_parts _ w) rfl rfl
theorem Encoding.copyTr16 (w : WordA) : Encoding.Statement (.copyTr16 w) :=
  Encoding.of_word rfl (WordA.toBits_parts _ w) rfl rfl
theorem Encoding.copyMc (w : WordA) : Encoding.Statement (.copyMc w) :=
  Encoding.of_word rfl (WordA.toBits_parts _ w) rfl rfl
theorem Encoding.drain (w : WordA) : Encoding.Statement (.drain w) :=
  Encoding.of_word rfl (WordA.toBits_parts _ w) rfl rfl
theorem Encoding.copyl (w : WordA) : Encoding.Statement (.copyl w) :=
  Encoding.of_word rfl (WordA.toBits_parts _ w) rfl rfl
theorem Encoding.seal (w : WordA) : Encoding.Statement (.seal w) :=
  Encoding.of_word rfl (WordA.toBits_parts _ w) rfl rfl
theorem Encoding.waitb (w : WordI) : Encoding.Statement (.waitb w) :=
  Encoding.of_word rfl (WordI.toBits_parts _ w) rfl rfl
theorem Encoding.wptr (w : WordI) : Encoding.Statement (.wptr w) :=
  Encoding.of_word rfl (WordI.toBits_parts _ w) rfl rfl
theorem Encoding.ringPush (w : WordI) : Encoding.Statement (.ringPush w) :=
  Encoding.of_word rfl (WordI.toBits_parts _ w) rfl rfl
theorem Encoding.ringPop (w : WordI) : Encoding.Statement (.ringPop w) :=
  Encoding.of_word rfl (WordI.toBits_parts _ w) rfl rfl
theorem Encoding.ringTry (w : WordI) : Encoding.Statement (.ringTry w) :=
  Encoding.of_word rfl (WordI.toBits_parts _ w) rfl rfl
theorem Encoding.ringAllow (w : WordI) : Encoding.Statement (.ringAllow w) :=
  Encoding.of_word rfl (WordI.toBits_parts _ w) rfl rfl
theorem Encoding.barArrive (w : WordI) : Encoding.Statement (.barArrive w) :=
  Encoding.of_word rfl (WordI.toBits_parts _ w) rfl rfl
theorem Encoding.barWait (w : WordI) : Encoding.Statement (.barWait w) :=
  Encoding.of_word rfl (WordI.toBits_parts _ w) rfl rfl
theorem Encoding.barExpect (w : WordI) : Encoding.Statement (.barExpect w) :=
  Encoding.of_word rfl (WordI.toBits_parts _ w) rfl rfl
theorem Encoding.mma (w : WordA) : Encoding.Statement (.mma w) :=
  Encoding.of_word rfl (WordA.toBits_parts _ w) rfl rfl
theorem Encoding.mmaSc (w : WordA) : Encoding.Statement (.mmaSc w) :=
  Encoding.of_word rfl (WordA.toBits_parts _ w) rfl rfl
theorem Encoding.mhad (w : WordA) : Encoding.Statement (.mhad w) :=
  Encoding.of_word rfl (WordA.toBits_parts _ w) rfl rfl
theorem Encoding.mqnt (w : WordA) : Encoding.Statement (.mqnt w) :=
  Encoding.of_word rfl (WordA.toBits_parts _ w) rfl rfl
theorem Encoding.mwait (w : WordI) : Encoding.Statement (.mwait w) :=
  Encoding.of_word rfl (WordI.toBits_parts _ w) rfl rfl
theorem Encoding.mrel (w : WordA) : Encoding.Statement (.mrel w) :=
  Encoding.of_word rfl (WordA.toBits_parts _ w) rfl rfl
theorem Encoding.accrd (w : WordA) : Encoding.Statement (.accrd w) :=
  Encoding.of_word rfl (WordA.toBits_parts _ w) rfl rfl
theorem Encoding.accwr (w : WordA) : Encoding.Statement (.accwr w) :=
  Encoding.of_word rfl (WordA.toBits_parts _ w) rfl rfl
theorem Encoding.accz (w : WordA) : Encoding.Statement (.accz w) :=
  Encoding.of_word rfl (WordA.toBits_parts _ w) rfl rfl
theorem Encoding.gang (w : WordA) : Encoding.Statement (.gang w) :=
  Encoding.of_word rfl (WordA.toBits_parts _ w) rfl rfl
theorem Encoding.mprog (w : WordA) : Encoding.Statement (.mprog w) :=
  Encoding.of_word rfl (WordA.toBits_parts _ w) rfl rfl
theorem Encoding.accst (w : WordA) : Encoding.Statement (.accst w) :=
  Encoding.of_word rfl (WordA.toBits_parts _ w) rfl rfl
theorem Encoding.fenceOpnd (w : WordA) : Encoding.Statement (.fenceOpnd w) :=
  Encoding.of_word rfl (WordA.toBits_parts _ w) rfl rfl
theorem Encoding.mstat (w : WordA) : Encoding.Statement (.mstat w) :=
  Encoding.of_word rfl (WordA.toBits_parts _ w) rfl rfl
theorem Encoding.accld (w : WordA) : Encoding.Statement (.accld w) :=
  Encoding.of_word rfl (WordA.toBits_parts _ w) rfl rfl
theorem Encoding.mcancel (w : WordA) : Encoding.Statement (.mcancel w) :=
  Encoding.of_word rfl (WordA.toBits_parts _ w) rfl rfl
theorem Encoding.acq (w : WordA) : Encoding.Statement (.acq w) :=
  Encoding.of_word rfl (WordA.toBits_parts _ w) rfl rfl
theorem Encoding.rel (w : WordA) : Encoding.Statement (.rel w) :=
  Encoding.of_word rfl (WordA.toBits_parts _ w) rfl rfl
theorem Encoding.bind (w : WordA) : Encoding.Statement (.bind w) :=
  Encoding.of_word rfl (WordA.toBits_parts _ w) rfl rfl
theorem Encoding.unbind (w : WordA) : Encoding.Statement (.unbind w) :=
  Encoding.of_word rfl (WordA.toBits_parts _ w) rfl rfl
theorem Encoding.fence (w : WordI) : Encoding.Statement (.fence w) :=
  Encoding.of_word rfl (WordI.toBits_parts _ w) rfl rfl
theorem Encoding.promise (w : WordA) : Encoding.Statement (.promise w) :=
  Encoding.of_word rfl (WordA.toBits_parts _ w) rfl rfl
theorem Encoding.heir (w : WordA) : Encoding.Statement (.heir w) :=
  Encoding.of_word rfl (WordA.toBits_parts _ w) rfl rfl
theorem Encoding.hold (w : WordA) : Encoding.Statement (.hold w) :=
  Encoding.of_word rfl (WordA.toBits_parts _ w) rfl rfl
theorem Encoding.relinq (w : WordA) : Encoding.Statement (.relinq w) :=
  Encoding.of_word rfl (WordA.toBits_parts _ w) rfl rfl
theorem Encoding.estat (w : WordA) : Encoding.Statement (.estat w) :=
  Encoding.of_word rfl (WordA.toBits_parts _ w) rfl rfl
theorem Encoding.waitw (w : WordA) : Encoding.Statement (.waitw w) :=
  Encoding.of_word rfl (WordA.toBits_parts _ w) rfl rfl
theorem Encoding.wake (w : WordA) : Encoding.Statement (.wake w) :=
  Encoding.of_word rfl (WordA.toBits_parts _ w) rfl rfl
theorem Encoding.enq (w : WordA) : Encoding.Statement (.enq w) :=
  Encoding.of_word rfl (WordA.toBits_parts _ w) rfl rfl
theorem Encoding.deq (w : WordA) : Encoding.Statement (.deq w) :=
  Encoding.of_word rfl (WordA.toBits_parts _ w) rfl rfl
theorem Encoding.tdone (w : WordA) : Encoding.Statement (.tdone w) :=
  Encoding.of_word rfl (WordA.toBits_parts _ w) rfl rfl
theorem Encoding.depadd (w : WordA) : Encoding.Statement (.depadd w) :=
  Encoding.of_word rfl (WordA.toBits_parts _ w) rfl rfl
theorem Encoding.mboxrd (w : WordA) : Encoding.Statement (.mboxrd w) :=
  Encoding.of_word rfl (WordA.toBits_parts _ w) rfl rfl
theorem Encoding.mboxwr (w : WordA) : Encoding.Statement (.mboxwr w) :=
  Encoding.of_word rfl (WordA.toBits_parts _ w) rfl rfl
theorem Encoding.rdg (w : WordA) : Encoding.Statement (.rdg w) :=
  Encoding.of_word rfl (WordA.toBits_parts _ w) rfl rfl
theorem Encoding.wrg (w : WordA) : Encoding.Statement (.wrg w) :=
  Encoding.of_word rfl (WordA.toBits_parts _ w) rfl rfl
theorem Encoding.gstop (w : WordA) : Encoding.Statement (.gstop w) :=
  Encoding.of_word rfl (WordA.toBits_parts _ w) rfl rfl
theorem Encoding.gresume (w : WordA) : Encoding.Statement (.gresume w) :=
  Encoding.of_word rfl (WordA.toBits_parts _ w) rfl rfl
theorem Encoding.gkill (w : WordA) : Encoding.Statement (.gkill w) :=
  Encoding.of_word rfl (WordA.toBits_parts _ w) rfl rfl
theorem Encoding.xlinv (w : WordA) : Encoding.Statement (.xlinv w) :=
  Encoding.of_word rfl (WordA.toBits_parts _ w) rfl rfl
theorem Encoding.fqpop (w : WordA) : Encoding.Statement (.fqpop w) :=
  Encoding.of_word rfl (WordA.toBits_parts _ w) rfl rfl
theorem Encoding.fqreplay (w : WordA) : Encoding.Statement (.fqreplay w) :=
  Encoding.of_word rfl (WordA.toBits_parts _ w) rfl rfl
theorem Encoding.cycles (w : WordA) : Encoding.Statement (.cycles w) :=
  Encoding.of_word rfl (WordA.toBits_parts _ w) rfl rfl
theorem Encoding.brk (w : WordI) : Encoding.Statement (.brk w) :=
  Encoding.of_word rfl (WordI.toBits_parts _ w) rfl rfl
theorem Encoding.perfrd (w : WordA) : Encoding.Statement (.perfrd w) :=
  Encoding.of_word rfl (WordA.toBits_parts _ w) rfl rfl
theorem Encoding.sigrd (w : WordA) : Encoding.Statement (.sigrd w) :=
  Encoding.of_word rfl (WordA.toBits_parts _ w) rfl rfl
theorem Encoding.harvest (w : WordA) : Encoding.Statement (.harvest w) :=
  Encoding.of_word rfl (WordA.toBits_parts _ w) rfl rfl
theorem Encoding.ctxsw (w : WordA) : Encoding.Statement (.ctxsw w) :=
  Encoding.of_word rfl (WordA.toBits_parts _ w) rfl rfl
theorem Encoding.movCompact (w : WordH) : Encoding.Statement (.movCompact w) := WordH.toBits_size _ w
theorem Encoding.iaddCompact (w : WordH) : Encoding.Statement (.iaddCompact w) := WordH.toBits_size _ w
theorem Encoding.isubCompact (w : WordH) : Encoding.Statement (.isubCompact w) := WordH.toBits_size _ w
theorem Encoding.imulCompact (w : WordH) : Encoding.Statement (.imulCompact w) := WordH.toBits_size _ w
theorem Encoding.andCompact (w : WordH) : Encoding.Statement (.andCompact w) := WordH.toBits_size _ w
theorem Encoding.orCompact (w : WordH) : Encoding.Statement (.orCompact w) := WordH.toBits_size _ w
theorem Encoding.xorCompact (w : WordH) : Encoding.Statement (.xorCompact w) := WordH.toBits_size _ w
theorem Encoding.shlCompact (w : WordH) : Encoding.Statement (.shlCompact w) := WordH.toBits_size _ w
theorem Encoding.shrlCompact (w : WordH) : Encoding.Statement (.shrlCompact w) := WordH.toBits_size _ w
theorem Encoding.shraCompact (w : WordH) : Encoding.Statement (.shraCompact w) := WordH.toBits_size _ w
theorem Encoding.iminSCompact (w : WordH) : Encoding.Statement (.iminSCompact w) := WordH.toBits_size _ w
theorem Encoding.imaxSCompact (w : WordH) : Encoding.Statement (.imaxSCompact w) := WordH.toBits_size _ w
theorem Encoding.faddCompact (w : WordH) : Encoding.Statement (.faddCompact w) := WordH.toBits_size _ w
theorem Encoding.fsubCompact (w : WordH) : Encoding.Statement (.fsubCompact w) := WordH.toBits_size _ w
theorem Encoding.fmulCompact (w : WordH) : Encoding.Statement (.fmulCompact w) := WordH.toBits_size _ w
theorem Encoding.fmaxCompact (w : WordH) : Encoding.Statement (.fmaxCompact w) := WordH.toBits_size _ w
theorem Encoding.dictionaryForm (w : WordD) : Encoding.Statement (.dictionaryForm w) := WordD.toBits_size w
theorem Encoding.resultWrite (n : Nat) : Encoding.Statement (.resultWrite n) := rfl
theorem Encoding.runArbitration (core lane : Nat) : Encoding.Statement (.runArbitration core lane) := rfl
theorem Encoding.fetchComplete (n : Nat) : Encoding.Statement (.fetchComplete n) := rfl
theorem Encoding.speculativeFetch (core ctx : Nat) (va : Va) (tag : BitVec 4) :
    Encoding.Statement (.speculativeFetch core ctx va tag) := rfl
theorem Encoding.staleNotice (n : Nat) : Encoding.Statement (.staleNotice n) := rfl
theorem Encoding.writeBack (n : Nat) : Encoding.Statement (.writeBack n) := rfl
theorem Encoding.writeBackAck (n : Nat) : Encoding.Statement (.writeBackAck n) := rfl
theorem Encoding.atomicRequest (n : Nat) : Encoding.Statement (.atomicRequest n) := rfl
theorem Encoding.putData (n : Nat) : Encoding.Statement (.putData n) := rfl
theorem Encoding.counterAdd (n : Nat) : Encoding.Statement (.counterAdd n) := rfl
theorem Encoding.objectStep (n : Nat) : Encoding.Statement (.objectStep n) := rfl
theorem Encoding.ringOpAtHub (n : Nat) : Encoding.Statement (.ringOpAtHub n) := rfl
theorem Encoding.barrierOpAtHub (n : Nat) : Encoding.Statement (.barrierOpAtHub n) := rfl
theorem Encoding.taskOpAtHub (n : Nat) : Encoding.Statement (.taskOpAtHub n) := rfl
theorem Encoding.waiterArrival (n : Nat) : Encoding.Statement (.waiterArrival n) := rfl
theorem Encoding.entryStart (core chan : Nat) : Encoding.Statement (.entryStart core chan) := rfl
theorem Encoding.copyDelivery (core chan : Nat) : Encoding.Statement (.copyDelivery core chan) := rfl
theorem Encoding.copyDone (core chan : Nat) : Encoding.Statement (.copyDone core chan) := rfl
theorem Encoding.kBlock (core : Nat) : Encoding.Statement (.kBlock core) := rfl
theorem Encoding.operationDone (core : Nat) : Encoding.Statement (.operationDone core) := rfl
theorem Encoding.placement : Encoding.Statement .placement := rfl
theorem Encoding.parkComplete (core slot : Nat) : Encoding.Statement (.parkComplete core slot) := rfl
theorem Encoding.unparkComplete (core slot : Nat) : Encoding.Statement (.unparkComplete core slot) := rfl
theorem Encoding.contextSaveComplete (core : Nat) : Encoding.Statement (.contextSaveComplete core) := rfl
theorem Encoding.implicitRelease (core slot : Nat) : Encoding.Statement (.implicitRelease core slot) := rfl
theorem Encoding.conveyance (core slot : Nat) : Encoding.Statement (.conveyance core slot) := rfl
theorem Encoding.launchComplete (launch : Nat) : Encoding.Statement (.launchComplete launch) := rfl
theorem Encoding.intervalStart (core interval : Nat) : Encoding.Statement (.intervalStart core interval) := rfl
theorem Encoding.cwaitPoll (core slot : Nat) : Encoding.Statement (.cwaitPoll core slot) := rfl
theorem Encoding.duplexTimeout (core slot : Nat) : Encoding.Statement (.duplexTimeout core slot) := rfl
theorem Encoding.retransmit (n : Nat) : Encoding.Statement (.retransmit n) := rfl
theorem Encoding.telemetryRefresh (dieTemp diePower stackTemp : List Nat) :
    Encoding.Statement (.telemetryRefresh dieTemp diePower stackTemp) := rfl
theorem Encoding.create (ctx : Nat) : Encoding.Statement (.create ctx) := rfl
theorem Encoding.suspend (ctx : Nat) : Encoding.Statement (.suspend ctx) := rfl
theorem Encoding.resume (ctx : Nat) : Encoding.Statement (.resume ctx) := rfl
theorem Encoding.teardown (ctx : Nat) : Encoding.Statement (.teardown ctx) := rfl
theorem Encoding.remap (ctx logical phys : Nat) : Encoding.Statement (.remap ctx logical phys) := rfl
theorem Encoding.setp (die level : Nat) : Encoding.Statement (.setp die level) := rfl
theorem Encoding.gate (cluster : Nat) (off : Bool) : Encoding.Statement (.gate cluster off) := rfl
theorem Encoding.light (plane : Nat) : Encoding.Statement (.light plane) := rfl
theorem Encoding.dark (plane : Nat) : Encoding.Statement (.dark plane) := rfl
theorem Encoding.planeDark (plane : Nat) : Encoding.Statement (.planeDark plane) := rfl
theorem Encoding.refresh (stack mode : Nat) : Encoding.Statement (.refresh stack mode) := rfl
theorem Encoding.tripset (temp : Nat) : Encoding.Statement (.tripset temp) := rfl
theorem Encoding.tripResume : Encoding.Statement .tripResume := rfl
theorem Encoding.thermalTrip (sensor temp : Nat) : Encoding.Statement (.thermalTrip sensor temp) := rfl
theorem Encoding.detach : Encoding.Statement .detach := rfl
theorem Encoding.commit : Encoding.Statement .commit := rfl
theorem Encoding.linkFailure : Encoding.Statement .linkFailure := rfl
theorem Encoding.linkUp : Encoding.Statement .linkUp := rfl
theorem Encoding.inspectionReset : Encoding.Statement .inspectionReset := rfl
theorem Encoding.coreReset (core : Nat) : Encoding.Statement (.coreReset core) := rfl
theorem Encoding.powerOn (signatureOk : Bool) : Encoding.Statement (.powerOn signatureOk) := rfl
theorem Encoding.firmwareUpdate (version : Nat) : Encoding.Statement (.firmwareUpdate version) := rfl
theorem Encoding.attestation (nonce : BitVec 256) : Encoding.Statement (.attestation nonce) := rfl
theorem Encoding.inFieldTest (cluster kind : Nat) : Encoding.Statement (.inFieldTest cluster kind) := rfl
theorem Encoding.testAbort (cluster : Nat) : Encoding.Statement (.testAbort cluster) := rfl
theorem Encoding.testReport (cluster : Nat) (pass : BitVec 8) : Encoding.Statement (.testReport cluster pass) := rfl
theorem Encoding.migrate (old new : Nat) : Encoding.Statement (.migrate old new) := rfl
theorem Encoding.migrateDone : Encoding.Statement .migrateDone := rfl
theorem Encoding.migrateBusy : Encoding.Statement .migrateBusy := rfl
theorem Encoding.hostXlinv (ctx : Nat) (start : Va) (pages : Nat) : Encoding.Statement (.hostXlinv ctx start pages) := rfl
theorem Encoding.hostWake (va : Va) (ctx : Nat) : Encoding.Statement (.hostWake va ctx) := rfl
theorem Encoding.hostRegistration (va : Va) (ctx line : Nat) (expected : Word) :
    Encoding.Statement (.hostRegistration va ctx line expected) := rfl
theorem Encoding.bindingEnable (index : Nat) (qcb : Va) (ctx : Nat) (en keep : Bool) :
    Encoding.Statement (.bindingEnable index qcb ctx en keep) := rfl
theorem Encoding.inject (value : BitVec 64) : Encoding.Statement (.inject value) := rfl
theorem Encoding.hostRead (window addr size : Nat) : Encoding.Statement (.hostRead window addr size) := rfl
theorem Encoding.hostWrite (window addr : Nat) (data : List Byte) : Encoding.Statement (.hostWrite window addr data) := rfl
theorem Encoding.geloloPortFailure (port : Nat) : Encoding.Statement (.geloloPortFailure port) := rfl
theorem Encoding.peerRequest (src : Nat) (addr : Nat) (tag : BitVec 4) (data : Option (List Byte)) (size : Nat) :
    Encoding.Statement (.peerRequest src addr tag data size) := rfl
theorem Encoding.peerAtomic (src : Nat) (rid : Word) (op : BitVec 4) (addr : Nat) (tag : BitVec 4) (size : Nat) (operand expected : Dword) :
    Encoding.Statement (.peerAtomic src rid op addr tag size operand expected) := rfl
theorem Encoding.acknowledgement (slice src : Nat) (rid : Word) : Encoding.Statement (.acknowledgement slice src rid) := rfl
theorem Encoding.newEpoch (dev : Nat) : Encoding.Statement (.newEpoch dev) := rfl
theorem Encoding.reductionResult (n : Nat) (merge : List (Option Nat)) : Encoding.Statement (.reductionResult n merge) := rfl
theorem Encoding.mmioWrite (off size : Nat) (value : Dword) : Encoding.Statement (.mmioWrite off size value) := rfl
theorem Encoding.hostFunctionClear : Encoding.Statement .hostFunctionClear := rfl
theorem Encoding.faultQueueHeadWrite (ctx : Nat) (head : Word) : Encoding.Statement (.faultQueueHeadWrite ctx head) := rfl
theorem Encoding.geloloPortTrain (port : Nat) : Encoding.Statement (.geloloPortTrain port) := rfl
theorem Encoding.reductionWindowStateWrite (entry : Nat) : Encoding.Statement (.reductionWindowStateWrite entry) := rfl

end Sys2Proof.Laws
end

