-- ==== Sys2Proof/Tests/Slice0.lean ====
section
/-! SUPPORT. The model's own tests: words written out in the spec decode to the instructions they stand for, each ILLEGAL check
refuses a term, and single steps give what the spec's worked examples give. -/

namespace Sys2Proof.Tests

open Sys2Proof Sys2Proof.Machine

set_option Elab.async false

/-! ### Words of the encoding tables of 09, 10 and 11, of R193, of R201 and of the listings of 17 to 21 -/

theorem test_word_pushm_p0 : decodeTableWord 32 0x00000031 =
    some (.pushm { b := 0, a := 0, cc := 0, p := 0, g := 0, u := false, e := false }) := by rfl
theorem test_word_pushm_p1 : decodeTableWord 32 0x00004031 =
    some (.pushm { b := 0, a := 0, cc := 0, p := 1, g := 0, u := false, e := false }) := by rfl
theorem test_word_pushm_not_p1 : decodeTableWord 32 0x00024031 =
    some (.pushm { b := 0, a := 0, cc := 1, p := 1, g := 0, u := false, e := false }) := by rfl
theorem test_word_safept : decodeTableWord 32 0x0023C053 =
    some (.safept { off := 0x8f, g := 0, u := false, e := true }) := by rfl
theorem test_word_icmpi : decodeTableWord 32 0xEC344171 =
    some (.icmpiS { b := 59, a := 3, cc := 2, p := 1, g := 0, u := false, e := false }) := by rfl
theorem test_word_icmp : decodeTableWord 32 0xBC164201 =
    some (.icmpS { b := 47, a := 1, cc := 3, p := 1, g := 0, u := false, e := false }) := by rfl
theorem test_word_iaddi : decodeTableWord 32 0xFFF04101 =
    some (.iaddi { imm := 0xfff, d := 1, g := 0, u := false, e := false }) := by rfl
theorem test_word_redadd : decodeTableWord 32 0x002182D1 =
    some (.redaddF32 { b := 0, a := 2, d := 6, g := 0, u := false, e := false }) := by rfl
theorem test_word_scanadd : decodeTableWord 32 0x0021C2E1 =
    some (.scanaddF32 { b := 0, a := 2, d := 7, g := 0, u := false, e := false }) := by rfl
theorem test_word_cvt : decodeTableWord 32 0x0C508449 =
    some (.cvtF32M8 { b := 3, a := 5, d := 2, g := 0, u := false, e := false }) := by rfl
theorem test_word_brany : decodeTableWord 32 0xFFFE8013 =
    some (.brany { off := 0x3fffa, g := 0, u := false, e := true }) := by rfl
theorem test_word_breakm : decodeTableWord 32 0x00004049 =
    some (.breakm { b := 0, a := 0, cc := 0, p := 1, g := 0, u := false, e := false }) := by rfl
theorem test_word_popm : decodeTableWord 32 0x00000043 =
    some (.popm { b := 0, a := 0, d := 0, g := 0, u := false, e := true }) := by rfl
theorem test_word_open : decodeTableWord 32 0x1414C481 =
    some (.open_ { b := 5, x := 0, sp := 1, p := 2, l := 3, g := 0, u := false, e := false }) := by rfl
theorem test_word_open_w : decodeTableWord 32 0x20264489 =
    some (.openW { b := 8, x := 0, sp := 2, p := 3, l := 1, g := 0, u := false, e := false }) := by rfl
theorem test_word_recall : decodeTableWord 32 0x0000C491 =
    some (.recall { b := 0, x := 0, sp := 0, p := 0, l := 3, g := 0, u := false, e := false }) := by rfl
theorem test_word_st_w32 : decodeTableWord 32 0x833244E9 =
    some (.stW32 { s := 4, o := 6, l := 3, d := 9, g := 0, u := false, e := false }) := by rfl
theorem test_word_lstat : decodeTableWord 32 0x00310541 =
    some (.lstat { s := 0, o := 0, l := 3, d := 4, g := 0, u := false, e := false }) := by rfl
theorem test_word_grow : decodeTableWord 32 0x020C8563 =
    some (.grow { imm := 32, d := 50, g := 0, u := false, e := true }) := by rfl
theorem test_word_aadd : decodeTableWord 32 0x43210581 =
    some (.aadd { s := 2, o := 6, l := 2, d := 4, g := 0, u := false, e := false }) := by rfl
theorem test_word_acas : decodeTableWord 32 0x032105D9 =
    some (.acas { s := 0, o := 6, l := 2, d := 4, g := 0, u := false, e := false }) := by rfl
theorem test_word_put : decodeTableWord 32 0x038005E9 =
    some (.put { b := 0, a := 56, d := 0, g := 0, u := false, e := false }) := by rfl
theorem test_word_putv : decodeTableWord 32 0x038305F1 =
    some (.putv { b := 0, a := 56, d := 12, g := 0, u := false, e := false }) := by rfl
theorem test_word_cwait : decodeTableWord 32 0x034005FB =
    some (.cwait { b := 0, a := 52, d := 0, g := 0, u := false, e := true }) := by rfl
theorem test_word_copy : decodeTableWord 32 0x038C4601 =
    some (.copy { b := 0, a := 56, d := 49, g := 0, u := false, e := false }) := by rfl
theorem test_word_seal : decodeTableWord 32 0x00000631 =
    some (.seal { b := 0, a := 0, d := 0, g := 0, u := false, e := false }) := by rfl
theorem test_word_waitb : decodeTableWord 32 0x0010063B =
    some (.waitb { imm := 1, d := 0, g := 0, u := false, e := true }) := by rfl
theorem test_word_wptr : decodeTableWord 32 0x00328641 =
    some (.wptr { imm := 3, d := 10, g := 0, u := false, e := false }) := by rfl
theorem test_word_ring_push : decodeTableWord 32 0x352D064B =
    some (.ringPush { imm := 0x352, d := 52, g := 0, u := false, e := true }) := by rfl
theorem test_word_ring_pop : decodeTableWord 32 0x3520C653 =
    some (.ringPop { imm := 0x352, d := 3, g := 0, u := false, e := true }) := by rfl
theorem test_word_ring_allow : decodeTableWord 32 0x2F2D8661 =
    some (.ringAllow { imm := 0x2f2, d := 54, g := 0, u := false, e := false }) := by rfl
theorem test_word_bar_wait : decodeTableWord 32 0x35100673 =
    some (.barWait { imm := 0x351, d := 0, g := 0, u := false, e := true }) := by rfl
theorem test_word_bar_expect : decodeTableWord 32 0x2F1CC679 =
    some (.barExpect { imm := 0x2f1, d := 51, g := 0, u := false, e := false }) := by rfl
theorem test_word_gang : decodeTableWord 32 0x038C86C9 =
    some (.gang { b := 0, a := 56, d := 50, g := 0, u := false, e := false }) := by rfl
theorem test_word_mma_sc : decodeTableWord 32 0xCB8C4689 =
    some (.mmaSc { b := 50, a := 56, d := 49, g := 0, u := false, e := false }) := by rfl
theorem test_word_mwait : decodeTableWord 32 0x000006A3 =
    some (.mwait { imm := 0, d := 0, g := 0, u := false, e := true }) := by rfl
theorem test_word_mrel : decodeTableWord 32 0x031C86A9 =
    some (.mrel { b := 0, a := 49, d := 50, g := 0, u := false, e := false }) := by rfl
theorem test_word_accrd : decodeTableWord 32 0x034206B1 =
    some (.accrd { b := 0, a := 52, d := 8, g := 0, u := false, e := false }) := by rfl
theorem test_word_fence_opnd : decodeTableWord 32 0x000006E1 =
    some (.fenceOpnd { b := 0, a := 0, d := 0, g := 0, u := false, e := false }) := by rfl
theorem test_word_acq : decodeTableWord 32 0x034CC701 =
    some (.acq { b := 0, a := 52, d := 51, g := 0, u := false, e := false }) := by rfl
theorem test_word_rel : decodeTableWord 32 0x034CC709 =
    some (.rel { b := 0, a := 52, d := 51, g := 0, u := false, e := false }) := by rfl
theorem test_word_fence : decodeTableWord 32 0x003CC721 =
    some (.fence { imm := 3, d := 51, g := 0, u := false, e := false }) := by rfl
theorem test_word_heir : decodeTableWord 32 0x038C8731 =
    some (.heir { b := 0, a := 56, d := 50, g := 0, u := false, e := false }) := by rfl
theorem test_word_waitw : decodeTableWord 32 0xDB4C8753 =
    some (.waitw { b := 54, a := 52, d := 50, g := 0, u := false, e := true }) := by rfl
theorem test_word_deq : decodeTableWord 32 0xCB4C4769 =
    some (.deq { b := 50, a := 52, d := 49, g := 0, u := false, e := false }) := by rfl
theorem test_word_tdone : decodeTableWord 32 0x031C8771 =
    some (.tdone { b := 0, a := 49, d := 50, g := 0, u := false, e := false }) := by rfl
theorem test_word_mboxrd : decodeTableWord 32 0x00000781 =
    some (.mboxrd { b := 0, a := 0, d := 0, g := 0, u := false, e := false }) := by rfl
theorem test_word_gkill : decodeTableWord 32 0x034C87B1 =
    some (.gkill { b := 0, a := 52, d := 50, g := 0, u := false, e := false }) := by rfl
theorem test_word_cycles : decodeTableWord 32 0x000C87D1 =
    some (.cycles { b := 0, a := 0, d := 50, g := 0, u := false, e := false }) := by rfl
theorem test_word_brk : decodeTableWord 32 0x005007D9 =
    some (.brk { imm := 5, d := 0, g := 0, u := false, e := false }) := by rfl
theorem test_word_iadd : decodeTableWord 32 0xCC208081 =
    some (.iadd { b := 51, a := 2, d := 2, g := 0, u := false, e := false }) := by rfl
theorem test_word_xor : decodeTableWord 32 0xC8108191 =
    some (.xor { b := 50, a := 1, d := 2, g := 0, u := false, e := false }) := by rfl
theorem test_word_mov_uniform : decodeTableWord 32 0x031C825D =
    some (.mov { b := 0, a := 49, d := 50, g := 0, u := true, e := false }) := by rfl
theorem test_word_shfl_idx : decodeTableWord 32 0x20224281 =
    some (.shflIdx { b := 8, a := 2, d := 9, g := 0, u := false, e := false }) := by rfl
theorem test_word_ld_w32_guarded : decodeTableWord 32 0x17808CC1 =
    some (.ldW32 { s := 0, o := 47, l := 0, d := 2, g := 1, u := false, e := false }) := by rfl
theorem test_word_bra_not_p1 : decodeTableWord 32 0x0002F00B =
    some (.bra { off := 11, g := 6, u := false, e := true }) := by rfl

-- 16-bit forms: R193 and the listing of 18.
theorem test_half_mov : decode [0x00, 0x53] = .ok (.movCompact { sb := 5, d := 6, e := false }, 2) := by rfl
theorem test_half_iadd : decode [0x08, 0x92] = .ok (.iaddCompact { sb := 9, d := 4, e := false }, 2) := by rfl
theorem test_half_dictionary : decode [0x2E, 0x00] = .ok (.dictionaryForm { go := 0, idx := 5, e := true }, 2) := by rfl
theorem test_encode_iaddi : encode (.iaddi { imm := 1, d := 49, g := 0, u := true, e := true }) = [0x07, 0x41, 0x1C, 0x00] := by rfl

/-! ### Ill-formed words, one for each check (R192, R193's table) -/

/-- What the check says of the instruction of a word. -/
noncomputable def checkWord (w : Nat) : Option IllFormed := (decodeTableWord 32 w).bind Instr.check

theorem test_illformed_guard : checkWord 0x00002001 = some .reservedGuard := by rfl
theorem test_illformed_field : checkWord 0x0000F001 = some .fieldNotZero := by rfl
theorem test_illformed_uniform : checkWord 0x00000005 = some .uniform := by rfl
theorem test_illformed_uniform_v : checkWord 0x00100107 = some .uniform := by rfl
theorem test_illformed_boundary : checkWord 0x00078009 = some .boundary := by rfl
theorem test_wellformed_isubsat : checkWord 0x000000F1 = none := by rfl
theorem test_wellformed_iaddi : checkWord 0x001C4107 = none := by rfl
/-- SHLI with a count of 32 (R209). -/
theorem test_illformed_count : (Instr.shli { imm := 32, d := 0, g := 0, u := false, e := false }).check = some .outOfRange := by rfl
/-- CALL must not be guarded (R199). -/
theorem test_illformed_guarded : (Instr.call { off := 0, g := 1, u := false, e := true }).check = some .guarded := by rfl
/-- PMOV to p0 (R56). -/
theorem test_illformed_predicate :
    (Instr.pmov { b := 0, a := 9, cc := 0, p := 0, g := 0, u := false, e := false }).check = some .predicate := by rfl
/-- IADD64 with an odd pair (R53). -/
theorem test_illformed_pair :
    (Instr.iadd64 { b := 2, a := 2, d := 3, g := 0, u := false, e := false }).check = some .operand := by rfl
theorem test_wellformed_pair : WellFormed (.iadd64 { b := 2, a := 2, d := 44, g := 0, u := false, e := false }) := by
  unfold WellFormed; rfl

/-! ### Witnesses: for every statement with hypotheses, states and operands that meet them -/

/-- A group of context 0 with all its registers, resident in slot 0 of core 0. -/
def grp : Group := { uid := 1, id := { ctx := 0 }, valloc := 47, pc := 0x1000, state := .issuing }

/-- A core whose lane 0 is held by this group in slot 0. -/
def coreOf (g : Group) : Core := { groups := [(0, g)], lanes := [(0, { issuing := some 0 })] }

/-- The machine with that core alone and a LIVE context 0. -/
def machOf (c : Core) : Mach := { cores := [(0, c)], ctxs := [(0, { state := .live })] }

/-- The state in which this machine's lane 0 of core 0 is next. -/
def stateOf (m : Mach) : State := { turns := [], curCore := 0, curLane := 0, mach := m, dev := {} }

/-- The state in which this group issues. -/
def issuing (g : Group) : State := stateOf (machOf (coreOf g))

/-- The supervisor group of core 0, and the state in which it issues. -/
def sup : Group := Group.supervisor

/-- Words whose fields are v0, v1 and v46, the last register of the allocation. -/
def wa : WordA := { b := 0, a := 1, d := 46, g := 0, u := false, e := false }
def wi : WordI := { imm := 31, d := 46, g := 0, u := false, e := false }
def wm : WordM := { s := 0, o := 47, l := 7, d := 46, g := 0, u := false, e := false }
def wc : WordC := { b := 0, a := 1, cc := 0, p := 7, g := 0, u := false, e := false }

theorem witness_StepRunsDecoded_lane : ∃ g m bs i n, State.reset.turns = [] ∧ State.reset.intervalDue State.reset.curCore = false ∧
    State.reset.laneReady = true ∧ State.reset.demand.issuer = some (1280, g) ∧
    State.reset.demand.mach.fetchAt State.reset.curCore g g.pc = (m, .bytes bs) ∧ decode bs = .ok (i, n) :=
  ⟨Group.supervisor, _, _, _, _, rfl, rfl, rfl, rfl, rfl, rfl⟩

theorem witness_StepRunsDecoded_turn : ∃ g m bs i n, ({ State.reset with curCore := 255 } : State).issues = true ∧
    ({ State.reset with curCore := 255 } : State).demand.issuer = some (1280, g) ∧
    ({ State.reset with curCore := 255 } : State).demand.mach.fetchAt 255 g g.pc = (m, .bytes bs) ∧ decode bs = .ok (i, n) :=
  ⟨Group.supervisor, _, _, _, _, rfl, rfl, rfl, rfl⟩

theorem witness_DecodeEncode : encode (.nop wa) ≠ [] := by decide
theorem witness_EncodeDecode : (0xFF : Byte).getLsbD 0 = true ∧ (0xFE : Byte).getLsbD 0 = false := by decide

/-- NOP with D = 3 is ILLEGAL (R193); FADD of a register tagged S32 is a FORMAT fault (R180). -/
theorem witness_WordFaultTaken : (Instr.nop { wa with d := 3 }).fields? = some (fieldsA 0 { wa with d := 3 }) ∧
    (issuing grp).issuer = some (0, grp) ∧ grp.id.sup = false ∧ wordFault grp (fieldsA 0 { wa with d := 3 }) = some .illegal :=
  ⟨rfl, rfl, rfl, by decide +kernel⟩
theorem witness_WordFaultTaken_format : let g : Group := { grp with vtag := [(1, 1)] }
    (Instr.fadd wa).fields? = some (fieldsA 0x60 wa) ∧ (issuing g).issuer = some (0, g) ∧ wordFault g (fieldsA 0x60 wa) = none ∧
    stalls g (fieldsA 0x60 wa) = false ∧ formatFault g (fieldsA 0x60 wa) = true := by decide +kernel

/-- v46 is pending. -/
def pending : Group := { grp with sb := 1#96 <<< 46 }
theorem witness_PendingResultHolds : (Instr.iadd wa).fields? = some (fieldsA 0x10 wa) ∧
    (issuing pending).issuer = some (0, pending) ∧ wordFault pending (fieldsA 0x10 wa) = none ∧
    stalls pending (fieldsA 0x10 wa) = true ∧ (((issuing pending).mach.core 0).lane 0).busyUntil ≤ ((issuing pending).mach.core 0).cycle ∧
    ((issuing pending).mach.core 0).select.get? 0 = none := by decide +kernel

theorem witness_IntegerResults :
    ∀ f ∈ [fieldsA 0x10 wa, fieldsA 0x11 wa, fieldsA 0x12 wa, fieldsA 0x13 wa, fieldsA 0x14 wa, fieldsA 0x15 wa,
      fieldsA 0x16 wa, fieldsA 0x17 wa, fieldsA 0x18 wa, fieldsA 0x19 wa, fieldsA 0x1A wa, fieldsA 0x1B wa, fieldsA 0x1C wa,
      fieldsA 0x1D wa, fieldsA 0x1E wa, fieldsA 0x1F wa, fieldsI 0x20 wi, fieldsI 0x21 wi, fieldsI 0x22 wi, fieldsI 0x23 wi,
      fieldsI 0x24 wi, fieldsI 0x25 wi, fieldsI 0x26 wi, fieldsI 0x27 wi, fieldsI 0x28 wi, fieldsI 0x29 wi],
    Issues (issuing grp) 0 grp f := by decide +kernel

/-- A pair in v44 and v45, the last aligned pair of the allocation. -/
def wp : WordA := { wa with b := 2, a := 0, d := 44 }
theorem witness_PairAndSelectResults :
    ∀ f ∈ [fieldsA 0x2B wp, fieldsA 0x2C wp, fieldsA 0x2D wp, fieldsC 0x2E { wc with b := 63, cc := 5 }, fieldsA 0x2F { wa with g := 7 }],
    Issues (issuing grp) 0 grp f := by decide +kernel

theorem witness_LogicResults :
    ∀ f ∈ [fieldsA 0x30 wa, fieldsA 0x31 wa, fieldsA 0x32 wa, fieldsA 0x33 wa, fieldsA 0x34 wa, fieldsA 0x35 wa, fieldsA 0x36 wa,
      fieldsA 0x37 wa, fieldsA 0x38 wa, fieldsA 0x39 wa, fieldsA 0x3A wa, fieldsA 0x3B wa, fieldsA 0x3C wa, fieldsA 0x3D wa,
      fieldsA 0x3E wa, fieldsA 0x3F wa], Issues (issuing grp) 0 grp f := by decide +kernel

theorem witness_PredicateResults :
    ∀ f ∈ [fieldsC 0x40 { wc with cc := 5 }, fieldsC 0x41 { wc with cc := 5 }, fieldsC 0x42 { wc with cc := 7 },
      fieldsC 0x43 { wc with a := 0, cc := 1 }, fieldsC 0x44 { wc with a := 15 }, fieldsC 0x45 wc, fieldsC 0x46 wc, fieldsC 0x47 wc,
      fieldsC 0x48 wc, fieldsC 0x49 wc, fieldsC 0x5E wc], Issues (issuing grp) 0 grp f := by decide +kernel

theorem witness_MoveResults :
    ∀ f ∈ [fieldsA 0x4A wa, fieldsA 0x4B wa, fieldsI 0x4F { wi with imm := 5 }, fieldsA 0x5F { wa with a := 0 },
      fieldsA 0x4C { wa with d := 63 }, fieldsA 0x55 { wa with d := 63, b := 47 }, fieldsA 0x56 { wa with a := 63, b := 48 }],
    Issues (issuing grp) 0 grp f := by decide +kernel

/-- The supervisor group issues. -/
def supIssues : State := stateOf (machOf { groups := [(1280, sup)], lanes := [(0, { issuing := some 1280 })] })
theorem witness_SystemRegisterResults :
    Issues (issuing grp) 0 grp (fieldsI 0x4D { wi with imm := 0 }) ∧ grp.id.sup = false ∧ grp.amask ≠ 0 ∧
    (∀ n ∈ ([0x40, 0x41] : List (BitVec 12)), Issues (issuing grp) 0 grp (fieldsI 0x4D { wi with imm := n }) ∧
      Issues supIssues 1280 sup (fieldsI 0x4D { wi with imm := n, d := 63 })) ∧ sup.id.sup = true ∧
    Issues (issuing grp) 0 grp (fieldsI 0x4E { wi with imm := 0x23 }) := by decide +kernel

theorem witness_LaneExchangeResults_shuffles :
    ∀ f ∈ [fieldsA 0x50 wa, fieldsA 0x51 wa, fieldsA 0x52 wa, fieldsA 0x53 wa, fieldsA 0x54 { wa with b := 63 }],
    Issues (issuing grp) 0 grp f := by decide +kernel

theorem witness_LaneExchangeResults_reductions :
    ∀ f ∈ [fieldsA 0x57 wa, fieldsA 0x58 wa, fieldsA 0x59 wa, fieldsA 0x5A wa, fieldsA 0x5B wa, fieldsA 0x5C wa, fieldsA 0x5D wa],
    Issues (issuing grp) 0 grp f := by decide +kernel

theorem witness_FloatResults :
    (∀ f ∈ [fieldsA 0x60 wa, fieldsA 0x61 wa, fieldsA 0x62 wa, fieldsA 0x63 wa, fieldsA 0x64 wa, fieldsA 0x65 wa, fieldsA 0x66 wa,
      fieldsA 0x67 wa, fieldsA 0x68 wa, fieldsA 0x69 wa, fieldsA 0x6A wa, fieldsA 0x6B wa, fieldsA 0x6C wa, fieldsA 0x6D wa,
      fieldsA 0x6E wa, fieldsA 0x6F wa], Issues (issuing grp) 0 grp f) ∧ grp.actors (fieldsA 0x68 wa) ≠ [] ∧
    Issues (issuing { grp with amask := 0 }) 0 { grp with amask := 0 } (fieldsA 0x6E wa) ∧
    ({ grp with amask := 0 } : Group).actors (fieldsA 0x6E wa) = [] := by decide +kernel

theorem witness_PackedAndDotResults :
    ∀ f ∈ [fieldsA 0x70 wa, fieldsA 0x71 wa, fieldsA 0x72 wa, fieldsA 0x73 wa, fieldsA 0x74 wa, fieldsA 0x75 wa, fieldsA 0x76 wa,
      fieldsA 0x77 wa, fieldsA 0x78 wa, fieldsA 0x79 wa, fieldsA 0x7A wa, fieldsA 0x7B wa, fieldsA 0x7C wa, fieldsA 0x7D wa,
      fieldsA 0x7E wa, fieldsA 0x7F { wa with b := 3 }], Issues (issuing grp) 0 grp f := by decide +kernel

theorem witness_ConversionResults :
    ∀ f ∈ [fieldsA 0x80 wa, fieldsA 0x81 wa, fieldsA 0x82 wa, fieldsA 0x83 wa, fieldsA 0x84 wa, fieldsA 0x85 { wa with b := 1 },
      fieldsA 0x86 wa, fieldsA 0x87 { wa with b := 1 }, fieldsA 0x88 { wa with b := 3 }, fieldsA 0x89 { wa with b := 3 },
      fieldsA 0x8A { wa with b := 7 }, fieldsA 0x8B { wa with b := 7 }, fieldsA 0x8C { wa with b := 3 },
      fieldsA 0x8D { wa with b := 7 }, fieldsA 0x8F wa, fieldsI 0x8E { wi with imm := 9 }], Issues (issuing grp) 0 grp f := by
  decide +kernel

def wh : WordH := { sb := 15, d := 31, e := false }
theorem witness_CompactResults :
    ∀ f ∈ [fieldsHMov wh, fieldsH 0x10 wh, fieldsH 0x11 wh, fieldsH 0x12 wh, fieldsH 0x30 wh, fieldsH 0x31 wh, fieldsH 0x32 wh,
      fieldsH 0x35 wh, fieldsH 0x36 wh, fieldsH 0x37 wh, fieldsH 0x18 wh, fieldsH 0x1A wh, fieldsH 0x60 wh, fieldsH 0x61 wh,
      fieldsH 0x62 wh, fieldsH 0x65 wh], Issues (issuing grp) 0 grp f := by decide +kernel

/-- k15 holds a return offset, even or odd. -/
def back (x : Word) : Group := { grp with k := [(15, x)] }
def wk : WordA := { b := 0, a := 63, d := 0, g := 0, u := false, e := true }
def wj : WordJ := { off := 0x20000, g := 7, u := false, e := true }
theorem witness_ControlTransfers :
    (∀ f ∈ [fieldsA 0 { wk with a := 0 }, fieldsJ 1 wj, fieldsJ 2 wj, fieldsJ 4 { wj with g := 0 }, fieldsA 3 wk, fieldsA 5 wk],
      Issues (issuing (back 0xFFFFFFFE)) 0 (back 0xFFFFFFFE) f) ∧
    ((back 0xFFFFFFFE).id.entry + ((back 0xFFFFFFFE).reg wk.a 0).setWidth 56).getLsbD 0 = false ∧
    Issues (issuing (back 1)) 0 (back 1) (fieldsA 3 wk) ∧ Issues (issuing (back 1)) 0 (back 1) (fieldsA 5 wk) ∧
    (back 1).id.sup = false ∧ ((back 1).id.entry + ((back 1).reg wk.a 0).setWidth 56).getLsbD 0 = true := by decide +kernel

def wpu : WordC := { b := 0, a := 0, cc := 1, p := 7, g := 0, u := false, e := false }
def wnone : WordA := { b := 0, a := 0, d := 0, g := 0, u := false, e := false }
def deep : Group := { grp with depth := 16 }
theorem witness_MaskStack :
    Issues (issuing { grp with depth := 15 }) 0 { grp with depth := 15 } (fieldsC 6 wpu) ∧
    Issues (issuing grp) 0 grp (fieldsC 9 wpu) ∧
    Issues (issuing { grp with depth := 1 }) 0 { grp with depth := 1 } (fieldsA 7 wnone) ∧
    Issues (issuing { grp with depth := 1 }) 0 { grp with depth := 1 } (fieldsA 8 wnone) ∧
    Issues (issuing deep) 0 deep (fieldsC 6 wpu) ∧ deep.id.sup = false ∧ deep.depth = 16 ∧
    Issues (issuing grp) 0 grp (fieldsA 7 wnone) ∧ Issues (issuing grp) 0 grp (fieldsA 8 wnone) ∧ grp.depth = 0 := by decide +kernel

def asked : Group := { grp with preempt := some 0 }
def wsafe : WordJ := { off := 0xFFFF, g := 0, u := false, e := true }
theorem witness_SafePoints :
    Issues (issuing grp) 0 grp (fieldsJ 0x0A wsafe) ∧ grp.preempt = none ∧
    Issues (issuing asked) 0 asked (fieldsJ 0x0A wsafe) ∧ asked.preempt ≠ none ∧ asked.id.sup = false ∧ asked.id.harvest = false ∧
    ¬ (asked.crit = true ∧ asked.callow ≠ 0) ∧ asked.sb = 0 ∧
    Issues (issuing grp) 0 grp (fieldsA 0x0C { wnone with e := true }) := by decide +kernel

def wexit : WordA := { wnone with e := true }
/-- The group holds one line by an object holding without an heir, and asks that its last thread leave. -/
theorem witness_ExitEnds_part :
    Issues (issuing grp) 0 grp (fieldsA 0x0B { wexit with g := 1 }) ∧ grp.participants 1 = [] ∧
    (let g := { grp with preds := [(1, 0x7FFFFFFF)] }
     Issues (issuing g) 0 g (fieldsA 0x0B { wexit with g := 1 }) ∧ g.participants 1 ≠ [] ∧
     ∃ j : Nat, j < 32 ∧ g.exited.getLsbD j = false ∧ j ∉ g.participants 1) := by
  refine ⟨?_, ?_, ?_, ?_, 31, ?_⟩ <;> decide +kernel

theorem witness_ExitEnds_last :
    Issues (issuing grp) 0 grp (fieldsA 0x0B wexit) ∧ grp.participants 0 ≠ [] ∧
    (∀ j, j < 32 → grp.exited.getLsbD j = true ∨ j ∈ grp.participants 0) ∧
    ((issuing grp).issued 0 grp (fieldsA 0x0B wexit) 4).heirless 0 grp = false := by decide +kernel

theorem witness_TrapAndSyscallStops_trap :
    Issues (issuing grp) 0 grp (fieldsI 0x0D { wi with d := 0, imm := 4095, e := true }) ∧ grp.participants 0 ≠ [] ∧ grp.id.sup = false ∧
    Issues (issuing grp) 0 grp (fieldsI 0x0D { wi with d := 0, imm := 4095, g := 1, e := true }) ∧ grp.participants 1 = [] := by decide +kernel

theorem witness_TrapAndSyscallStops_syscall :
    Issues (issuing grp) 0 grp (fieldsI 0x0E { wi with d := 39, imm := 0x8FF, e := true }) ∧ grp.participants 0 ≠ [] ∧
    Issues (issuing grp) 0 grp (fieldsI 0x0E { wi with d := 0, imm := 0, g := 1, e := true }) ∧ grp.participants 1 = [] := by decide +kernel

/-- An answer that is not an error. -/
theorem answers {ε α : Type} {x : Except ε α} {p : α → Bool}
    (h : (match x with | .ok a => p a | .error _ => false) = true) : ∃ a, x = .ok a ∧ p a = true := by
  cases x with
  | ok a => exact ⟨a, rfl, h⟩
  | error e => simp at h

/-- Page 0 of context 0, cached with every permission and frame 0 of device memory. -/
def page0 : Walked := { ctx := 0, page := 0, leaf := { frame := 0, big := false, mig := false, aplace := 0, x := true, a := true,
                                                       w := true, rd := true, target := 0, peer := 0 } }

/-- A block of two groups, with a ring, a barrier and two pages. -/
def blk : Block := { ctx := 0, launch := 0, ordinal := 0, unit := 0, inUnit := 0, pages := [0, 1], spadBytes := 32768
                     rings := [(15, { offset := 0, depth := 4, allow := 1 })], bars := [(15, { expect := 2, curexp := 2 })]
                     members := [(0, { core := 0, slot := 0, uid := 1, role := .general }),
                                 (1, { core := 0, slot := 1, uid := 2, role := .general })] }

/-- The group's machine with its block, its page and its pages of scratchpad. -/
def world (c : Core) : Mach := { machOf c with
  walker := [page0], clusters := [(0, { blocks := [(0, blk)], pages := [(0, { state := .alloc }), (1, { state := .alloc })] })] }

/-- A hold of grp without an heir. -/
def held : Estate := { kind := 6, hmem := 0, hslot := 0, uid := 1, heir := 0, hidx := 0, brv := false, order := 0, key := 64 }
theorem witness_ExitEnds_heirless :
    let s := stateOf (world { coreOf grp with estate := [(4095, held)] })
    Issues s 0 grp (fieldsA 0x0B wexit) ∧ grp.participants 0 ≠ [] ∧ (∀ j, j < 32 → grp.exited.getLsbD j = true ∨ j ∈ grp.participants 0) ∧
    grp.id.sup = false ∧ (s.issued 0 grp (fieldsA 0x0B wexit) 4).heirless 0 grp = true := by decide +kernel

/-- The supervisor group issues, with a second group in slot 0 and operands in k0 to k2. -/
def supCore (g : Group) : Core := { groups := [(0, g), (1280, sup)], lanes := [(0, { issuing := some 1280 })] }
def supWith (a b : Word) : Group := { sup with k := [(0, a), (1, b)] }
def supState (g : Group) (a b : Word) : State :=
  stateOf (world { groups := [(0, g), (1280, supWith a b)], lanes := [(0, { issuing := some 1280 })] })
/-- Status to k15, operands in k0 and k1. -/
def ws : WordA := { b := 49, a := 48, d := 63, g := 0, u := false, e := false }
def wse : WordA := { ws with e := true }
def halted : Group := { grp with state := .stopped, cause := .fault, fcode := some .brk }

theorem witness_EretResumes :
    (∀ mode : Word, mode = 0 ∨ mode = 1 → Issues (supState halted 0 mode) 1280 (supWith 0 mode) (fieldsA 0x0F wse) ∧
      ((supWith 0 mode).reg ws.a 0).toNat % 2048 = 0 ∧ (supState halted 0 mode).mach.group? 0 0 = some halted ∧
      halted.state = .stopped ∧ halted.cause ≠ .syscall ∧ halted.freeze = none ∧ halted.stopMark = false ∧ halted.inReserve = false ∧
      halted.parking = false ∧ halted.atSafe = false ∧ halted.recovers = false ∧ halted.xlatFailed = none ∧ halted.owed = none ∧ ((supState halted 0 mode).mach.core 0).stopList = [] ∧
      ((supState halted 0 1).issued 1280 (supWith 0 1) (fieldsA 0x0F wse) 4).formLength 0 halted = some 2) ∧
    Issues (supState grp 0 0) 1280 (supWith 0 0) (fieldsA 0x0F wse) ∧ (supState grp 0 0).mach.group? 0 0 = some grp ∧
    grp.state ≠ .stopped := by
  refine ⟨fun mode h => ?_, by decide +kernel⟩
  rcases h with rfl | rfl <;> decide +kernel

/-- The word at CPOOL + 4 * 4095, read through page 0. -/
def wlast : WordI := { wi with imm := 4095 }
theorem witness_LoadAndStoreResults_ldk : ∃ m bs, Issues (stateOf (world (coreOf grp))) 0 grp (fieldsI 0x2A wlast) ∧
    grp.actors (fieldsI 0x2A wlast) ≠ [] ∧ ((stateOf (world (coreOf grp))).issued 0 grp (fieldsI 0x2A wlast) 4).readVa 0 grp
      (grp.id.cpool + BitVec.ofNat 56 (4 * wlast.imm.toNat)) 4 none = .ok (m, bs) := by
  obtain ⟨a, h, -⟩ := answers (x := ((stateOf (world (coreOf grp))).issued 0 grp (fieldsI 0x2A wlast) 4).readVa 0 grp
      (grp.id.cpool + BitVec.ofNat 56 (4 * wlast.imm.toNat)) 4 none) (p := fun _ => true) (by decide +kernel)
  refine ⟨a.1, a.2, ?_, ?_, h⟩ <;> decide +kernel

/-- Line register 7 bound by thread 31 alone: way 0 is the line at 0x80, at offset o, in global memory or in the scratchpad. -/
def bound (o : Nat) (spad : Bool) : LineReg :=
  { lines := [0x80], locs := [if spad then .spad 0 0x80 else .dram 0x80], spad, w := true, state := .open_
    frames := [if spad then none else some 12287], bound := 0x80000000, way := List.replicate 32 0
    off := List.replicate 32 (BitVec.ofNat 7 o) }
def lineGrp (o : Nat) (spad : Bool := false) : Group := { grp with lines := [(7, bound o spad)], amask := 0x80000000 }
def frame0 : Frame := { va := 0x80, pins := 1, line := .dram 0x80, state := .pinned }
def lineState (g : Group) : State := stateOf (world { coreOf g with frames := [(12287, frame0)] })
/-- The word of an access to l7 at O = z and S = 0. -/
def wl (d : RegField) : WordM := { wm with d }

theorem witness_LoadAndStoreResults_load :
    ∀ e ∈ [(0x94, 1, 46), (0x95, 1, 46), (0x96, 2, 46), (0x97, 2, 46), (0x98, 4, 46), (0x99, 8, 44), (0x9A, 16, 40)],
      let g := lineGrp (128 - e.2.1)
      Issues (lineState g) 0 g (fieldsM e.1 (wl e.2.2)) ∧ Reaches g (wl e.2.2) e.2.1 false ∧
      Undisturbed (lineState g) g (wl e.2.2) e.2.1 ∧ g.participants 0 = [31] ∧
      posAt g (wl e.2.2) e.2.1 31 + e.2.1 = 128 ∧
      ∀ j, j < e.2.1 → (lineState g).mach.wayBad 0 (g.line 7) (wayAt g (wl e.2.2) 31) (posAt g (wl e.2.2) e.2.1 31 + j) = false := by
  unfold Reaches Undisturbed
  decide +kernel

theorem witness_LoadAndStoreResults_store :
    ∀ e ∈ [(0x9B, 1, 46), (0x9C, 2, 46), (0x9D, 4, 46), (0x9E, 8, 44), (0x9F, 16, 40)], ∀ spad : Bool,
      let g := lineGrp (128 - e.2.1) spad
      Issues (lineState g) 0 g (fieldsM e.1 (wl e.2.2)) ∧ Reaches g (wl e.2.2) e.2.1 true ∧
      Undisturbed (lineState g) g (wl e.2.2) e.2.1 ∧ g.participants 0 = [31] ∧ g.gated = false ∧ g.state ≠ .ending ∧
      g.id.duplex = false ∧ (spad = false → (g.line 7).frames[wayAt g (wl e.2.2) 31]? = some (some 12287) ∧
        (((lineState g).mach.core 0).frame 12287).state ≠ .free) ∧
      (spad = true → (g.line 7).frames[wayAt g (wl e.2.2) 31]? = some none ∧
        (g.line 7).locs.getD (wayAt g (wl e.2.2) 31) (.dram 0) = .spad 0 0x80) := by
  unfold Reaches Undisturbed
  decide +kernel

/-- The first failing check of thread 31 for each fault of an access. -/
theorem witness_LineAccessFaults :
    (∀ e ∈ [(0x94, 1, false), (0x95, 1, false), (0x96, 2, false), (0x97, 2, false), (0x98, 4, false), (0x99, 8, false), (0x9A, 16, false),
      (0x9B, 1, true), (0x9C, 2, true), (0x9D, 4, true), (0x9E, 8, true), (0x9F, 16, true), (0xB0, 4, true), (0xB1, 8, true),
      (0xB2, 4, true), (0xB3, 4, true), (0xB4, 4, true), (0xB5, 4, true), (0xB6, 4, true), (0xB7, 4, true), (0xB8, 4, true), (0xB9, 4, true), (0xBA, 4, true),
      (0xBB, 4, true), (0xBC, 8, true)],
      let g : Group := { grp with amask := 0x80000000 }
      Issues (lineState g) 0 g (fieldsM e.1 (wl 40)) ∧ g.participants 0 = [31] ∧
      lineFault g (wl 40) e.2.1 e.2.2 31 = some (.lineclosed, 0)) ∧
    (let g := lineGrp 127
     Issues (lineState g) 0 g (fieldsM 0x98 (wl 46)) ∧ lineFault g (wl 46) 4 false 31 = some (.align, 0xFF)) ∧
    (let g := { lineGrp 112 with k := [(0, 16)] }
     Issues (lineState g) 0 g (fieldsM 0x98 { wl 46 with o := 48 }) ∧ lineFault g { wl 46 with o := 48 } 4 false 31 = some (.linebound, 0x100)) ∧
    (let g : Group := { lineGrp 0 with lines := [(7, { bound 0 false with w := false })] }
     Issues (lineState g) 0 g (fieldsM 0x9D (wl 46)) ∧ lineFault g (wl 46) 4 true 31 = some (.protect, 0x80)) := by decide +kernel

/-- Entry 5 of the dictionary is IADD v46, v1, v0; its slot holds two words more. -/
def dictGrp : Group := { grp with id := { grp.id with kid := 3, dsize := 6 } }
def dictState : State := stateOf (world { coreOf dictGrp with
  dicts := [(0, { kid := 3, ctx := 0, launches := [0], words := [0, 0, 0, 0, 0, WordA.toBits 0x10 wa] })] })
def wd : WordD := { go := 0, idx := 5, e := false }
theorem witness_DictionaryForms :
    dictState.issuer = some (0, dictGrp) ∧ (wd.idx.toNat < dictGrp.id.dsize) ∧
    (dictState.mach.core 0).dict dictGrp.id = some { kid := 3, ctx := 0, launches := [0], words := [0, 0, 0, 0, 0, WordA.toBits 0x10 wa] } ∧
    dictBad (dictState.mach.core 0) dictGrp.id wd = false ∧ dictWord (dictState.mach.core 0) dictGrp.id wd = some (WordA.toBits 0x10 wa) ∧
    Issues dictState 0 dictGrp (fieldsOfWord (WordA.toBits 0x10 wa)) ∧
    dictGrp.id.dsize ≤ ({ wd with idx := 6 } : WordD).idx.toNat ∧ dictGrp.id.sup = false ∧ dictGrp.runCount < 24 := by decide +kernel
theorem witness_DictionaryForms_iadd : decodeWord (WordA.toBits 0x10 wa) = .iadd wa := by rfl

/-- Threads 0 and 31 aim at the first and the second line of span 15, which is two lines long. -/
def aimGrp : Group := { grp with amask := 0x80000001, v := [(32 + 31, 255)], spans := [(15, { valid := true, limit := 256, perm := 0x7F })] }
def wo : WordO := { b := 1, x := 0, sp := 15, p := 3, l := 7, g := 0, u := false, e := true }
def aimState : State := stateOf (world (coreOf aimGrp))
def aimField (write : Bool) : Fields := fieldsO (if write then 0x91 else 0x90) wo

theorem witness_LineOpens : ∀ write : Bool, ∃ m ls, Issues aimState 0 aimGrp (aimField write) ∧ aimGrp.participants 0 = [0, 31] ∧
    (aimGrp.line 7).state = .closed ∧
    (let sp := aimGrp.span 15
     let aim := fun t => sp.ptr + (aimGrp.reg wo.b t).setWidth 56
     let ln := fun t => aim t - BitVec.ofNat 56 ((aim t).toNat % 128)
     (∀ t ∈ [0, 31], sp.valid = true ∧ sp.base.toNat ≤ (ln t).toNat ∧ (ln t).toNat + 128 ≤ sp.limit.toNat ∧ sp.perm.getLsbD 0 = true ∧
       (write = true → sp.perm.getLsbD 1 = true) ∧ (ln t).toNat < Config.peerWindow) ∧ [0, 31].map ln = [0, 128]) ∧
    [(0 : Va), 128].Pairwise (fun x y : Va => x.toNat < y.toNat) ∧
    (aimState.issued 0 aimGrp (aimField write) 4).locate 0 aimGrp (if write then 1 else 0) [0, 128] = (m, .ok ls) ∧
    (∀ e ∈ ls, e.2.rd = true ∧ (write = true → e.2.w = true) ∧ (aimState.mach.core 0).findFrame e.1 = none ∧
      (aimState.mach.core 0).claimOf e.1 = none) ∧
    ((aimState.issued 0 aimGrp (aimField write) 4).core 0).poolFits false 1 = true ∧ 4 ≤ (aimState.mach.core 0).estateFree ∧
    (aimState.mach.core 0).claims.length + 4 ≤ 4096 ∧ (aimState.mach.core 0).estate.length + 4 ≤ 4096 := by
  intro write
  obtain ⟨ls, h, hp⟩ := answers (x := ((aimState.issued 0 aimGrp (aimField write) 4).locate 0 aimGrp (if write then 1 else 0) [0, 128]).2)
    (p := fun ls => ls.all (fun e => e.2.rd && e.2.w && ((aimState.mach.core 0).findFrame e.1).isNone &&
      ((aimState.mach.core 0).claimOf e.1).isNone)) (by cases write <;> decide +kernel)
  have ok : ∀ e ∈ ls, e.2.rd = true ∧ (write = true → e.2.w = true) ∧ (aimState.mach.core 0).findFrame e.1 = none ∧
      (aimState.mach.core 0).claimOf e.1 = none := fun e he => by
    have := List.all_eq_true.mp hp e he
    simp only [Bool.and_eq_true, Option.isNone_iff_eq_none] at this
    exact ⟨this.1.1.1, fun _ => this.1.1.2, this.1.2, this.2⟩
  clear hp
  refine ⟨_, ls, ?_, ?_, ?_, ?_, ?_, Prod.ext rfl h, ok, ?_⟩ <;> clear h ok <;> revert write <;> decide +kernel

/-- The open line's frame clean, or dirty in its last byte. -/
def dirtyState (dirty : Bool) (g : Group) : State :=
  stateOf (world { coreOf g with frames := [(12287, { frame0 with dirty := if dirty then 1#128 <<< 127 else 0 })] })
theorem witness_LineCloses :
    (∀ d : Bool, ∀ op ∈ [0x92, 0x93, 0xA7], let g := lineGrp 0
      Issues (dirtyState d g) 0 g (fieldsO op { wo with b := 0, sp := 0, p := 0, e := false }) ∧ g.participants 0 ≠ [] ∧ g.gated = false ∧
      ((g.line 7).frames.filterMap id).Nodup ∧ (dirtyState d g).mach.writingBack g.uid 0 7 = false ∧ (g.line 7).state = .open_ ∧
      (dirtyState d g).mach.flushFull 0 g (g.line 7) = false ∧
      (((dirtyState d g).mach.core 0).frame 12287).dirty = (if d then 1#128 <<< 127 else 0)) ∧
    (∀ op ∈ [0x92, 0x93, 0xA7], Issues (issuing grp) 0 grp (fieldsO op { wo with b := 0, sp := 0, p := 0, e := false })) ∧
    (grp.line 7).state = .closed ∧ grp.id.sup = false ∧ grp.participants 0 ≠ [] := by
  decide +kernel

/-- The supervisor group with a descriptor block of eight words from k0. -/
def blockSup (ks : List Word) : Group := { sup with k := (ks.mapIdx (fun i x => (i, x))).filter (fun e => e.2 != 0) }
def supOnly1 (g : Group) : State := stateOf (world { groups := [(1280, g)], lanes := [(0, { issuing := some 1280 })] })
/-- The block at k0, v46 as destination, k15 as offset. -/
def wb : WordA := { b := 63, a := 48, d := 46, g := 0, u := false, e := false }
/-- A group with a block at k0 and span 15 valid over [256, 512) with every permission. -/
def blockGrp (ks : List Word) : Group :=
  { grp with k := ks.mapIdx (fun i x => (i, x)), spans := [(15, { valid := true, base := 256, ptr := 256, limit := 512, perm := 0x7F })] }
/-- The same with k15 as well. -/
def withK15 (g : Group) (x : Word) : Group := { g with k := g.k.set 15 x }

theorem witness_SpanResults_spset :
    let g := blockSup [0xFFFFFFFF, 0x0FFFFFFF, 0, 0x00FFFFFF, 0, 0x00FFFFFF, 0x7F, 15]
    Issues (supOnly1 g) 1280 g (fieldsA 0xA0 { wb with b := 0, d := 0 }) ∧ g.participants 0 ≠ [] ∧ (g.readK 1).toNat < 2 ^ 28 ∧
    (g.readK 3).toNat < 2 ^ 24 ∧ (g.readK 5).toNat < 2 ^ 24 ∧ (g.readK 6).toNat < 2 ^ 7 ∧ (g.readK 7).toNat < 16 := by decide +kernel

/-- Each reserved bit of SPSET's block at its lowest place, of SPGET's and SPCHK's, and the values that their entries call ILLEGAL; a source span that is invalid. -/
theorem witness_SpanResults_illegal :
    (∀ e ∈ [([0, 0x10000000], 1, 0x10000000), ([0, 0, 0, 0x1000000], 3, 0x1000000), ([0, 0, 0, 0, 0, 0x1000000], 5, 0x1000000), ([0, 0, 0, 0, 0, 0, 0x80], 6, 128), ([0, 0, 0, 0, 0, 0, 0, 16], 7, 16)],
      let g := blockSup e.1
      Issues (supOnly1 g) 1280 g (fieldsA 0xA0 { wb with b := 0, d := 0 }) ∧ g.id.sup = true ∧ g.participants 0 ≠ [] ∧
      e.2.2 ≤ (g.readK e.2.1).toNat) ∧
    (∀ k0 ∈ [0x80F, 0x1F, 0x70F], let g := blockGrp [BitVec.ofNat 32 k0]
      Issues (issuing g) 0 g (fieldsA 0xA3 { wb with b := 0 }) ∧ g.id.sup = false ∧ (g.readK 0).toNat = k0) ∧
    (2 ^ 11 ≤ 0x80F ∧ 0x1F / 16 % 16 ≠ 0 ∧ 0x70F / 256 % 8 = 7) ∧
    (∀ k0 ∈ [0x101000F, 0x1001F, 0x1080F, 0x1070F, 0x0F, 0x81000F], let g := blockGrp [BitVec.ofNat 32 k0]
      Issues (issuing g) 0 g (fieldsA 0xA4 wb) ∧ (g.readK 0).toNat = k0) ∧
    (2 ^ 24 ≤ 0x101000F ∧ 0x1001F / 16 % 16 ≠ 0 ∧ 0x1080F / 2048 % 32 ≠ 0 ∧ 0x1070F / 256 % 8 = 7 ∧ 0x0F / 65536 % 256 = 0 ∧ 128 < 0x81000F / 65536 % 256) ∧
    (let g := blockGrp [0, 0xE0000000, 0, 0x7FFFFFFF]
     Issues (issuing g) 0 g (fieldsA 0xA1 { wb with b := 0, d := 0 }) ∧ (g.readK 3).toNat < 2 ^ 31 ∧ (g.span ((g.readK 1).toNat / 2 ^ 28)).valid = false) := by
  refine ⟨?_, ?_, by decide, ?_, by decide, ?_⟩ <;> decide +kernel

theorem witness_SpanResults_spnarrow :
    (let g := blockGrp [0, 0xF0FFFFFF, 0, 0x7FFFFFFF]
     Issues (issuing g) 0 g (fieldsA 0xA1 { wb with b := 0, d := 0 }) ∧ g.participants 0 ≠ [] ∧ (g.readK 3).toNat < 2 ^ 31 ∧
     (g.span ((g.readK 1).toNat / 2 ^ 28)).valid = true) ∧
    (let g := blockGrp [0, 0xF0FFFFFF, 0, 0x80000000]
     Issues (issuing g) 0 g (fieldsA 0xA1 { wb with b := 0, d := 0 }) ∧ g.id.sup = false ∧ g.participants 0 ≠ [] ∧
     2 ^ 31 ≤ (g.readK 3).toNat) := by decide +kernel

theorem witness_SpanResults_spadv :
    (let g := withK15 (blockGrp [15]) 256
     let aim := (g.span 15).ptr + (g.reg wb.b 0).signExtend 56
     Issues (issuing g) 0 g (fieldsA 0xA2 { wb with d := 0 }) ∧ (g.readK 0).toNat < 16 ∧ (g.span 15).base.toNat ≤ aim.toNat ∧
     aim.toNat ≤ (g.span 15).limit.toNat) ∧
    (let g := withK15 (blockGrp [15]) 257
     let aim := (g.span 15).ptr + (g.reg wb.b 0).signExtend 56
     Issues (issuing g) 0 g (fieldsA 0xA2 { wb with d := 0 }) ∧ g.id.sup = false ∧ ¬aim.toNat ≤ (g.span 15).limit.toNat) := by decide +kernel

theorem witness_SpanResults_readers :
    (∀ part ∈ [0, 1, 2, 3, 4, 5, 6], let g := blockGrp [BitVec.ofNat 32 (part * 256 + 15)]
      Issues (issuing g) 0 g (fieldsA 0xA3 { wb with b := 0 }) ∧ g.participants 0 ≠ [] ∧
      (g.readK 0).toNat = part * 256 + (g.readK 0).toNat % 16) ∧
    (∀ size ∈ [1, 128], let g := blockGrp [BitVec.ofNat 32 (size * 65536 + 6 * 256 + 15)]
      Issues (issuing g) 0 g (fieldsA 0xA4 wb) ∧ g.participants 0 ≠ [] ∧
      (g.readK 0).toNat = size * 65536 + 6 * 256 + (g.readK 0).toNat % 16) := by decide +kernel

/-- A 32-byte access at the end of the line, by thread 31, of a frame that holds these bytes. -/
def wseal : WordM := { wm with d := 48 }
def imageState (g : Group) (data : SMap Byte) : State := stateOf (world { coreOf g with frames := [(12287, { frame0 with data })] })
theorem witness_SpanImages_spsave :
    Issues (imageState (lineGrp 96) []) 0 (lineGrp 96) (fieldsM 0xA5 wseal) ∧ (lineGrp 96).participants wseal.g = [31] ∧
    ((lineGrp 96).line 7).state = .open_ ∧ ((lineGrp 96).line 7).bound.getLsbD 31 = true ∧ posAt (lineGrp 96) wseal 32 31 = 96 ∧
    (imageState (lineGrp 96) []).mach.spadBusy 0 1 (((lineGrp 96).line 7).locs.getD (wayAt (lineGrp 96) wseal 31) (.dram 0)) (rangeMask 96 32) = false ∧
    ((lineGrp 96).line 7).w = true ∧ (lineGrp 96).gated = false ∧
    ((lineGrp 96).line 7).frames[wayAt (lineGrp 96) wseal 31]? = some (some 12287) ∧
    (((imageState (lineGrp 96) []).mach.core 0).frame 12287).state ≠ .free := by decide +kernel

/-- The same on a way of the scratchpad. -/
theorem witness_SpanImages_spad : let g := lineGrp 96 true
    let s := stateOf (world (coreOf g))
    Issues s 0 g (fieldsM 0xA5 wseal) ∧ g.participants wseal.g = [31] ∧ (g.line 7).state = .open_ ∧ (g.line 7).bound.getLsbD 31 = true ∧ posAt g wseal 32 31 = 96 ∧
    s.mach.spadBusy 0 1 ((g.line 7).locs.getD (wayAt g wseal 31) (.dram 0)) (rangeMask 96 32) = false ∧ (g.line 7).w = true ∧ g.gated = false ∧
    (g.line 7).frames[wayAt g wseal 31]? = some none ∧ (g.line 7).locs.getD (wayAt g wseal 31) (.dram 0) = .spad 0 128 ∧ g.state ≠ .ending := by decide +kernel

/-- The sealed image of a span, as SPSAVE writes it for context 0. -/
def sealed (sp : Span) : List Byte := leBytes 24 sp.image.toNat ++ leBytes 8 (sealOf (Config.sealKey 0) sp.image).toNat
def spanAll : Span := { valid := true, limit := 512, base := 256, ptr := 300, perm := 0x7F, tag := 15 }
def imageOf (bs : List Byte) : SMap Byte := bs.mapIdx (fun i b => (96 + i, b))
theorem getD_imageOf (bs : List Byte) (o i : Nat) : SMap.getD (bs.mapIdx (fun i b => (o + i, b))) (o + i) 0 = bs.getD i 0 := by
  induction bs generalizing o i with
  | nil => simp [SMap.getD]
  | cons b bs ih =>
    rw [List.mapIdx_cons]
    cases i with
    | zero => simp [SMap.getD, SMap.get?_cons]
    | succ i =>
      have h := ih (o + 1) i
      simp only [SMap.getD, SMap.get?_cons, List.getD_cons_succ] at h ⊢
      rw [if_neg (by omega), show o + (i + 1) = o + 1 + i by omega, ← h]
      congr 3
      funext j b
      rw [show o + (j + 1) = o + 1 + j by omega]
theorem witness_SpanImages_spload : let s := imageState (lineGrp 96) (imageOf (sealed spanAll))
    Issues s 0 (lineGrp 96) (fieldsM 0xA6 wseal) ∧ lineBytes s (lineGrp 96) wseal 32 31 = sealed spanAll ∧
    s.mach.sealKey (lineGrp 96) = Config.sealKey 0 ∧
    ∀ j, j < 32 → s.mach.wayBad 0 ((lineGrp 96).line 7) (wayAt (lineGrp 96) wseal 31) (posAt (lineGrp 96) wseal 32 31 + j) = false := by
  refine ⟨⟨rfl, by decide +kernel, by decide +kernel, rfl, rfl⟩, ?_, rfl, by decide +kernel⟩
  refine List.ext_getElem (by simp [lineBytes, Mach.wayBytes, sealed, leBytes]) fun i h1 h2 => ?_
  have h := getD_imageOf (sealed spanAll) 96 i
  rw [List.getD_eq_getElem _ _ h2] at h
  rw [← h]
  simp only [lineBytes, Mach.wayBytes, List.getElem_map, List.getElem_range]
  rfl
/-- Any 32 bytes but one seal are refused: here zeros, or a last byte of 1 where the seal of the zero image is zero. -/
theorem witness_SpanImages_refused : ∃ data, let s := imageState (lineGrp 96) data
    Issues s 0 (lineGrp 96) (fieldsM 0xA6 wseal) ∧ (lineGrp 96).id.sup = false ∧
    (∀ j, j < 32 → s.mach.wayBad 0 ((lineGrp 96).line 7) (wayAt (lineGrp 96) wseal 31) (posAt (lineGrp 96) wseal 32 31 + j) = false) ∧
    sealOf (s.mach.sealKey (lineGrp 96)) (BitVec.ofNat 192 (leNat ((lineBytes s (lineGrp 96) wseal 32 31).take 24))) ≠
      BitVec.ofNat 64 (leNat ((lineBytes s (lineGrp 96) wseal 32 31).drop 24)) := by
  by_cases h : sealOf (Config.sealKey 0) 0 = 0
  · refine ⟨[(127, 1)], by decide +kernel, rfl, by decide +kernel, ?_⟩
    have e1 : BitVec.ofNat 192 (leNat ((lineBytes (imageState (lineGrp 96) [(127, 1)]) (lineGrp 96) wseal 32 31).take 24)) = 0 := by
      decide +kernel
    have e2 : BitVec.ofNat 64 (leNat ((lineBytes (imageState (lineGrp 96) [(127, 1)]) (lineGrp 96) wseal 32 31).drop 24)) =
      0x0100000000000000 := by decide +kernel
    rw [e1, e2]
    exact fun hc => absurd (h.symm.trans hc) (by decide)
  · refine ⟨[], by decide +kernel, rfl, by decide +kernel, ?_⟩
    have e1 : BitVec.ofNat 192 (leNat ((lineBytes (imageState (lineGrp 96) []) (lineGrp 96) wseal 32 31).take 24)) = 0 := by decide +kernel
    have e2 : BitVec.ofNat 64 (leNat ((lineBytes (imageState (lineGrp 96) []) (lineGrp 96) wseal 32 31).drop 24)) = 0 := by decide +kernel
    rw [e1, e2]
    exact h

theorem witness_LineStatus : Issues (imageState (lineGrp 127) []) 0 (lineGrp 127) (fieldsM 0xA8 { wm with o := 0 }) ∧
    ((lineGrp 127).line 7).bound.getLsbD 31 = true ∧ ((lineGrp 127).line 7).frames[(((lineGrp 127).line 7).way.getD 31 0).toNat]? =
      some (some 12287) := by decide +kernel

/-- Thread 31 with its register's tag of 14 aims at the last line of span 15. -/
def tagGrp : Group := { blockGrp [15] with amask := 0x80000000, v := [(32 * 0 + 31, 128), (32 * 46 + 31, 14)] }
def wt : WordA := { b := 0, a := 48, d := 46, g := 0, u := false, e := false }
theorem witness_TagsAndPrefetch_tagset : ∃ r, Issues (stateOf (world (coreOf tagGrp))) 0 tagGrp (fieldsA 0xA9 wt) ∧ tagGrp.participants 0 = [31] ∧
    (tagGrp.readK 0).toNat < 16 ∧ tagGrp.gated = false ∧
    tagsetCheck 0 tagGrp (fieldsA 0xA9 wt) ((stateOf (world (coreOf tagGrp))).issued 0 tagGrp (fieldsA 0xA9 wt) 4) [31] = .ok r := by
  obtain ⟨r, h, -⟩ := answers (x := tagsetCheck 0 tagGrp (fieldsA 0xA9 wt) ((stateOf (world (coreOf tagGrp))).issued 0 tagGrp
    (fieldsA 0xA9 wt) 4) [31]) (p := fun _ => true) (by decide +kernel)
  have now : Issues (stateOf (world (coreOf tagGrp))) 0 tagGrp (fieldsA 0xA9 wt) ∧ tagGrp.participants 0 = [31] ∧
    (tagGrp.readK 0).toNat < 16 ∧ tagGrp.gated = false := by decide +kernel
  exact ⟨r, now.1, now.2.1, now.2.2.1, now.2.2.2, h⟩
theorem witness_TagsAndPrefetch_tagget : ∃ r, Issues (stateOf (world (coreOf tagGrp))) 0 tagGrp (fieldsA 0xAA wt) ∧
    taggetCheck 0 tagGrp (fieldsA 0xAA wt) ((stateOf (world (coreOf tagGrp))).issued 0 tagGrp (fieldsA 0xAA wt) 4) [31] = .ok r := by
  obtain ⟨r, h, -⟩ := answers (x := taggetCheck 0 tagGrp (fieldsA 0xAA wt) ((stateOf (world (coreOf tagGrp))).issued 0 tagGrp
    (fieldsA 0xAA wt) 4) [31]) (p := fun _ => true) (by decide +kernel)
  exact ⟨r, by decide +kernel, h⟩
def wpref : WordO := { b := 0, x := 0, sp := 15, p := 0, l := 0, g := 0, u := false, e := false }
theorem witness_TagsAndPrefetch_pref : let s := stateOf (world (coreOf tagGrp))
    ∃ m lf, Issues s 0 tagGrp (fieldsO 0xAB wpref) ∧ prefCheck tagGrp (fieldsO 0xAB wpref) [31] = none ∧
    (s.issued 0 tagGrp (fieldsO 0xAB wpref) 4).translate 0 tagGrp (lineVa ((tagGrp.span 15).ptr + (tagGrp.reg wpref.b 31).setWidth 56)) =
      (m, .ok (.dram 384) lf) ∧ lf.rd = true ∧ (s.mach.core 0).findFrame (.dram 384) = none ∧ (s.mach.core 0).frames = [] ∧
    (s.mach.lineClasses (.dram 384) 0).contains .tagMismatch = false := by
  refine ⟨_, _, ?_, ?_, rfl, rfl, ?_, rfl, ?_⟩ <;> decide +kernel

/-- A group of few registers, alone in its bank or beside groups that fill it, and a harvest group. -/
def small : Group := { grp with valloc := 16 }
def wgrow (n : BitVec 12) : WordI := { imm := n, d := 63, g := 0, u := false, e := true }
def full : Core := { coreOf small with groups := [(0, small)] ++ (List.range 5).map (fun i => (i + 1, { grp with uid := i + 2 })) }
theorem witness_RegisterAllocation :
    (Issues (issuing small) 0 small (fieldsI 0xAC (wgrow 16)) ∧ small.participants 0 ≠ []) ∧
    (let g : Group := { small with id := { small.id with harvest := true } }
     Issues (issuing g) 0 g (fieldsI 0xAC (wgrow 47))) ∧
    (Issues (issuing small) 0 small (fieldsI 0xAC (wgrow 47)) ∧
      (let c := ((issuing small).issued 0 small (fieldsI 0xAC (wgrow 47)) 4).core 0
       c.growers (laneOf 0) = [] ∧ c.ownerBytes (laneOf 0) + c.harvestBytes (laneOf 0) false + 128 * (47 - 16) ≤ 32768)) ∧
    (Issues (stateOf (machOf full)) 0 small (fieldsI 0xAC (wgrow 47)) ∧
      (let c := ((stateOf (machOf full)).issued 0 small (fieldsI 0xAC (wgrow 47)) 4).core 0
       c.growers (laneOf 0) = [] ∧ 32768 < c.ownerBytes (laneOf 0) + 128 * (47 - 16))) ∧
    (Issues (issuing grp) 0 grp (fieldsI 0xAD (wgrow 16)) ∧
      (((issuing grp).issued 0 grp (fieldsI 0xAD (wgrow 16)) 4).core 0).growers (laneOf 0) = []) := by decide +kernel

/-- Pages 0 and 1 of the block, in these states, and the offset and the number of pages in k0 and k1. -/
def pagesState (g : Group) (p : Page) : State :=
  stateOf { world (coreOf g) with clusters := [(0, { blocks := [(0, blk)], pages := [(0, p), (1, p)] })] }
def lendGrp (off n : Word) : Group := { grp with k := [(0, off), (1, n)] }
def wlend : WordA := { b := 0, a := 48, d := 63, g := 0, u := false, e := false }
theorem witness_LentPages :
    (∀ op ∈ [0xAE, 0xAF], ∀ g ∈ [lendGrp 0 0, lendGrp 1 1, lendGrp 16384 2, { lendGrp 0 1 with id := { grp.id with harvest := true } }],
      Issues (pagesState g { state := .alloc }) 0 g (fieldsA op wlend) ∧ g.participants 0 ≠ [] ∧
      (g.id.harvest = true ∨ (g.readK 1).toNat = 0 ∨ (g.readK 0).toNat % 16384 ≠ 0 ∨
        blk.pages.length < (g.readK 0).toNat / 16384 + (g.readK 1).toNat)) ∧
    (let g := lendGrp 16384 1
     Issues (pagesState g { state := .alloc }) 0 g (fieldsA 0xAE wlend) ∧ (pagesState g { state := .alloc }).mach.block? 0 g = some blk ∧
     g.id.harvest = false ∧ (blk.pages.drop 1).take 1 = [1] ∧
     (((pagesState g { state := .alloc }).mach.cluster 0).pages.getD 1 {}).state = .alloc ∧
     ((pagesState g { state := .alloc }).issued 0 g (fieldsA 0xAE wlend) 4).findGroup 0 0 1 = some { g with pc := g.pc + 4, runCount := 1 } ∧
     ({ g with pc := g.pc + 4, runCount := 1 } : Group).bindsIn 0 [1] = false ∧
     ((pagesState g { state := .alloc }).issued 0 g (fieldsA 0xAE wlend) 4).findGroup 0 1 2 = none) ∧
    (let g := lendGrp 16384 1
     let s := pagesState g { state := .lent, block := 0 }
     Issues s 0 g (fieldsA 0xAF wlend) ∧ ((s.mach.cluster 0).pages.getD 1 {}).state = .lent ∧
     ((s.mach.cluster 0).pages.getD 1 {}).block = g.id.block ∧ (s.issued 0 g (fieldsA 0xAF wlend) 4).pageUsers 0 [1] = [] ∧
     ∀ j, j < 8 → (s.mach.core j).ops = []) := by decide +kernel

/-- The atomic of thread 31 at the end of its line, in a scratchpad (no translation) or in device memory. -/
theorem witness_AtomicRequests : ∀ spad : Bool,
    ∀ e ∈ [(0xB0, AtomOp.add, 4), (0xB1, .add, 8), (0xB2, .fadd, 4), (0xB3, .minS, 4), (0xB4, .maxS, 4), (0xB5, .minN, 4),
      (0xB6, .maxN, 4), (0xB7, .and_, 4), (0xB8, .or_, 4), (0xB9, .xor_, 4), (0xBA, .xchg, 4), (0xBB, .cas, 4), (0xBC, .cas, 8)],
    ∃ m ls, let g := lineGrp (128 - e.2.2) spad
      Issues (lineState g) 0 g (fieldsM e.1 (wl 40)) ∧ Reaches g (wl 40) e.2.2 true ∧ g.participants 0 = [31] ∧ g.gated = false ∧
      g.id.duplex = false ∧ g.eng.unsure = [] ∧ g.state ≠ .ending ∧
      atomicLocs 0 g (g.line 7) e.2.1 ((lineState g).issued 0 g (fieldsM e.1 (wl 40)) 4)
        ([31].map (fun t => (t, wayAt g (wl 40) t, posAt g (wl 40) e.2.2 t))) = .ok (m, ls) ∧ ∀ x ∈ ls, x.2.2.device = none := by
  intro spad e he
  have h1 : let g := lineGrp (128 - e.2.2) spad
      Issues (lineState g) 0 g (fieldsM e.1 (wl 40)) ∧ Reaches g (wl 40) e.2.2 true ∧ g.participants 0 = [31] ∧ g.gated = false ∧
      g.id.duplex = false ∧ g.eng.unsure = [] ∧ g.state ≠ .ending := by
    revert e; cases spad <;> (unfold Reaches; decide +kernel)
  obtain ⟨⟨m, ls⟩, h, hp⟩ := answers (x := atomicLocs 0 (lineGrp (128 - e.2.2) spad) ((lineGrp (128 - e.2.2) spad).line 7) e.2.1
      ((lineState (lineGrp (128 - e.2.2) spad)).issued 0 (lineGrp (128 - e.2.2) spad) (fieldsM e.1 (wl 40)) 4)
      ([31].map (fun t => (t, wayAt (lineGrp (128 - e.2.2) spad) (wl 40) t, posAt (lineGrp (128 - e.2.2) spad) (wl 40) e.2.2 t))))
    (p := fun r => r.2.all (fun x => x.2.2.device == none)) (by clear h1; revert e; cases spad <;> decide +kernel)
  obtain ⟨a1, a2, a3, a4, a5, a6, a7⟩ := h1
  refine ⟨m, ls, a1, a2, a3, a4, a5, a6, a7, h, fun x hx => ?_⟩
  simpa using List.all_eq_true.mp hp x hx

/-- Thread 31 puts the 128 bytes of its line to the second line of span 15, with a counter in the first. -/
def putGrp (ks : List Word) : Group := { blockGrp ks with amask := 0x80000000, lines := [(7, bound 0 false)] }
def wput : WordA := { b := 0, a := 48, d := 0, g := 0, u := false, e := false }
def putOf (g : Group) (op len : Nat) (w : WordA) : Except Trap PutAim :=
  putAim ⟨0, 0, fieldsA op w, g.pc, 4⟩ ((lineState g).issued 0 g (fieldsA op w) 4) g len
def putLine : Group := putGrp [128, 0, 0xFF7FFFFF, 0x700]
theorem witness_PutsAndCounterWaits_put : let g := putLine
    Issues (lineState g) 0 g (fieldsA 0xBD wput) ∧ g.participants 0 = [31] ∧ g.gated = false ∧ g.id.duplex = false ∧ g.eng.unsure = [] ∧
    (g.readK 2).toNat / 65536 % 128 + 1 = 128 ∧ (g.readK 3).toNat / 256 % 8 = 7 ∧ (g.line 7).state = .open_ ∧ (g.line 7).bound.getLsbD 31 = true ∧
    ((g.line 7).off.getD 31 0).toNat + (g.readK 3).toNat % 128 + 128 = 128 ∧ (g.readK 3).toNat < 2048 ∧ (g.readK 3).getLsbD 7 = false ∧
    (lineState g).mach.spadBusy 0 g.uid ((g.line 7).locs.getD ((g.line 7).way.getD 31 0).toNat (.dram 0)) (rangeMask 0 128) = false ∧
    ∀ j, j < 128 → (lineState g).mach.wayBad 0 (g.line 7) ((g.line 7).way.getD 31 0).toNat (0 + j) = false := by decide +kernel
theorem witness_PutsAndCounterWaits_putAim : ∃ a, putOf putLine 0xBD 128 wput = .ok a ∧ a.mach.noRoom putLine.id.ctx a.dst = false := by
  obtain ⟨a, h, hp⟩ := answers (x := putOf putLine 0xBD 128 wput) (p := fun a => !a.mach.noRoom 0 a.dst) (by decide +kernel)
  exact ⟨a, h, (Bool.not_eq_true' _).mp hp⟩

def putWords : Group := putGrp [128, 252, 0xFF008000, 0]
theorem witness_PutsAndCounterWaits_putv : ∃ a, let g := putWords
    (Issues (lineState g) 0 g (fieldsA 0xBE { wput with d := 46 }) ∧ (g.readK 2).toNat / 65536 % 128 + 1 = 1 ∧ g.readK 3 = 0 ∧
      ((g.span ((g.readK 2).toNat / 2 ^ 24 % 16)).ptr + (g.readK 0).signExtend 56).toNat % 128 = 0) ∧
    putOf g 0xBE 128 { wput with d := 46 } = .ok a ∧ a.mach.noRoom g.id.ctx a.dst = false := by
  obtain ⟨a, h, hp⟩ := answers (x := putOf putWords 0xBE 128 { wput with d := 46 }) (p := fun a => !a.mach.noRoom 0 a.dst) (by decide +kernel)
  refine ⟨a, ?_, h, ?_⟩
  · clear h hp; decide +kernel
  · exact (Bool.not_eq_true' _).mp hp

/-- The last word of span 15. -/
theorem witness_PutsAndCounterWaits_cwait : ∃ m l lf, let g := putGrp [252, 1, 15, 0]
    let w : WordA := { wput with e := true }
    let va := (g.span 15).ptr + (g.readK 0).signExtend 56
    Issues (lineState g) 0 g (fieldsA 0xBF w) ∧ (g.readK 2).toNat < 16 ∧ g.readK 3 = 0 ∧ va.toNat % 4 = 0 ∧ (g.span 15).valid = true ∧
    (g.span 15).base.toNat ≤ va.toNat ∧ va.toNat + 4 = (g.span 15).limit.toNat ∧ (g.span 15).perm.getLsbD 0 = true ∧
    ((lineState g).issued 0 g (fieldsA 0xBF w) 4).translate 0 g va = (m, .ok l lf) ∧ lf.rd = true ∧ g.freeze = none ∧ g.stopMark = false := by
  refine ⟨_, _, _, ?_, ?_, ?_, ?_, ?_, ?_, ?_, ?_, rfl, rfl, rfl, rfl⟩ <;> decide +kernel

/-- Sixteen elements of one dimension, known to the cluster's layout cache. -/
def lay (es : Nat) : Layout := { base := 512, pad := 0, stride := [], ext := [16], box := [15], esize := es, ndim := 1, tag := 0 }
def copyMach (c : Core) (es : Nat) : Mach := { world c with
  ctxs := [(0, { state := .live, laycount := 1 })]
  clusters := [(0, { blocks := [(0, blk)], pages := [(0, { state := .alloc }), (1, { state := .alloc })]
                     layouts := [{ ctx := 0, index := 0, record := lay es }] })] }
/-- Channel 15, barrier 15, span 15, offset 0. -/
def copyGrp : Group := blockGrp [0, 0, 0, 0, 0, 0, 0x0F8F0F00, 0]
def wcopy : WordA := { b := 0, a := 48, d := 63, g := 0, u := false, e := false }
/-- Everything that the copy asks for at issue, in turn. -/
def copyChecks (s : State) (g : Group) (op : Nat) (kind : CopyKind) : Except Trap Mach :=
  let f := fieldsA op wcopy
  let k := blockWord g f
  match (s.issued 0 g f 4).layout 0 g (k 0), cwOf (k 6) false with
  | .ok (m, r), some cw =>
    let len := (r.box.foldl (fun n b => n * (b + 1)) 1) * 2 ^ r.esize
    let start := (g.span cw.span).ptr + (k 5).signExtend 56
    let e : CopyEntry :=
      { kind, slot := 0, uid := g.uid, ctx := g.id.ctx, sup := g.id.sup, block := g.id.block, batch := g.batch.bseq
        bar := if cw.cred then some cw.bidx else none, layout := r
        origin := [(k 1).toInt, (k 2).toInt, sextNat (k 3).toNat 16, sextNat ((k 3).toNat >>> 16) 16, sextNat (k 4).toNat 16]
        dir := (k 4).getLsbD 16, span := start, spanTag := (g.span cw.span).tag, other := 0, otherTag := 0, len, done := 0, state := .queued
        ticket := 0, receiver := 0, wslot := none, token := none, stopping := false, gated := false, silent := false, started := false
        seq := g.batch.issued }
    if len ≤ 16777216 ∧ (kind = .tr8 → r.esize = 0) ∧ (kind = .tr16 → r.esize = 1) ∧ (r.box.drop 2).all (· == 0) ∧
        (g.span cw.span).check start.toNat len (if (k 4).getLsbD 16 then 3 else 4) = none then
      match firstPage 0 g m (firstOf e.src len) false with
      | .ok m1 => firstPage 0 g m1 (firstOf e.dst len) true
      | .error x => .error x
    else .error .retry
  | .error x, _ => .error x
  | _, none => .error .retry
theorem witness_CopyRequests :
    ∀ e ∈ [(0xC0, CopyKind.copy, 3), (0xC1, .tr8, 0), (0xC2, .tr16, 1)], let s := stateOf (copyMach (coreOf copyGrp) e.2.2)
      Issues s 0 copyGrp (fieldsA e.1 wcopy) ∧ copyGrp.participants 0 ≠ [] ∧ copyGrp.gated = false ∧ copyGrp.id.duplex = false ∧
      (copyGrp.readK 4).toNat < 131072 ∧ copyGrp.readK 7 = 0 ∧ (copyChecks s copyGrp e.1 e.2.1).toOption.isSome = true ∧
      s.mach.hasBarrier 0 copyGrp 15 = true ∧ ((s.mach.core 0).chan 15).entries.length < 8 ∧ copyGrp.batch.openn ≠ 128 ∧
      ¬(copyGrp.batch.openn = 0 ∧ 8 ≤ copyGrp.batch.sealed) := by decide +kernel
/-- The open batch is full. -/
def fullGrp : Group := { copyGrp with batch := { openn := 128 } }
theorem witness_CopyRequests_full :
    ∀ e ∈ [(0xC0, CopyKind.copy, 3), (0xC1, .tr8, 0), (0xC2, .tr16, 1)], let s := stateOf (copyMach (coreOf fullGrp) e.2.2)
      Issues s 0 fullGrp (fieldsA e.1 wcopy) ∧ (copyChecks s fullGrp e.1 e.2.1).toOption.isSome = true ∧ fullGrp.batch.openn = 128 := by
  decide +kernel

/-- COPY.MC of sixteen bytes under ticket 255 to group 1 of the block, bit 0. -/
def mcGrp : Group := blockGrp [0, 0, 0, 0, 0, 0, 0x0F000FFF, 0x00010001]
def mcState (ts : List Ticket) : State := stateOf { copyMach (coreOf mcGrp) 0 with
  clusters := [(0, { blocks := [(0, blk)], layouts := [{ ctx := 0, index := 0, record := lay 0 }], tickets := ts })] }
def ticket255 (owners : SMap Nat) : Ticket := { id := 511, ctx := 0, len := 16, slot := none, shares := 1, owners }
def mcEntry (s : State) (cw : Cw) : CopyEntry := { newEntry (s.who 0 mcGrp (fieldsA 0xC3 wcopy)) mcGrp .mc cw with
  layout := lay 0, origin := boxOrigin (blockWord mcGrp (fieldsA 0xC3 wcopy)), dir := false }
theorem witness_MulticastAndPlainCopies_mc : ∀ ts ∈ [[], [ticket255 []]], ∃ cw m m1 rs, let s := mcState ts
    Issues s 0 mcGrp (fieldsA 0xC3 wcopy) ∧ mcGrp.participants 0 ≠ [] ∧ mcGrp.gated = false ∧ mcGrp.id.duplex = false ∧
    ((s.mach.core 0).chan cw.chan).entries.length < 8 ∧ cwOf (mcGrp.readK 6) true = some cw ∧ mcGrp.readK 5 = 0 ∧ cw.cred = false ∧
    (mcGrp.readK 7).toNat < 16777216 ∧ (mcGrp.readK 4).toNat < 65536 ∧
    (s.issued 0 mcGrp (fieldsA 0xC3 wcopy) 4).layout 0 mcGrp 0 = .ok (m, lay 0) ∧ s.mach.block? 0 mcGrp = some blk ∧
    ticketId mcGrp blk cw.ticket = 511 ∧ s.mach.receivers 0 mcGrp blk 1 1 = some rs ∧
    firstPage 0 mcGrp m (firstOf (mcEntry s cw).src 16) false = .ok m1 ∧
    (∀ x ∈ rs, (rs.filter (fun y => y.2.core == x.2.core)).length ≤ (s.mach.core x.2.core).estateFree) := by
  intro ts hts
  simp only [List.mem_cons, List.not_mem_nil, or_false] at hts
  rcases hts with rfl | rfl
  all_goals (refine ⟨_, _, _, _, ?_, ?_, ?_, ?_, ?_, rfl, ?_, ?_, ?_, ?_, rfl, rfl, ?_, rfl, rfl, ?_⟩ <;> decide +kernel)

/-- COPY.MC to no group at all. -/
theorem witness_MulticastAndPlainCopies_none : (mcState []).mach.receivers 0 mcGrp blk 0 1 = some [] := by decide +kernel

/-- DRAIN into the scratchpad by the holder of share 0. -/
def drainGrp : Group := { blockGrp [0, 0x0F000FFF] with
  spans := [(15, { valid := true, base := Config.localWindow, ptr := Config.localWindow, limit := Config.localWindow + 16, perm := 0x7F })] }
def drainState (ts : List Ticket) : State := stateOf { copyMach (coreOf drainGrp) 0 with
  clusters := [(0, { blocks := [(0, blk)], pages := [(0, { state := .alloc }), (1, { state := .alloc })], tickets := ts })] }
theorem witness_MulticastAndPlainCopies_drain : ∀ ts ∈ [[], [ticket255 [(0, 1)]]], ∃ cw m1, let s := drainState ts
    let dst := (drainGrp.span 15).ptr + (drainGrp.readK 0).signExtend 56
    Issues s 0 drainGrp (fieldsA 0xC4 wcopy) ∧ cwOf (drainGrp.readK 1) true = some cw ∧ s.mach.block? 0 drainGrp = some blk ∧
    ticketId drainGrp blk cw.ticket = 511 ∧ Config.localWindow ≤ dst.toNat ∧
    (ticket255 [(0, 1)]).owners.find? (fun o => o.2 == drainGrp.uid && (ticket255 [(0, 1)]).shares.getLsbD o.1) = some (0, 1) ∧
    (drainGrp.span cw.span).check dst.toNat 16 4 = none ∧
    firstPage 0 drainGrp (s.issued 0 drainGrp (fieldsA 0xC4 wcopy) 4) (some dst) true = .ok m1 := by
  intro ts hts
  simp only [List.mem_cons, List.not_mem_nil, or_false] at hts
  rcases hts with rfl | rfl
  all_goals (refine ⟨_, _, ?_, rfl, ?_, ?_, ?_, ?_, ?_, rfl⟩ <;> decide +kernel)

/-- COPYL of the first to the second half of span 15. -/
def copylGrp : Group := blockGrp [0, 128, 0x7F0F, 0x0F000F00]
theorem witness_MulticastAndPlainCopies_copyl : ∃ cw m m1, let s := stateOf (copyMach (coreOf copylGrp) 0)
    let src := (copylGrp.span 15).ptr + (copylGrp.readK 0).signExtend 56
    let dst := (copylGrp.span 15).ptr + (copylGrp.readK 1).signExtend 56
    let c := (copylGrp.readK 2).toNat
    Issues s 0 copylGrp (fieldsA 0xC5 wcopy) ∧ cwOf (copylGrp.readK 3) false = some cw ∧ c / 16 % 16 = 0 ∧
    (copylGrp.span cw.span).check src.toNat (c / 256 + 1) 3 = none ∧ (copylGrp.span (c % 16)).check dst.toNat (c / 256 + 1) 4 = none ∧
    firstPage 0 copylGrp (s.issued 0 copylGrp (fieldsA 0xC5 wcopy) 4) (some src) false = .ok m ∧
    firstPage 0 copylGrp m (some dst) true = .ok m1 := by
  refine ⟨_, _, _, ?_, rfl, ?_, ?_, ?_, rfl, rfl⟩ <;> decide +kernel

/-- A sealed batch is unfinished, and nothing is outstanding. -/
def batchGrp (n : Nat) : Group := { grp with batch := { bseq := 1, bdone := 0, openn := n, counts := [(0, 1), (1, 0)] } }
theorem witness_BatchWords :
    Issues (issuing (batchGrp 0)) 0 (batchGrp 0) (fieldsA 0xC6 wnone) ∧ (batchGrp 0).batch.openn = 0 ∧
    Issues (issuing (batchGrp 1)) 0 (batchGrp 1) (fieldsA 0xC6 wnone) ∧ (batchGrp 1).participants 0 ≠ [] ∧ (batchGrp 1).batch.openn ≠ 0 ∧
    (batchGrp 1).batch.bdone ≠ (batchGrp 1).batch.bseq + 1 ∧ (batchGrp 1).batch.counts.getD (batchGrp 1).batch.bdone.toNat 0 ≠ 0 ∧
    (let g : Group := { grp with batch := { bseq := 255, bdone := 255, openn := 1, counts := [] } }
     Issues (issuing g) 0 g (fieldsA 0xC6 wnone) ∧ g.batch.bdone = g.batch.bseq ∧ g.batch.counts.getD g.batch.bseq.toNat 0 = 0) ∧
    (∀ b : Bool, let n : BitVec 12 := if b then 1 else 0
      Issues (issuing (batchGrp 1)) 0 (batchGrp 1) (fieldsI 0xC7 { wi with d := 0, imm := n, e := true })) ∧
    ((batchGrp 1).batch.bseq - (batchGrp 1).batch.bdone).toNat = 1 ∧
    Issues (issuing grp) 0 grp (fieldsI 0xC8 { wi with d := 44, imm := 15 }) := by decide +kernel

/-- Ring and barrier 15, status to k15, or ring and barrier 14 that the block has not. -/
def wring (j : Nat) : WordI := { imm := BitVec.ofNat 12 (j + 16 * 63), d := 48, g := 0, u := false, e := true }
def wbar (j : Nat) : WordI := { imm := BitVec.ofNat 12 (j + 16 * 63), d := 0, g := 0, u := false, e := true }
theorem witness_RingAndBarrierRequests :
    let s := stateOf (world (coreOf grp))
    grp.id.sup = false ∧ s.mach.block? 0 grp = some blk ∧ grp.participants 0 ≠ [] ∧
    (blk.rings.get? 15).isSome = true ∧ (blk.bars.get? 15).isSome = true ∧ blk.rings.get? 14 = none ∧ blk.bars.get? 14 = none ∧
    ∀ j ∈ [14, 15], Issues s 0 grp (fieldsI 0xC9 (wring j)) ∧ Issues s 0 grp (fieldsI 0xCA (wring j)) ∧ Issues s 0 grp (fieldsI 0xCB (wring j)) ∧
      Issues s 0 grp (fieldsI 0xCC (wring j)) ∧ Issues s 0 grp (fieldsI 0xCD (wbar j)) ∧ Issues s 0 grp (fieldsI 0xCE (wbar j)) ∧
      Issues s 0 grp (fieldsI 0xCF (wring j)) := by decide +kernel

/-- An engine block over span 15: M8 by M8, one K-block, rows on top of one another; the handle in k14, the status in k15. -/
def mmaBlock (sc : Bool) : List Word := [0, 0, 0, 0, 0x000000FF, 0, 0, if sc then 15 else 0]
def engGrp (ks : List Word) (h : Word) (gang : BitVec 64 := 0) : Group := { blockGrp ks with
  k := ks.mapIdx (fun i x => (i, x)) ++ [(14, h)], gang, id := { grp.id with role := .matrix } }
def wmma : WordA := { b := 63, a := 48, d := 62, g := 0, u := false, e := false }
def engState (g : Group) (acc : SMap AccSlot) : State := stateOf (world { coreOf g with acc })
/-- Slot 15 LIVE under this tag, in generation 4095. -/
def slot15 (tag : FTag) : SMap AccSlot := [(15, { gen := 4095, ftag := tag, live := true })]
theorem witness_EngineRequests_new :
    ∀ sc : Bool, let g := engGrp (mmaBlock sc) 0x80000000
      Issues (engState g []) 0 g (fieldsA (if sc then 0xD1 else 0xD0) wmma) ∧ g.participants 0 ≠ [] ∧ ((engState g []).mach.core 0).latches = [] ∧
      (mmaAim sc g (blockWord g (fieldsA (if sc then 0xD1 else 0xD0) wmma))).toOption.isSome = true ∧ g.gang.toNat % 8 = 0 ∧
      ((engState g []).mach.core 0).engine.length < 8 ∧ g.eng.opnd = none ∧ g.reg wmma.d 0 = 0x80000000 ∧
      ((engState g []).mach.core 0).estateFree ≠ 0 ∧ ((engState g []).mach.core 0).freeSlot g.id.harvest = some 0 := by decide +kernel
theorem witness_EngineRequests_handle :
    ∀ sc : Bool, let g := engGrp (mmaBlock sc) (handleOf 0 4095 15)
      ∀ same : Bool, let tag : FTag := if same then 3 else 1
      Issues (engState g (slot15 tag)) 0 g (fieldsA (if sc then 0xD1 else 0xD0) wmma) ∧
      g.reg wmma.d 0 ≠ 0x80000000 ∧ (engState g (slot15 tag)).mach.handleSlot 0 (g.reg wmma.d 0) = some 15 ∧
      (((engState g (slot15 tag)).mach.core 0).slot 15).ftag = tag ∧ pairTag ((g.readK 4).toNat / 256 % 16) = 3 := by decide +kernel
/-- A handle of no LIVE slot, and the handle NEW with all sixteen slots LIVE. -/
theorem witness_EngineRequests_refused :
    ∀ sc new : Bool, let g := engGrp (mmaBlock sc) (if new then 0x80000000 else handleOf 0 4095 14)
      let s := engState g (if new then (List.range 16).map (fun i => (i, { live := true })) else slot15 3)
      Issues s 0 g (fieldsA (if sc then 0xD1 else 0xD0) wmma) ∧ (mmaAim sc g (blockWord g (fieldsA (if sc then 0xD1 else 0xD0) wmma))).toOption.isSome = true ∧
      g.gang.toNat % 8 = 0 ∧ (s.mach.core 0).engine.length < 8 ∧ g.eng.opnd = none ∧ (g.reg wmma.d 0 = 0x80000000 ↔ new = true) ∧
      (if new then (s.mach.core 0).estateFree ≠ 0 ∧ (s.mach.core 0).freeSlot g.id.harvest = none else s.mach.handleSlot 0 (g.reg wmma.d 0) = none) := by decide +kernel
theorem witness_EngineRequests_gang :
    ∀ sc broken : Bool, let g := engGrp (mmaBlock sc) 0x80000000 (if broken then 0x3020112 else 0x3020102)
      Issues (engState g []) 0 g (fieldsA (if sc then 0xD1 else 0xD0) wmma) ∧
      (mmaAim sc g (blockWord g (fieldsA (if sc then 0xD1 else 0xD0) wmma))).toOption.isSome = true ∧ 2 ≤ g.gang.toNat % 8 ∧
      g.id.copyIndex = false ∧ ((engState g []).mach.core 0).estateFree ≠ 0 := by decide +kernel
/-- MHAD and MQNT on rows of 32 elements. -/
theorem witness_EngineRequests_mhad : let g := engGrp [0, 0, 0x0000000F, 0] 0
    Issues (engState g []) 0 g (fieldsA 0xD2 { wmma with d := 0 }) ∧
    (mhadAim g (blockWord g (fieldsA 0xD2 { wmma with d := 0 }))).toOption.isSome = true := by decide +kernel
theorem witness_EngineRequests_mqnt : let g := engGrp [0, 0, 0, 0, 0, 0x00000FFF, 0, 0] 0
    Issues (engState g []) 0 g (fieldsA 0xD3 { wmma with d := 0 }) ∧
    (mqntAim g (blockWord g (fieldsA 0xD3 { wmma with d := 0 }))).toOption.isSome = true := by decide +kernel

/-- ACCZ with the tag in k0, the handle to v46 and the status to k15. -/
def waccz : WordA := { b := 63, a := 48, d := 46, g := 0, u := false, e := false }
def tagged (x : Word) : Group := { grp with k := [(0, x)], id := { grp.id with role := .matrix } }
theorem witness_AccumulatorWords_accz :
    (∀ n ∈ [0, 1, 3], let x := BitVec.ofNat 32 n
      Issues (engState (tagged x) []) 0 (tagged x) (fieldsA 0xD8 waccz) ∧ (tagged x).participants 0 ≠ [] ∧
      ((engState (tagged x) []).mach.core 0).estateFree ≠ 0 ∧ ((engState (tagged x) []).mach.core 0).freeSlot false = some 0) ∧
    (let acc : SMap AccSlot := (List.range 16).map (fun i => (i, { live := true }))
     Issues (engState (tagged 3) acc) 0 (tagged 3) (fieldsA 0xD8 waccz) ∧ ((engState (tagged 3) acc).mach.core 0).freeSlot false = none) := by
  decide +kernel
/-- Element words at the last row and quarter of slot 15. -/
def accGrp (one : Bool) : Group := { grp with
  k := [(0, handleOf 0 4095 15), (1, if one then 0x37F else 0x7F)], id := { grp.id with role := .vector } }
def wacc : WordA := { b := 47, a := 48, d := 40, g := 0, u := false, e := false }
theorem witness_AccumulatorWords_elements :
    ∀ e ∈ [(0xD6, true), (0xDE, false), (0xD7, true), (0xDB, false)],
      let g := accGrp e.2
      let s := engState g (slot15 3)
      Issues s 0 g (fieldsA e.1 wacc) ∧ (g.readK 1).toNat < 1024 ∧ (g.readK 1).toNat / 128 % 2 = 0 ∧ (e.2 = false → (g.readK 1).toNat < 256) ∧
      s.mach.handleSlot 0 (g.readK 0) = some 15 ∧ s.mach.accUnsure 0 g 15 = false ∧ ((s.mach.core 0).slot 15).bad = [] ∧
      (∀ x, x < 4 → g.tagV (40 + x) = 0) := by decide +kernel
/-- A slot held by an estate entry, and a handle of another generation. -/
def slotHolding : Estate := { kind := 2, hmem := 0, hslot := 0, uid := 1, heir := 0, hidx := 0, brv := false, order := 0, key := slotKey 4095 15 }
theorem witness_AccumulatorWords_mrel :
    ∀ same : Bool, let gen : BitVec 12 := if same then 4095 else 4094
      let g := tagged (handleOf 0 gen 15)
      let s := stateOf (world { coreOf g with acc := slot15 3, estate := [(0, slotHolding)] })
      Issues s 0 g (fieldsA 0xD5 { wacc with b := 0, d := 63 }) ∧
      s.mach.handleSlot 0 (g.reg 48 0) = (if same then some 15 else none) ∧
      (s.mach.holdings 0 1).find? (fun e => e.1 == 0 && e.2.2.kind == 2 && e.2.2.key == slotKey ((s.mach.core 0).slot 15).gen 15) =
        some (0, 0, slotHolding) ∧ (s.mach.core 0).slotInUse 15 = false := by decide +kernel

def mgrp (out : Nat) : Group := { grp with eng := { out }, id := { grp.id with role := .matrix } }
/-- A block of two matrix groups, with the members 0 and 1 in k0 and the count in k1. -/
def gangGrp (k0 k1 : Word) : Group := { tagged k0 with k := [(0, k0), (1, k1)] }
def gangBlk (gone : Bool) : Block := { blk with
  members := [(0, { core := 0, slot := 0, uid := 1, role := .matrix }), (1, { core := 0, slot := 1, uid := 2, role := .matrix, gone })] }
def gangState (g : Group) (gone : Bool) : State := stateOf { world (coreOf g) with clusters := [(0, { blocks := [(0, gangBlk gone)] })] }
theorem witness_EngineViews_wait :
    ∀ out ∈ [0, 1], Issues (issuing (mgrp out)) 0 (mgrp out) (fieldsI 0xD4 { wi with d := 0, imm := 0, e := true }) := by decide +kernel
theorem witness_EngineViews_read :
    Issues (issuing (mgrp 15)) 0 (mgrp 15) (fieldsA 0xDA { wnone with d := 46 }) ∧
    Issues (issuing (mgrp 15)) 0 (mgrp 15) (fieldsA 0xDD { wnone with d := 46 }) ∧ (mgrp 15).eng.out < 16 ∧
    ((issuing (mgrp 15)).mach.core 0).engine = [] ∧
    Issues (issuing (mgrp 15)) 0 (mgrp 15) (fieldsA 0xDF { wnone with d := 63 }) ∧ ((issuing (mgrp 15)).mach.core 0).latches = [] ∧
    Issues (issuing (mgrp 15)) 0 (mgrp 15) (fieldsA 0xDC wnone) := by decide +kernel
theorem witness_EngineViews_gang :
    (∀ gone : Bool, let g := gangGrp 0x0100 0x20000
      Issues (gangState g gone) 0 g (fieldsA 0xD9 { wnone with a := 48, d := 63 }) ∧ (gangState g gone).mach.block? 0 g = some (gangBlk gone) ∧
      (g.readK 1).toNat < 8 * 65536 ∧ (gangBlk gone).gone 1 = gone) ∧
    (let g := gangGrp 0x0100 0x70000
     Issues (gangState g false) 0 g (fieldsA 0xD9 { wnone with a := 48, d := 63 }) ∧ (g.readK 1).toNat < 8 * 65536 ∧
     ¬((g.readK 1).toNat / 65536 ≤ 6)) := by decide +kernel

/-- An object word whose block names span 15 at the last aligned 8 bytes, mode and rule in k1. -/
def objGrp (k1 : Word) (k2 : Word := 0) (k3 : Word := 0) : Group := blockGrp [248, k1, k2, k3]
def wobj : WordA := { b := 0, a := 48, d := 63, g := 0, u := false, e := false }
/-- The group holds the object for writing. -/
def heldObj : Estate := { kind := 0, hmem := 0, hslot := 0, uid := 1, heir := 0, hidx := 0, brv := false, order := 0, key := 504 }
def objState (g : Group) (held : Bool) : State := stateOf (world { coreOf g with estate := if held then [(0, heldObj)] else [] })
abbrev objAim (s : State) (g : Group) (op : Nat) (w : WordA) : Except Trap (Mach × Loc) :=
  objectAim (s.who 0 g (fieldsA op w)) (s.issued 0 g (fieldsA op w) 4) g (g.span 15) ((g.span 15).ptr + (blockWord g (fieldsA op w) 0).signExtend 56) 2
theorem witness_OwnershipRequests_acq : ∀ mode ∈ [0, 1, 2], ∀ held : Bool, ∃ m l,
    let g := objGrp (BitVec.ofNat 32 (256 * mode + 95))
    let s := objState g held
    Issues s 0 g (fieldsA 0xE0 wobj) ∧ g.participants 0 ≠ [] ∧ g.gated = false ∧ g.id.duplex = false ∧ g.id.copyIndex = false ∧
    (g.readK 1).toNat < 768 ∧ (g.readK 1).toNat / 128 % 2 = 0 ∧ (g.readK 1).toNat / 16 % 8 < 6 ∧ inWindows ((g.span 15).ptr + (g.readK 0).signExtend 56) = false ∧
    objAim s g 0xE0 wobj = .ok (m, l) ∧ (s.mach.holding? 0 1 0 504).isSome = held ∧ (s.mach.core 0).estateFree ≠ 0 := by
  intro mode hm held
  obtain ⟨⟨m, l⟩, h, -⟩ := answers (x := objAim (objState (objGrp (BitVec.ofNat 32 (256 * mode + 95))) held) (objGrp (BitVec.ofNat 32 (256 * mode + 95))) 0xE0 wobj)
    (p := fun _ => true) (by revert mode; cases held <;> decide +kernel)
  have h1 : let g := objGrp (BitVec.ofNat 32 (256 * mode + 95))
    let s := objState g held
    Issues s 0 g (fieldsA 0xE0 wobj) ∧ g.participants 0 ≠ [] ∧ g.gated = false ∧ g.id.duplex = false ∧ g.id.copyIndex = false ∧
    (g.readK 1).toNat < 768 ∧ (g.readK 1).toNat / 128 % 2 = 0 ∧ (g.readK 1).toNat / 16 % 8 < 6 ∧ inWindows ((g.span 15).ptr + (g.readK 0).signExtend 56) = false ∧
    (s.mach.holding? 0 1 0 504).isSome = held ∧ (s.mach.core 0).estateFree ≠ 0 := by clear h; revert mode; cases held <;> decide +kernel
  exact ⟨m, l, h1.1, h1.2.1, h1.2.2.1, h1.2.2.2.1, h1.2.2.2.2.1, h1.2.2.2.2.2.1, h1.2.2.2.2.2.2.1, h1.2.2.2.2.2.2.2.1, h1.2.2.2.2.2.2.2.2.1, h, h1.2.2.2.2.2.2.2.2.2⟩
/-- A release of rule 5, and a promise. -/
theorem witness_OwnershipRequests_rel : ∀ e ∈ [(0xE1, 95), (0xE5, 15)], ∃ m l, let g := objGrp (BitVec.ofNat 32 e.2)
    let s := objState g false
    Issues s 0 g (fieldsA e.1 wobj) ∧ (g.readK 1).toNat = e.2 ∧ inWindows ((g.span 15).ptr + (g.readK 0).signExtend 56) = false ∧
    objAim s g e.1 wobj = .ok (m, l) := by
  intro e he
  obtain ⟨⟨m, l⟩, h, -⟩ := answers (x := objAim (objState (objGrp (BitVec.ofNat 32 e.2)) false) (objGrp (BitVec.ofNat 32 e.2)) e.1 wobj)
    (p := fun _ => true) (by revert e; decide +kernel)
  have h1 : let g := objGrp (BitVec.ofNat 32 e.2)
    let s := objState g false
    Issues s 0 g (fieldsA e.1 wobj) ∧ (g.readK 1).toNat = e.2 ∧ inWindows ((g.span 15).ptr + (g.readK 0).signExtend 56) = false := by
    clear h; revert e; decide +kernel
  exact ⟨m, l, h1.1, h1.2.1, h1.2.2, h⟩
/-- A fence of scope 0 or 5; a binding of the whole of span 15 to its last 8 bytes. -/
theorem witness_OwnershipRequests_fence :
    (∀ n ∈ [0, 5], Issues (issuing grp) 0 grp (fieldsI 0xE4 { wi with d := 63, imm := BitVec.ofNat 12 n })) ∧
    (∀ op ∈ [0xE2, 0xE3], let g := objGrp 0 256 0xFF
      Issues (objState g false) 0 g (fieldsA op wobj) ∧ (g.readK 3).toNat < 256 ∧ ((g.span 15).ptr + (g.readK 0).signExtend 56).toNat % 8 = 0 ∧
      (g.span 15).check 504 8 2 = none ∧ (g.span 15).bounds 256 256 = none) := by decide +kernel

/-- A group with these four words in k0 to k3 and a holding of this kind and key. -/
def estState (g : Group) (es : List (Nat × BitVec 64)) (c : Ctx := { state := .live }) : State :=
  stateOf { world { coreOf g with estate := es.mapIdx (fun i e => (i, { heldObj with kind := e.1, key := e.2, order := BitVec.ofNat 32 i }))
                                  claims := [(0, { spad := false, line := .dram 384, holder := 0, uid := 1 })] } with ctxs := [(0, c)] }
/-- The default heir, the heir of nothing, and the heir of every holding; member 1 of the block. -/
theorem witness_EstateWords_heir :
    ∀ e ∈ [(0x80000101, []), (0x80000003, []), (0x00000101, []), (0x40000101, [(6, 64), (1, 504)])],
      let g := blockGrp [BitVec.ofNat 32 e.1, 0, 0, 0]
      let s := estState g e.2
      Issues s 0 g (fieldsA 0xE6 wobj) ∧ g.participants 0 ≠ [] ∧ (g.readK 0).toNat = e.1 ∧ g.readK 1 = 0 ∧ g.readK 2 = 0 ∧ g.readK 3 = 0 ∧
      e.1 / 65536 % 16384 = 0 ∧ e.1 / 8 % 32 = 0 ∧ e.1 % 8 < 4 ∧ 1 ≠ g.id.gindex ∧ s.mach.block? 0 g = some blk ∧ 1 < blk.members.length ∧
      ((s.mach.holdings 0 1).length = e.2.length) := by decide +kernel
theorem witness_EstateWords_hold : ∀ isHeld : Bool, let g := blockGrp [248, 15]
    let s := estState g (if isHeld then [(6, 504)] else [])
    Issues s 0 g (fieldsA 0xE7 wobj) ∧ (g.readK 1).toNat < 16 ∧ (g.span 15).bounds 504 8 = none ∧
    (s.mach.holding? 0 1 6 504).isSome = isHeld ∧ g.id.copyIndex = false ∧ (s.mach.core 0).estateFree ≠ 0 := by decide +kernel
/-- A hold, a claim of the line at 384 and a promise at 504; the object 496 owns the promise's bytes, or nothing does. -/
def wrelinq : WordA := { b := 51, a := 48, d := 63, g := 0, u := false, e := false }
theorem witness_EstateWords_relinq : let kinds : List (Nat × BitVec 64) := [(6, 504), (4, 0), (1, 504)]
    (∀ isHeld : Bool, let g := blockGrp [248, 111, 0, 7]
      let s := estState g (if isHeld then kinds else [])
      Issues s 0 g (fieldsA 0xE8 wrelinq) ∧ (g.readK 1).toNat / 16 = 6 ∧ s.mach.holding? 0 1 6 504 = (if isHeld then some (0, 0, { heldObj with kind := 6 }) else none)) ∧
    (let g := blockGrp [248, 79, 0, 7]
     let s := estState g kinds
     Issues s 0 g (fieldsA 0xE8 wrelinq) ∧ (g.readK 1).toNat / 16 = 4 ∧ s.mach.claimOn 0 g (.dram 384) = some (0, 0) ∧ g.writesLine 8 (.dram 384) = false ∧
     (match (s.issued 0 g (fieldsA 0xE8 wrelinq) 4).access 0 g 504 1 (fun _ => true) with | .ok x => x.2.1.line == .dram 384 | .error _ => false) = true) ∧
    (∀ bound : Bool, let g := blockGrp [248, 31, 0, 7]
     let s := estState g kinds { state := .live, bindings := if bound then [(0, { obj := 496, limit := 512, base := 256 })] else [] }
     Issues s 0 g (fieldsA 0xE8 wrelinq) ∧ (g.readK 1).toNat / 16 = 1 ∧ (s.mach.holding? 0 1 1 504).isSome = true ∧
     s.mach.ownerOf g 504 = (if bound then some 496 else none) ∧
     (match (s.issued 0 g (fieldsA 0xE8 wrelinq) 4).access 0 g 504 2 (fun _ => true) with
      | .ok x => match x.1.access 0 g 496 2 (fun _ => true) with | .ok _ => true | .error _ => false
      | .error _ => false) = true) := by decide +kernel
theorem witness_EstateWords_estat : let g := blockGrp []
    let s := estState g [(6, 504), (1, 504)]
    (∀ d ∈ [40, 48], Issues s 0 g (fieldsA 0xE9 { wobj with a := 0, d := BitVec.ofNat 6 d })) ∧ (s.mach.holdings 0 1).length = 2 := by decide +kernel

/-- Thread 31 with line register 7, and these four words in k0 to k3 for a block. -/
def taskGrp (ks : List Word) : Group := { blockGrp ks with amask := 0x80000000, lines := [(7, bound 0 false)] }
def aLaunch : Launch :=
  { queue := 0, entryVa := 0, ctx := 0, compaddr := 504, compseq := 1, depseq := 0, track := false, cscope := 0
    record := { spans := [], kargs := [], depmap := [], rings := [], bars := [], ext := [], widths := [], clev := 0, blev := 0, kid := 0, entry := 0, dict := 0
                cpool := 0, recov := 0, spad := 0, dsize := 0, valloc := 47, nvec := 1, nmat := 0, ncopy := 0, flags := 0, words := [], reservedSet := false } }
/-- With a launch whose object is at 504, or with none; context 0 has cluster 31 as its cluster 31. -/
def taskState (g : Group) (launch : Bool) : State := stateOf { world { coreOf g with frames := [(12287, frame0)] } with
  ctxs := [(0, { state := .live, cmap := [(31, 31)] })], launches := if launch then [(0, aLaunch)] else [] }
def wtask : WordA := { b := 50, a := 48, d := 51, g := 0, u := false, e := true }
def wtask0 : WordA := { wtask with b := 0 }
/-- A word at the last four bytes of span 15. -/
theorem witness_WaitsAndTasks_words : let g := taskGrp [252, 15]
    let s := taskState g false
    g.participants 0 ≠ [] ∧ g.gated = false ∧ g.id.duplex = false ∧
    Issues s 0 g (fieldsA 0xEA wtask) ∧
    (wordAim (s.who 0 g (fieldsA 0xEA wtask)) (s.issued 0 g (fieldsA 0xEA wtask) 4) g 0 0 (fun l => l.rd)).toOption.isSome = true ∧
    Issues s 0 g (fieldsA 0xEB wtask0) ∧
    (wordAim (s.who 0 g (fieldsA 0xEB wtask0)) (s.issued 0 g (fieldsA 0xEB wtask0) 4) g 1 1 (fun l => l.w)).toOption.isSome = true := by decide +kernel
/-- A task of the last 44 bytes of the line, to cluster 31 or to the group's own. -/
theorem witness_WaitsAndTasks_enq : ∀ launch named : Bool, let g := taskGrp [0, 1, if named then 0x3F5407 else 0x005407, 0]
    let s := taskState g launch
    Issues s 0 g (fieldsA 0xEC { wtask with b := 63 }) ∧ (g.readK 2).toNat < 4194304 ∧ (g.readK 2).toNat / 32768 % 2 = 0 ∧ (g.readK 2).toNat / 8 % 32 = 0 ∧
    g.readK 3 = 0 ∧ (match taskAim g 7 84 false 31 with | .ok x => x == (0, 84) | .error _ => false) = true ∧
    ((g.readK 2).toNat / 2097152 = 1 ↔ named = true) ∧ s.mach.physical 0 0 31 = some 31 ∧ s.mach.badAccess 0 (g.line 7) 44 [(31, 0, 84)] = none ∧
    s.mach.waysBusy 0 g.uid (g.line 7) 44 [(31, 0, 84)] = false ∧
    s.mach.launchObject g = (if launch then some 504 else none) ∧
    (implicitRelease (s.who 0 g (fieldsA 0xEC { wtask with b := 63 })) (s.issued 0 g (fieldsA 0xEC { wtask with b := 63 }) 4) g (s.mach.launchObject g)).toOption.isSome = true := by
  decide +kernel
theorem witness_WaitsAndTasks_deq : let g := taskGrp [0x5407, 0]
    Issues (taskState g false) 0 g (fieldsA 0xED wtask) ∧ (g.readK 0).toNat < 32768 ∧ (g.readK 0).toNat / 8 % 32 = 0 ∧ g.readK 1 = 0 ∧
    (match taskAim g 7 84 true 31 with | .ok x => x == (0, 84) | .error _ => false) = true ∧ ((taskState g false).mach.core 0).estateFree ≠ 0 := by decide +kernel
/-- A handle of cluster 31, and one of a cluster the context has not. -/
theorem witness_WaitsAndTasks_handles : ∀ there launch : Bool, ∀ op ∈ [0xEE, 0xEF], let g := taskGrp [if there then 0xF8000000 else 0xF0000000]
    let s := taskState g launch
    let w : WordA := { wtask with b := if op = 0xEE then 0 else 50, e := false }
    Issues s 0 g (fieldsA op w) ∧ s.mach.physical 0 0 ((g.reg w.a 31).toNat / 2 ^ 27) = (if there then some 31 else none) ∧
    (implicitRelease (s.who 0 g (fieldsA op w)) (s.issued 0 g (fieldsA op w) 4) g (s.mach.launchObject g)).toOption.isSome = true := by decide +kernel

def noCore : Core := { groups := [], lanes := [] }
/-- The supervisor group with these words from k0 issues; group g is in slot 0 of the core. -/
def supHere (g : Group) (ks : List Word) (c : Core := noCore) (x : Ctx := { state := .live }) : State :=
  stateOf { world { c with groups := [(0, g), (1280, blockSup ks)], lanes := [(0, { issuing := some 1280 })] } with ctxs := [(0, x)] }
def rec0 (slot : Nat) (seq : Word) (taken : Bool) : MboxRec :=
  { kw := [1, 2, 3, 4], pc := 0x1000, addr := 0, amask := 1, code := 15, seq, slot, ctx := 0, vfirst := 0, vcount := 0, kind := 1, taken }
theorem witness_SupervisorReaders_mailbox :
    (∀ box ∈ [[], [(3, rec0 0 1 true)]], let s := supHere halted [] { noCore with mbox := box }
      Issues s 1280 (blockSup []) (fieldsA 0xF0 { wb with a := 0, b := 0 }) ∧ (blockSup []).participants 0 ≠ [] ∧ (∀ e ∈ box, e.2.taken = true)) ∧
    (let s := supHere halted [] { noCore with mbox := [(0, rec0 0 9 false), (1, rec0 0 3 true), (15, rec0 1 8 false)] }
     Issues s 1280 (blockSup []) (fieldsA 0xF0 { wb with a := 0, b := 0 }) ∧ (s.mach.core 0).posted = some (15, rec0 1 8 false)) ∧
    (∀ mode ∈ [0, 1, 2], let ks := [15, BitVec.ofNat 32 mode]
      let s := supHere halted ks { noCore with mbox := [(15, rec0 0 8 true)] }
      Issues s 1280 (blockSup ks) (fieldsA 0xF1 ws) ∧ ((blockSup ks).reg ws.a 0).toNat = 15 ∧ ((blockSup ks).reg ws.b 0).toNat = mode ∧
      (s.mach.core 0).mbox.get? 15 = some (rec0 0 8 true) ∧ (s.mach.core 0).stopList = [] ∧ s.mach.group? 0 0 = some halted ∧ halted.state = .stopped ∧
      halted.freeze = none ∧ halted.stopMark = false ∧ halted.inReserve = false ∧ halted.parking = false ∧ halted.atSafe = false ∧
      halted.recovers = false ∧ halted.xlatFailed = none ∧ halted.owed = none) := by decide +kernel
/-- The words that name register idx of class cls, of thread u, of the group in slot 0. -/
def regKs (e : Nat × Nat × Nat) : List Word := [0, BitVec.ofNat 32 (16 * e.2.1 + e.1 + 65536 * e.2.2)]
/-- What RDG and WRG ask of a named register: that the words aim at it in this group. -/
abbrev Aims (x : Group) (op : Nat) (e : Nat × Nat × Nat) : Prop :=
  Issues (supHere x (regKs e)) 1280 (blockSup (regKs e)) (fieldsA op { ws with d := 56 }) ∧ ((blockSup (regKs e)).readK 1).toNat < 2 ^ 21 ∧
    ((blockSup (regKs e)).readK 1).toNat / 4096 % 16 = 0 ∧ rdgBad x e.1 e.2.1 e.2.2 = false ∧
    ((supHere x (regKs e)).issued 1280 (blockSup (regKs e)) (fieldsA op { ws with d := 56 }) 4).regAim 0 ((blockSup (regKs e)).readK 0) ((blockSup (regKs e)).readK 1) =
      some (0, x, e.1, e.2.1, e.2.2)
/-- Every class of register of the stopped group, at its highest index. -/
theorem witness_SupervisorReaders_registers :
    (∀ e ∈ [(0, 46, 31), (1, 15, 0), (2, 0, 31), (3, 46, 0), (4, 125, 0), (5, 62, 0), (5, 63, 31), (6, 1, 0), (7, 0, 0), (8, 0, 0), (9, 0, 0), (9, 1, 0), (10, 0, 0),
      (10, 1, 0), (10, 17, 0), (11, 0, 0), (11, 1, 0), (11, 2, 0), (12, 0, 0), (12, 1, 0), (12, 2, 0), (12, 3, 0)], Aims halted 0xF2 e) ∧
    (∀ e ∈ [(0, 46, 31), (1, 15, 0), (2, 0, 31), (3, 46, 0), (4, 125, 0), (6, 1, 0)], Aims halted 0xF3 e) ∧
    halted.valloc = 47 ∧ halted.sb = 0 ∧ halted.state ≠ .preempted ∧ (halted.line 7).lines = [] ∧ (supHere halted []).mach.group? 0 0 = some halted := by
  refine ⟨?_, ?_, by decide +kernel⟩ <;> decide +kernel
/-- The indices just outside each class and the classes beyond 12; registers that WRG does not write, and one of a group with every bit pending. -/
theorem witness_SupervisorReaders_outside :
    (∀ op ∈ [0xF2, 0xF3], ∀ e ∈ [(0, 47, 0), (1, 16, 0), (2, 1, 0), (3, 47, 0), (4, 128, 0), (4, 6, 0), (5, 64, 0), (6, 2, 0), (7, 1, 0), (8, 1, 0), (9, 2, 0), (10, 18, 0),
      (11, 3, 0), (12, 4, 0), (13, 0, 0), (15, 255, 0)], Aims halted op e) ∧
    (∀ e ∈ [(5, 0, 0), (7, 0, 0)], Aims halted 0xF3 e) ∧
    (let x := { halted with sb := BitVec.allOnes 96 }
     (∀ e ∈ [(0, 46, 31), (1, 15, 0), (2, 0, 31), (3, 46, 0)], Aims x 0xF3 e) ∧ ∀ i ∈ [46, 63, 71], x.sb.getLsbD i = true) := by
  refine ⟨?_, ?_, ?_⟩ <;> decide +kernel
/-- A register word with a bit that R309 calls zero, and a group that is not stopped. -/
theorem witness_SupervisorReaders_illegal :
    ∀ k1 ∈ [0x200000, 0x1000], ∀ op ∈ [0xF2, 0xF3], let ks := [0, BitVec.ofNat 32 k1]
      Issues (supHere halted ks) 1280 (blockSup ks) (fieldsA op { ws with d := 56 }) ∧ (blockSup ks).id.sup = true ∧
      ¬(((blockSup ks).readK 1).toNat < 2 ^ 21 ∧ ((blockSup ks).readK 1).toNat / 4096 % 16 = 0) := by decide +kernel
theorem witness_SupervisorReaders_none :
    (let s := supHere grp [0, 1]
     Issues s 1280 (blockSup [0, 1]) (fieldsA 0xF2 { ws with d := 56 }) ∧
     (s.issued 1280 (blockSup [0, 1]) (fieldsA 0xF2 { ws with d := 56 }) 4).regAim 0 ((blockSup [0, 1]).readK 0) ((blockSup [0, 1]).readK 1) = none) := by decide +kernel
def fqe (seq : Word) : FqEntry := { vaddr := 0x10000, aux := 0, count := 1, slot := some 0, pcore := 0, kind := 1, acc := 0, seq, tokens := [7] }
def asleep : Group := { grp with state := .ready, wait := some (.xlat 7 0 false false) }
theorem witness_SupervisorReaders_queues :
    (∀ pages ∈ [0, 1], let ks := [0, 0x10000, 0, BitVec.ofNat 32 pages]
      Issues (supHere grp ks) 1280 (blockSup ks) (fieldsA 0xF7 { ws with b := 0 }) ∧ (supHere grp ks).mach.jobs = [] ∧ (supHere grp ks).mach.queues = []) ∧
    (∀ q ∈ [[], [fqe 4]], let s := supHere grp [0] noCore { state := .live, fq := q }
      Issues s 1280 (blockSup [0]) (fieldsA 0xF8 { wb with b := 0 }) ∧ (∃ x, s.mach.ctxs.get? 0 = some x ∧ x.state ≠ .free ∧ x.fqcons = false ∧ x.fq = q ∧ x.unposted = [])) ∧
    (∀ seq ∈ [4, 5], let ks := [BitVec.ofNat 32 seq, 0]
      let s := supHere asleep ks noCore { state := .live, popped := [fqe 4] }
      Issues s 1280 (blockSup ks) (fieldsA 0xF9 ws) ∧ s.mach.queues = [] ∧ s.mach.jobs = [] ∧ s.mach.group? 0 0 = some asleep ∧
      ([fqe 4].find? (fun e => e.seq == (blockSup ks).reg 48 0)) = (if seq = 4 then some (fqe 4) else none)) := by
  refine ⟨by decide +kernel, fun q _ => ⟨⟨rfl, by decide +kernel, by decide +kernel, rfl, rfl⟩, _, rfl, nofun, rfl, rfl, rfl⟩, by decide +kernel⟩
def duplexGrp : Group := { grp with id := { grp.id with duplex := true } }
theorem witness_SupervisorReaders_others :
    (∀ d ∈ [44, 62], Issues (issuing grp) 0 grp (fieldsA 0xFA { wnone with d := BitVec.ofNat 6 d })) ∧
    Issues (issuing grp) 0 grp (fieldsI 0xFB { wi with imm := 4095, d := 0 }) ∧ grp.id.sup = false ∧
    (∀ i ∈ [15, 16], Issues (supHere grp [BitVec.ofNat 32 i]) 1280 (blockSup [BitVec.ofNat 32 i]) (fieldsA 0xFC { ws with d := 62, b := 0 })) ∧
    (∀ sel ∈ [0, 2], ∀ g ∈ [grp, duplexGrp], let ks := [0, BitVec.ofNat 32 sel]
      Issues (supHere g ks) 1280 (blockSup ks) (fieldsA 0xFD { ws with d := 62 }) ∧ (supHere g ks).mach.slotGroup? 0 0 = some g) := by decide +kernel

def stops : Group := { grp with state := .stopped, cause := .gstop }
/-- Words of the supervisor group that name slot 0, with a mode. -/
theorem witness_SupervisorControl_groups :
    ∀ g ∈ [stops, { grp with state := .ready }, grp, { grp with state := .preempted }], let s := supHere g [0, 0]
      Issues s 1280 (blockSup [0, 0]) (fieldsA 0xF4 { ws with b := 0 }) ∧ s.mach.group? 0 0 = some g ∧ g.id.sup = false ∧ g.atSafe = false ∧
      (blockSup [0, 0]).freeze = none ∧ (blockSup [0, 0]).stopMark = false ∧
      Issues s 1280 (blockSup [0, 0]) (fieldsA 0xF5 ws) ∧ g.freeze = none ∧ g.stopMark = false ∧ g.inReserve = false ∧ g.parking = false ∧
      g.xlatFailed = none := by decide +kernel
theorem witness_SupervisorControl_ends :
    (∀ g ∈ [stops, { grp with state := .ready }, grp, { grp with state := .preempted }], let s := supHere g [0, 0]
      Issues s 1280 (blockSup [0, 0]) (fieldsA 0xF6 { ws with b := 0 }) ∧ g.state ≠ .ending ∧ g.ending = none ∧ g.id.duplex = false ∧
      s.mach.viral = false) ∧
    (let ks := [2048, 5]
     Issues (supHere grp ks) 1280 (blockSup ks) (fieldsA 0xF5 ws) ∧ Issues (supHere grp ks) 1280 (blockSup ks) (fieldsA 0xF6 { ws with b := 0 })) := by decide +kernel
def heldCopy (state : CopyState) : CopyEntry :=
  { newEntry ((supHere grp []).who 1280 sup (fieldsA 0xC3 wcopy)) sup .mc { span := 15, cred := false, bidx := 0, chan := 15, ticket := 0 } with state }
def heldOp (state : OpState) : EngineOp := { kind := .mma, members := [], ident := grp.id, uid := 1, slot := 0, gen := 0, block := [], ptrs := [], tags := [], state }
theorem witness_SupervisorControl_units :
    (∀ held : Bool, ∀ mode ∈ [1, 2], let ks := [15, BitVec.ofNat 32 mode]
      let s := supHere grp ks { noCore with chans := [(15, { entries := [heldCopy (if held then .held else .active)] })] }
      Issues s 1280 (blockSup ks) (fieldsA 0xF5 ws) ∧ ((blockSup ks).reg 49 0).toNat = mode ∧ ((s.mach.core 0).chan 15).entries.length = 1 ∧
      (heldCopy .held).bar = none) ∧
    (∀ held : Bool, ∀ mode ∈ [3, 4], let ks := [0, BitVec.ofNat 32 mode]
      let s := supHere grp ks { noCore with engine := [heldOp (if held then .held else .running)] }
      Issues s 1280 (blockSup ks) (fieldsA 0xF5 ws) ∧ ((blockSup ks).reg 49 0).toNat = mode ∧ (s.mach.core 0).engine.length = 1 ∧ (s.mach.core 0).latches = []) := by
  decide +kernel
def harvestGrp : Group := { grp with id := { grp.id with harvest := true } }
/-- HARVEST 0 to 4 where none is admitted, and where context 0 is, with a group of its own or none. -/
theorem witness_SupervisorControl_harvest :
    ∀ k ∈ [0, 1, 2, 3, 4], ∀ admitted : Bool, ∀ g ∈ [grp, harvestGrp], let ks := [BitVec.ofNat 32 k, 0]
      let s := supHere g ks { noCore with harvestCtx := if admitted then some 0 else none } { state := .live, harvest := true }
      Issues s 1280 (blockSup ks) (fieldsA 0xFE { ws with b := 0 }) ∧ ((blockSup ks).readK 0).toNat = k ∧ (s.mach.ctx 0).state ≠ .free ∧
      (s.mach.ctx 0).harvest = true ∧ (s.mach.core 0).harvestCtx = (if admitted then some 0 else none) ∧ (s.mach.core 0).ops = [] ∧ (s.mach.core 0).saved = [] := by
  decide +kernel
/-- CTXSW of the owner of the cluster, with a group on the core and without; and one of a context that owns no cluster. -/
theorem witness_SupervisorControl_ctxsw :
    ∀ k ∈ [0, 1], ∀ owns alone : Bool, let ks := [BitVec.ofNat 32 k, 0]
      let s0 := supHere { grp with state := .ready } ks noCore { state := .live, cmap := if owns then [(0, 0)] else [] }
      let s := if alone then { s0 with mach := s0.mach.modCore 0 (fun c => { c with groups := [(1280, blockSup ks)] }) } else s0
      Issues s 1280 (blockSup ks) (fieldsA 0xFF { ws with b := 0 }) ∧ s.mach.clusterOwner 0 = (if owns then some 0 else none) ∧ (s.mach.core 0).ops = [] ∧
      ((s.mach.core 0).groups.any (fun x => x.2.ownedBy (some 0)) = !alone) ∧ (s.mach.core 0).drained 0 = true ∧ (∀ j, j < 16 → ((s.mach.core 0).slot j).live = false) ∧
      (s.mach.core 0).saved = [] ∧ (s.mach.core 0).savedAcc = [] := by decide +kernel

/-- One message of the group in slot 0, where it is performed. -/
def oneMsg (place : Nat) (body : MsgBody) : Msg := { id := 1, core := 0, slot := 0, uid := 1, place, due := 0, held := false, body }
def arriving (g : Group) (place : Nat) (body : MsgBody) (f : Core → Core := id) : State :=
  stateOf { world (f { coreOf g with frames := [(12287, { frame0 with state := .fetching })] }) with msgs := [oneMsg place body] }
abbrev Comes (s : State) (x : Msg) : Prop :=
  s.mach.msgs[0]? = some x ∧ s.mach.ready x = true ∧ s.dev.reaches x = true ∧ (s.mach.viral && x.body.leaves) = false ∧ s.mach.msgs.length = 1 ∧
  s.mach.group? x.core x.slot = some grp ∧ grp.uid = x.uid
theorem Comes.arrives {s : State} {x : Msg} (h : Comes s x) : Arrives s 0 x ∧ Seats s x grp :=
  ⟨⟨h.1, h.2.1, h.2.2.1, h.2.2.2.1⟩, h.2.2.2.2.2.1, h.2.2.2.2.2.2⟩
/-- A result with its wake, a line that comes to its frame, a notice of that line, the last acknowledgement of RECALL. -/
theorem witness_ResultsArrive :
    (∀ b : MsgBody, b = .result (statusWrites 63 .ok) (regItems 63 1) true ∨ b = .wbAck 7 true ∨ b = .wbAck 7 false →
      Comes (arriving grp 0 b) (oneMsg 0 b) ∧ grp.atSafe = false) ∧
    (∀ b : MsgBody, b = .fetch 7 0 12287 (.dram 128) 0 →
      let s := arriving { grp with lines := [(7, bound 0 false)] } 1 b
      s.mach.msgs[0]? = some (oneMsg 1 b) ∧ s.mach.ready (oneMsg 1 b) = true ∧ s.dev.reaches (oneMsg 1 b) = true ∧ (s.mach.viral && b.leaves) = false ∧
      s.mach.group? 0 0 = some { grp with lines := [(7, bound 0 false)] } ∧ (({ grp with lines := [(7, bound 0 false)] } : Group).line 7).frames[0]? = some (some 12287) ∧
      ((s.mach.core 0).frame 12287).line = .dram 128 ∧ ((s.mach.core 0).frame 12287).state = .fetching ∧
      (s.mach.lineClasses (.dram 128) 0).contains .tagMismatch = false) ∧
    (∀ b : MsgBody, b = .stale (.dram 128) → Comes (arriving grp 1 b) (oneMsg 1 b) ∧ ((arriving grp 1 b).mach.core 0).findFrame (.dram 128) = some 12287 ∧
      (((arriving grp 1 b).mach.core 0).frame 12287).state ≠ .free) := by
  refine ⟨?_, ?_, ?_⟩
  · rintro b (rfl | rfl | rfl) <;> decide +kernel
  · rintro b rfl
    decide +kernel
  · rintro b rfl
    decide +kernel

/-- What is performed at the line at 128, or at its last word. -/
theorem witness_WritesArrive :
    (∀ b : MsgBody, b = .writeBack (.dram 128) 128 1 0 [(0, 7)] 0 (.line 7 true) ∨ b = .tagset (.dram 128) 15 ∨ b = .put (.dram 128) 128 1 [(0, 7)] 0 (some (.dram 252, 252, 0)) 1 ∨
        b = .counter (.dram 252) 252 0 0x8000 →
      let s := arriving grp (sliceOf 128) b
      Comes s (oneMsg (sliceOf 128) b) ∧ (∀ i, i < 4 → s.mach.inSaveArea (128 + 32 * i) = false) ∧ (∀ i, i < 4 → s.mach.lineTag (128 + 32 * i) = 0)) ∧
    (∀ e ∈ [(AtomOp.add, 4), (.add, 8), (.fadd, 4), (.minS, 4), (.maxS, 4), (.minN, 4), (.maxN, 4), (.and_, 4), (.or_, 4), (.xor_, 4), (.xchg, 4), (.cas, 4), (.cas, 8)],
      let b : MsgBody := .atomic e.1 (.dram 248) 248 e.2 1 0 0 45 31
      let s := arriving grp (sliceOf 128) b
      Comes s (oneMsg (sliceOf 128) b) ∧ grp.wait = none ∧ 248 % e.2 = 0 ∧ s.mach.lineTag 224 = 0 ∧ s.mach.classAt (.dram 248) (some 0) = .clean ∧ 45 + e.2 / 4 ≤ 47) := by
  refine ⟨?_, by decide +kernel⟩
  rintro b (rfl | rfl | rfl | rfl) <;> decide +kernel
theorem witness_RequestsArrive_objects :
    ∀ b : MsgBody, b = .object (.acq 1 5 63) (.dram 248) 504 0 false ∨ b = .object (.promise 63) (.dram 248) 504 0 false ∨ b = .object (.relinq 7 63) (.dram 248) 504 0 false ∨
        b = .object (.rel 5 63 true) (.dram 248) 504 0 false →
      let s := arriving grp (sliceOf 248) b
      Comes s (oneMsg (sliceOf 248) b) ∧ s.mach.lineTag 224 = 0 ∧ s.mach.classAt (.dram 248) (some 0) = .clean ∧ s.mach.linkDown = false ∧
      s.mach.word64 (.dram 248) = 0 ∧ grp.id.copyIndex = false ∧ (SMap.freeKey (s.mach.core 0).estate 4096).isSome = true ∧ s.mach.holding? 0 1 0 504 = none ∧
      s.mach.holding? 0 1 1 504 = none ∧ ∀ y ∈ s.mach.msgs, y.uid = 1 → y = oneMsg (sliceOf 248) b := by
  rintro b (rfl | rfl | rfl | rfl) <;> decide +kernel
/-- The group holds the promise that it relinquishes. -/
theorem witness_RequestsArrive_promise :
    let b : MsgBody := .object (.relinq 7 63) (.dram 248) 504 0 false
    let s := arriving grp (sliceOf 248) b (fun c => { c with estate := [(0, { heldObj with kind := 1 })] })
    Comes s (oneMsg (sliceOf 248) b) ∧ (s.mach.holding? 0 1 1 504).isSome = true := by decide +kernel
/-- Ring 15 with one word in it and room for one; barrier 15 of three groups. -/
def hubRing : Ring := { offset := 0, depth := 2, count := 1, pushes := 3, pops := 2, allow := 1 }
def hubBar : Barrier := { expect := 3, curexp := 3 }
def hubBlk : Block := { blk with rings := [(15, hubRing)], bars := [(15, hubBar)] }
def hubState (b : MsgBody) : State :=
  let s := arriving grp (hubPlace 0) b
  { s with mach := s.mach.modBlock 0 0 (fun _ => hubBlk) }
theorem witness_RequestsArrive_hub :
    ∀ b : MsgBody, b = .ring .pop 15 0 46 63 1 ∨ b = .ring .push 15 9 0 63 1 ∨ b = .barrier false false 15 1 63 ∨ b = .barrier true false 15 0 63 →
      let s := hubState b
      Comes s (oneMsg (hubPlace 0) b) ∧ (s.mach.cluster 0).blocks.get? 0 = some hubBlk ∧ hubBlk.rings.get? 15 = some hubRing ∧ hubRing.waits = [] ∧
      0 < hubRing.count ∧ 0 < hubRing.allow ∧ hubBlk.bars.get? 15 = some hubBar ∧ hubBar.waits = [] ∧ hubBar.pend + (1 : Word).setWidth 40 ≠ 0 ∧
      grp.tokens.getLsbD 15 = false ∧ hubBar.arrived ≠ hubBar.curexp ∧ hubBar.arrived + 1 ≠ hubBar.curexp ∧ hubBar.curexp ≠ 0 ∧
      ringPlace (s.mach.cluster 0) hubBlk hubRing 0 hubRing.pushes = .spad 0 4 ∧
      (s.mach.classAt (ringPlace (s.mach.cluster 0) hubBlk hubRing 0 hubRing.pops) none).bad = false := by
  rintro b (rfl | rfl | rfl | rfl) <;> decide +kernel
/-- A task for the first free slot of hub 0; a change of the counter of its slot 2047; a waiter and a wake at a word. -/
theorem witness_RequestsArrive_tasks :
    (∀ b : MsgBody, b = .task (.enq 1 0 [] 0 51) 50 1 ∨ b = .task (.depadd 0x07FF0001 0xFFFFFFFF) 50 1 →
      let s0 := arriving grp (hubPlace 0) b
      let s : State := { s0 with mach := { s0.mach.modCluster 0 (fun k => { k with tasks := [(0, { state := .runnable }), (2047, { state := .waiting, gen := 1, dep := 1, handle := 0x07FF0001 })] }) with
        ctxs := [(0, { state := .live, cmap := [(0, 0)] })] } }
      Comes s (oneMsg (hubPlace 0) b) ∧ ((s.mach.cluster 0).task 1).state = .free ∧ (∀ j, j < 1 → ((s.mach.cluster 0).task j).state ≠ .free) ∧
      (s.mach.taskOf 0 0 0x07FF0001).isSome = true) ∧
    (∀ b : MsgBody, b = .waiter 252 (.dram 252) 0 0 63 false ∨ b = .waiter 252 (.dram 252) 0 1 63 false ∨ b = .wake 252 63 →
      let s := arriving grp (sliceOf 252) b
      Comes s (oneMsg (sliceOf 252) b) ∧ s.mach.waitEntry 0 252 = none ∧ s.mach.waitTab.get? (waitBase 0 252) = none ∧ s.mach.queues = [] ∧
      s.mach.word32 (.dram 252) = 0) := by
  refine ⟨?_, ?_⟩
  · rintro b (rfl | rfl) <;> decide +kernel
  · rintro b (rfl | rfl | rfl) <;> decide +kernel

/-- A core of groups, ready to be worked on; the first entry of channel 15 and the operation of its engine. -/
def insideState (c : Core) : State := stateOf (world c)
def readyGrp : Group := { grp with state := .ready }
theorem witness_InsideEvents_arbitration : let s := insideState { groups := [(0, readyGrp)], lanes := [] }
    s.works 0 = true ∧ (s.mach.core 0).outOfService = false ∧ ((s.mach.core 0).lane 0).issuing = none ∧ 
    ((s.mach.ownerDemand 0 0).modCore 0 (fun k => k.advance (k.lane 0).busyUntil)).winner 0 0 = some 0 ∧
    s.mach.group? 0 0 = some readyGrp ∧
    (match ((s.mach.ownerDemand 0 0).modCore 0 (fun k => k.advance (k.lane 0).busyUntil)).fetchAt 0 readyGrp readyGrp.pc with
      | (_, .xlat _ _) => false | _ => true) = true := by decide +kernel
/-- A router count of 255 on plane 3, for all the 64 cycles of an interval. -/
theorem witness_InsideEvents_interval : let c : Core := { coreOf grp with congestion := [(3, 255)] }
    (insideState c).clock 0 = true ∧ (c.cycle + 64 ≤ 64 * (c.interval + 1)) ∧ c.congestion = [(3, 255)] := by decide +kernel
/-- Tables at 0, 0x2000 and 0x4000: addresses below 64 MB are read at their own value. -/
def tables : Memory := [(0, 1), (1, 0x20), (0x2000, 1), (0x2001, 0x40), (0x4000, 0x13)]
theorem witness_InsideEvents_fetch : let s := stateOf { world (coreOf grp) with dram := tables }
    s.works 0 = true ∧ (∃ g ∈ (s.mach.core 0).everyone, g.id.ctx = 0) ∧ s.mach.aheadLine 0 255 = some (.dram 128) ∧ s.mach.linkDown = false ∧
    (s.mach.core 0).findFrame (.dram 128) = none ∧ (s.mach.lineClasses (.dram 128) 0).contains .tagMismatch = false ∧
    (SMap.freeKey (s.mach.core 0).frames 12288).isSome = true ∧ s.mach.dram.wf = true := by decide +kernel
/-- A COPYL of 16 bytes from 256 to 368, at its start, under way and at its end. -/
def copying (state : CopyState) (done : Nat) : CopyEntry := { heldCopy state with
  kind := .copyl, slot := 0, uid := 1, span := 256, other := 368, len := 16, done, gated := false, started := state != .queued }
def copyState (e : CopyEntry) : State := insideState { coreOf grp with chans := [(15, { entries := [e] })] }
theorem witness_InsideEvents_copies :
    ((copyState (copying .queued 0)).works 0 = true ∧ (copying .queued 0).stopping = false ∧ (copying .queued 0).gated = false ∧ (copying .queued 0).started = false) ∧
    (let e := copying .active 0
     let s := copyState e
     e.silent = false ∧ s.mach.findGroup 0 0 1 = some grp ∧ e.chunk 16 = 16 ∧ e.dst 0 = some 368 ∧
     (match s.mach.copyFetch 0 grp e 16 0 none with
      | (m, .ok bs) => bs.length == 16 && (match m.translate 0 grp 256 true with
        | (m', .ok (.dram l) leaf) => leaf.w && l % 128 == 0 && (List.range 4).all (fun i => m'.lineTag (l + 32 * i) == e.dstTag) | _ => false)
      | _ => false) = true) ∧
    (let s := copyState (copying .active 16)
     (copying .active 16).len ≤ (copying .active 16).done ∧ (s.mach.core 0).ops = [] ∧ s.mach.group? 0 0 = some grp ∧ grp.ending = none) := by decide +kernel
/-- An MHAD of four K-blocks, one vector of 128 HF elements a row, all at 256: at its start and at its end. -/
def hadOp (prog : Nat) : EngineOp := { kind := .mhad, members := [(0, 1)], ident := grp.id, uid := 1, slot := 0, gen := 0, block := [0, 0, 0x32300, 0], ptrs := [256]
                                       tags := [0], prog, state := if prog = 0 then .queued else .running }
theorem witness_InsideEvents_engine :
    (let s := insideState { coreOf grp with engine := [hadOp 0] }
     s.works 0 = true ∧ (s.mach.core 0).latches = [] ∧ (hadOp 0).prog / 32 < (hadOp 0).kBlocks ∧ s.mach.engineGated 0 (hadOp 0) = false ∧ s.mach.engineWaits 0 (hadOp 0) = false ∧
     (match (s.mach.mhadBlock s.dev 0 (hadOp 0) 0).2 with | .ok _ => true | .error _ => false) = true) ∧
    (let s := insideState { coreOf grp with engine := [hadOp 128] }
     32 * (hadOp 128).kBlocks ≤ (hadOp 128).prog ∧ (s.mach.core 0).ops = [] ∧ s.mach.group? 0 0 = some grp) := by decide +kernel
def lone : Block := { blk with pages := [], members := [(0, { core := 0, slot := 0, uid := 1, role := .general })] }
def endingGrp (released : Bool) : Group := { grp with state := .ending, ending := some { killed := false, closed := true, flushed := released, released } }
theorem witness_InsideEvents_groups :
    (∀ g ∈ [{ grp with state := .parked, parking := true }, { grp with state := .parked, unparking := true, inReserve := true }], let s := insideState (coreOf g)
      s.clock 0 = true ∧ s.mach.group? 0 0 = some g ∧ (∀ i, i < 8 → (s.mach.core i).ops = []) ∧ g.atSafe = false ∧ g.xlatFailed = none ∧ g.freeze = none ∧ g.stopMark = false) ∧
    (let o : CoreOp := { op := 3, ctx := 0, slot := 1280, uid := sup.uid, kd := 63, pages := [], due := 0 }
     let s := insideState { groups := [(1280, sup)], lanes := [], ops := [o] }
     s.clock 0 = true ∧ s.mach.group? 0 1280 = some sup ∧ (s.mach.core 0).groups.any (fun e => e.2.ownedBy (some 0)) = false ∧ (s.mach.core 0).drained 0 = true ∧
     (∀ e ∈ s.mach.ctxs, e.2.remap = none)) ∧
    (let g := endingGrp false
     let s := insideState (coreOf g)
     s.mach.group? 0 0 = some g ∧ g.gated = false ∧ (s.mach.core 0).copiesOf g.uid = false ∧ g.lines = [] ∧ s.mach.msgs = [] ∧ s.mach.viral = false ∧
     s.mach.outstanding 0 g.uid s.mach.nextUid = false ∧ s.mach.hostPending g.id.ctx (s.mach.exitScope g) = false) ∧
    (let g := endingGrp true
     let s := stateOf { world (coreOf g) with clusters := [(0, { blocks := [(0, lone)] })] }
     s.clock 0 = true ∧ s.mach.viral = false ∧ s.mach.conveyable 0 g = true ∧ (∀ i, i < 8 → (s.mach.core i).ops = []) ∧ s.mach.estateOrder 0 g = [] ∧ (s.mach.core 0).latches = [] ∧
     (s.mach.cluster 0).blocks.get? 0 = some lone ∧ lone.pages = [] ∧ lone.copyIndex = false ∧ lone.heldReleases = [] ∧ g.id.sup = false ∧
     (∀ h ∈ (s.mach.core 0).groups, h.2.wait = none)) := by decide +kernel
theorem witness_InsideEvents_waits :
    (let g : Group := { grp with wait := some (.cwait 252 1 0 false 4) }
     let s := insideState (coreOf g)
     s.clock 0 = true ∧ s.mach.group? 0 0 = some g ∧ s.mach.msgs = [] ∧ (match s.mach.translate 0 g 252 with | (_, .ok _ _) => true | _ => false) = true) ∧
    (let g : Group := { duplexGrp with dup := { closedSig := some 0 } }
     let s := insideState (coreOf g)
     s.clock 0 = true ∧ s.mach.group? 0 0 = some g ∧ g.dup.closedSig.isSome = true ∧ g.id.sup = false ∧ g.ending = none ∧ g.state ≠ .ending ∧ s.mach.viral = false) := by decide +kernel
/-- A launch of one block of one group, for the context's cluster 0; over, once its block is complete; an atomic of another device that waits for its answer. -/
def oneBlock : Launch := { aLaunch with record := { aLaunch.record with ext := [32, 1, 1, 1, 1, 1], widths := [5, 1, 1, 1, 1, 1], blev := 1 } }
theorem witness_InsideEvents_placement :
    let s := stateOf { machOf (coreOf grp) with launches := [(0, oneBlock)], ctxs := [(0, { state := .live, cmap := [(0, 0)] })] }
    s.dev.running = true ∧ s.mach.viral = false ∧ s.mach.queueHead (s.mach.rotation % 256) = some (0, oneBlock) ∧ s.mach.pressed (s.mach.rotation % 256) 0 = false ∧
    s.mach.nextUnit oneBlock = some 0 ∧ ({ s.mach with chance := true } : Mach).chance = true ∧ s.mach.chance = false ∧
    (s.mach.cluster 0).blocks.get? 0 = none ∧ s.mach.group? 0 1 = none := by decide +kernel
theorem witness_InsideEvents_placed :
    (let s := stateOf { machOf (coreOf grp) with launches := [(0, oneBlock)], ctxs := [(0, { state := .live, cmap := [(0, 0)] })] }
     (match s.mach.placeUnit s.dev.asleep 0 oneBlock 0 with | some (0, m) => (s.mach.owed m 0).isEmpty | _ => false) = true) ∧
    (let l := { oneBlock with placed := [0], ended := [0] }
     let s := stateOf { machOf (coreOf grp) with launches := [(0, l)] }
     s.mach.launchOver 0 l = true ∧ s.mach.launches.get? 0 = some l ∧ (s.mach.queues.getD 0 {}).enabling = false ∧ (s.mach.queues.getD 0 {}).en = false ∧ (s.mach.queues.getD 0 {}).taking = none) ∧
    (let x : FabricAtomic := { dev := 5, rid := 0, target := .peer 5 0, va := 0, n := 4, op := .add, operand := 1, expected := 0, tag := 0, core := 0, slot := 0, uid := 1, twin := none, d := 46, thread := 0, performed := none }
     (stateOf { machOf (coreOf grp) with fabricAtomics := [x] }).mach.fabricAtomics[0]? = some x ∧
     (stateOf { machOf (coreOf grp) with fabricAtomics := [x] }).mach.msgs = []) := by decide +kernel

/-- The host's view of a machine: context 0 in this state, and what follows from attach. -/
def hostOf (x : Ctx) (groups : SMap Group := []) : State := stateOf { machOf { groups, lanes := [] } with ctxs := [(0, x)] }
def madeCtx : Ctx := { fqsize := 6, sasize := 68, cmap := [(0, 31)] }
theorem witness_HostCommands_contexts :
    (hostOf {}).mmio = true ∧ (hostOf {}).mach.createRefused 0 = true ∧ (hostOf madeCtx).mach.createRefused 0 = false ∧
    (∀ harvest : Bool, ((hostOf { state := .live, harvest }).mach.ctx 0).cmd = 0 ∧ ((hostOf { state := .suspended, harvest }).mach.ctx 0).state = .suspended) ∧
    ((hostOf {}).mach.ctx 4095).state = .free ∧
    (hostOf { state := .live, cmap := [(0, 31)] }).mach.remapRefused 0 0 32 = true ∧ (hostOf { state := .live, cmap := [(0, 31)] }).mach.remapRefused 0 0 30 = false := by decide +kernel
/-- A cluster that is idle and one with a group; planes that darken and that relight; a temperature at the trip and under it by ten degrees. -/
theorem witness_HostCommands_power :
    (hostOf {}).dev.tripped = false ∧ (hostOf {}).dev.running = true ∧ (hostOf {}).mach.clusterBusy 31 = false ∧ (hostOf {} [(0, grp)]).mach.clusterBusy 0 = true ∧
    (∀ p ∈ [1, 2, 3], ((hostOf {}).dev.planes[p]?).isSome = true) ∧ (∀ e ∈ (hostOf { state := .suspended }).mach.ctxs, e.2.state ≠ .live) ∧
    (∀ e ∈ (hostOf { state := .live }).mach.ctxs, e.2.state = .live) ∧ (hostOf {}).dev.trip ≤ 110 ∧
    (∀ temps : Bool, let d : Device := { tripped := true, running := false, dieTemp := if temps then List.replicate 4 100 else [101] }
      { hostOf {} with dev := d }.mmio = true ∧ ((∀ x ∈ d.dieTemp ++ d.stackTemp, x + 10 ≤ d.trip) ↔ temps = true)) ∧
    (∀ b : Bool, ({ planes := [.lit, if b then .darkening else .relight, .lit, .lit] } : Device).planes[1]? = some (if b then .darkening else .relight)) := by decide +kernel
theorem witness_LinkAndResets_attach :
    (hostOf {}).dev.test = none ∧ (hostOf {}).mach.migration = none ∧ (7812499 + 1) * 65536 ≤ 512000000000 ∧
    (∀ attach ∈ [1, 2], ∀ up viral : Bool, let s := { hostOf {} with dev := { linkUp := up, attach }, mach := { (hostOf {}).mach with viral } }
      s.dev.linkUp = up ∧ s.dev.attach = attach ∧ s.mach.viral = viral ∧ s.mach.queues = [] ∧ s.mach.jobs = []) ∧
    (∀ image ∈ [0, 1, 2], let d : Device := { newImage := some image, fuseVersion := 1 }
      image = d.newImage.getD d.fwVersion ∧ (d.fuseVersion ≤ image ↔ image ≠ 0)) ∧
    (∀ leaf ∈ [1048575, 1048576], ({ leaf } : Device).leaf = leaf) := by decide +kernel
/-- A test of cluster 31 on which a group overruns, and one that is still; a page that drains and one with a pinned line. -/
theorem witness_LinkAndResets_tests :
    (let s := { hostOf { state := .live } [(0, { readyGrp with preempt := some 2, testRuns := 65536 })] with dev := { test := some { cluster := 0, kind := 0 } } }
     s.mmio = true ∧ (s.mach.overrunSlot 0).isSome = true ∧ s.dev.test.map (·.aborted) = some none) ∧
    (hostOf {}).mach.clusterStill 31 = true ∧
    (let s := { hostOf {} with mach := { (hostOf {}).mach with migration := some { old := 1, new := 2 } } }
     s.dev.running = true ∧ s.mach.pageDrained 1 = true ∧ s.mach.pageUnpinned 1 = true ∧ s.mach.dram.wf = true) ∧
    (stateOf { world { coreOf grp with frames := [(0, frame0)] } with migration := some { old := 0, new := 2 } }).mach.pageUnpinned 0 = false := by decide +kernel

/-- A waiter of the group in slot 0 at a word, a word of page 0 without an entry, and a queue block at 0 that is read for an enable. -/
def waitE : WaitEntry := { ctx := 0, va := 252, loc := .dram 252, armv := 0, waiters := [{ host := none, core := 0, slot := 0, uid := 1 }] }
def waiting : Group := { grp with wait := some (.waitw 252 63) }
theorem witness_HostAndPeers_waits :
    (let s := stateOf { world (coreOf waiting) with waitTab := [(waitBase 0 252, waitE)] }
     s.mmio = true ∧ s.mach.waitEntry 0 252 = some (waitBase 0 252, waitE) ∧ s.mach.group? 0 0 = some waiting ∧ s.mach.queues = []) ∧
    (let s := stateOf (world (coreOf grp))
     (match s.mach.ctxXlate 0 252 with | (_, .ok l _) => s.mach.word32 l == 0 && (List.range 4).all (fun i => s.mach.classAt (l.plus i) none == .clean) | _ => false) = true ∧
     (252#56).toNat % 4 = 0 ∧ s.mach.waitEntry 0 252 = none ∧ s.mach.waitTab.get? (waitBase 0 252) = none) ∧
    (let s := stateOf { world (coreOf grp) with ctxs := [(0, { state := .suspended, fqcons := true })] }
     (s.mach.queues.getD 255 {}).en = false ∧ (s.mach.ctx 0).state = .suspended ∧ (0#56).toNat % 32 = 0 ∧ (31#56).toNat % 32 ≠ 0 ∧ (match s.mach.ctxRead 0 0 32 with | (_, .bytes _) => true | _ => false) = true ∧
     (s.mach.ctx 0).fqcons = true) := by decide +kernel
/-- Injection at the last sector of memory and past it; window 7 over the last 64 MB of the first 128. -/
def exposed (wen : Bool) : State := { hostOf {} with dev := { exposure := [(7, (67108864, 67108864, 0, wen))] } }
theorem witness_HostAndPeers_memory :
    (∀ past : Bool, let v : BitVec 64 := 0x8000000000000000 ||| BitVec.ofNat 64 (511999999968 + if past then 32 else 0)
      v.msb = true ∧ v.extractLsb' 52 9 = 0 ∧ v.extractLsb' 0 5 = 0 ∧ ((v.extractLsb' 5 47).toNat * 32 < 512000000000 ↔ past = false)) ∧
    (∀ wen : Bool, let s := exposed wen
      s.mmio = true ∧ s.dev.exposure.get? 7 = some (67108864, 67108864, 0, wen) ∧ s.mach.hostFrozen = false ∧ (∀ e ∈ s.mach.ctxs, e.2.state = .free) ∧
      s.mach.secClass 134217696 (some 0) = .clean ∧ s.mach.tags = [] ∧ s.dev.serves 255 = true ∧ s.dev.linkUp = true) ∧
    ((hostOf {}).dev.linkUp = true ∧ ({ attach := 2 } : Device).linkUp = true) ∧
    (let s := { hostOf {} with mach := { (hostOf {}).mach with windows := [(3, { state := 2 })] } }
     s.mach.windows.get? 3 = some { state := 2 }) ∧ ({ numbered := true } : Device).numbered = true := by decide +kernel
def peered : State := { hostOf {} with dev := { ports := [true], numbered := true } }
def aReply : Reply := { src := 5, sts := .ok, rid := 9, reply := 0, acked := false }
theorem witness_HostAndPeers_peers :
    peered.dev.ports.getD 0 false = true ∧ peered.linked = true ∧ 5 ≠ peered.dev.number ∧ peered.mach.migrating 120 = false ∧ peered.mach.lineTag 96 = 0 ∧
    peered.mach.secClass 120 (some 0) = .clean ∧ peered.dev.serves 255 = true ∧ peered.mach.classAt (.dram 127) (some 0) = .clean ∧
    peered.mach.classAt (.dram 127) (some 1) = .tagMismatch ∧ (openSources (peered.mach.replies.getD (sliceOf 120) [])).length < 16 ∧ peerOp 0 ≠ none ∧
    (let s := { peered with mach := { peered.mach with replies := [(sliceOf 120, [aReply])] } }
     aReply ∈ s.mach.replies.getD (sliceOf 120) [] ∧ s.mach.replies.get? (sliceOf 120) = some [aReply] ∧
     ∀ r ∈ s.mach.replies.getD (sliceOf 120) [], r.src = 5 → r.rid = 9 → r = aReply) := by decide +kernel
/-- The page is being migrated, or sixteen other devices have an open operation there. -/
theorem witness_HostAndPeers_refused :
    ({ peered with mach := { peered.mach with migration := some { old := 0, new := 2 } } } : State).mach.migrating 120 = true ∧
    (let rs := (List.range 16).map (fun i => { aReply with src := 16 + i })
     let s := { peered with mach := { peered.mach with replies := [(sliceOf 120, rs)] } }
     16 ≤ (openSources (s.mach.replies.getD (sliceOf 120) [])).length ∧ ∀ r ∈ s.mach.replies.getD (sliceOf 120) [], r.src ≠ 5) ∧
    peered.mach.jobs = [] ∧ peered.mach.queues = [] := by decide +kernel
theorem witness_HostAndPeers_reductions :
    let w : RedWindow := { state := 1, opportunistic := true, held := [{ src := 5, loc := 8, op := .add, n := 8, operand := 1, fabric := none }, { src := 6, loc := 8, op := .add, n := 8, operand := 2, fabric := none }] }
    w.round [0, 1] = w.held ∧ w.closes [0, 1] = true ∧ w.merged .add 8 (leftFold [0, 1]) [] = some 3 ∧ (leftFold [0, 1]).filterMap id = [0, 1] ∧
    (hostOf {}).mach.fabricAtomics = [] ∧ (hostOf {}).dev.running = true := by decide +kernel

theorem witness_LegalStateKept : ∃ t, ({ State.reset with turns := [.event (.setp 3 4)] } : State).dev.Legal ∧
    step { State.reset with turns := [.event (.setp 3 4)] } = .next t :=
  ⟨_, ⟨by decide, by decide, by decide, by decide, by decide, by decide, by decide⟩, rfl⟩
theorem witness_OnlyHostChangesDevice : ∃ i n t t1 t2 t3, decode [0, 0, 0, 0] = .ok (i, n) ∧ setsDevice i = false ∧ exec i State.reset = .next t ∧
    State.reset.turns = [] ∧ step State.reset = .next t1 ∧ step { State.reset with turns := [.issue 0 0] } = .next t2 ∧
    step { State.reset with turns := [.event (.kBlock 255)] } = .next t3 ∧ setsDevice (.kBlock 255) = false :=
  ⟨_, _, _, _, _, _, rfl, rfl, rfl, rfl, rfl, rfl, rfl, rfl⟩
/-- Every row that the statement names answers a next state at reset. -/
theorem witness_OnlyHostChangesDevice_rows : ∀ i ∈ [(Instr.planeDark 3), .thermalTrip 11 125, .telemetryRefresh [] [] [], .linkFailure, .linkUp, .geloloPortFailure 17,
    .testAbort 31, .testReport 31 0, .migrateDone, .migrateBusy], ∃ t, exec i State.reset = .next t := by
  intro i hi
  fin_cases hi <;> exact ⟨_, rfl⟩

/-- A command that waits for plane 1 to be dark, and the relit plane with nothing queued. -/
theorem witness_HostCommands_waits :
    (let d : Device := { planes := [.lit, .relight, .dark, .dark] }
     ({ hostOf {} with dev := d } : State).mmio = true ∧ d.tripped = false ∧ d.lightWaits = true ∧ d.queued = []) ∧
    ({ planes := [.lit, .darkening, .dark, .dark] } : Device).lightWaits = false ∧
    (let d : Device := { tripped := true, running := false }
     d.lightWaits = false ∧ d.queued = [] ∧ ({ hostOf {} with dev := d } : State).mmio = true) := by decide +kernel

/-- Every device serves its slices; a launch that is over with its words at 512 and 1024 of page 0; the translations do not depend on the rest of the machine. -/
def overLaunch : Launch := { oneBlock with placed := [0], ended := [0], compaddr := 512, entryVa := 1024 }
theorem witness_InsideEvents_launchStored :
    let s := stateOf { machOf (coreOf grp) with walker := [page0], launches := [(0, overLaunch)] }
    s.dev.running = true ∧ s.mach.viral = false ∧ s.mach.launches.get? 0 = some overLaunch ∧ s.mach.launchOver 0 overLaunch = true ∧ s.mach.waitTab = [] ∧ s.mach.queues = [] ∧
    (∀ i, i < 8 → s.mach.classAt (.dram (512 + i)) none = .clean) ∧ s.mach.classAt (.dram 1024) none = .clean := by decide +kernel
theorem witness_InsideEvents_launchPages (m : Mach) (hw : m.walker = [page0]) (hm : m.migration = none) :
    (∃ f, m.ctxXlate 0 512 = (m, .ok (.dram 512) f)) ∧ ∃ f, m.ctxXlate 0 1024 = (m, .ok (.dram 1024) f) := by
  obtain ⟨⟩ := m
  simp only at hw hm
  subst hw hm
  exact ⟨⟨_, rfl⟩, _, rfl⟩

/-- Group 0 of the block ended with holdings of every kind, all left to group 1, and one holding that nobody inherits. -/
def heirGrp : Group := { grp with uid := 2, id := { grp.id with gindex := 1 }, state := .ready }
def leftTo (kind i heir : Nat) : Nat × Estate := (i, { kind, hmem := 0, hslot := 0, uid := 1, heir, hidx := 1, brv := false, order := BitVec.ofNat 32 i, key := if kind < 2 then 504 else if kind = 4 then 2 else 0 })
def estateState (es : SMap Estate) : State :=
  stateOf (world { groups := [(0, { endingGrp true with eseq := 8 }), (1, heirGrp)], lanes := [], estate := es, claims := [(2, { line := .dram 0x80, spad := false, holder := 0, uid := 1 })] })
theorem witness_Conveyances_heir :
    let g : Group := { endingGrp true with eseq := 8 }
    let s := estateState ((List.range 7).map (fun k => leftTo k k 1))
    s.clock 0 = true ∧ s.mach.viral = false ∧ s.mach.group? 0 0 = some g ∧ g.ending.map (·.conveyed) = some false ∧ g.id.sup = false ∧ g.uid ≠ 0 ∧
    s.mach.conveyable 0 g = true ∧ s.mach.settling 0 g.uid = false ∧ s.mach.block? 0 g = some blk ∧ blk.heldReleases = [] ∧ (s.mach.core 0).latches = [] ∧
    (∀ i, i < 8 → (s.mach.core i).ops = []) ∧ (∀ h ∈ (s.mach.core 0).groups, h.2.wait = none) ∧ (s.mach.holdings 0 1).map (·.2.1) = [0, 1, 2, 3, 4, 5, 6] ∧
    (∀ e ∈ s.mach.estateOrder 0 g, blk.heirOf e.2.2.heir e.2.2.hidx 0 = some 1 ∧ e.2.2.kind ≤ 6) ∧ ((s.mach.estateOrder 0 g).map (fun e => (e.1, e.2.1))).Nodup ∧
    blk.members.get? 1 = some { core := 0, slot := 1, uid := 2, role := .general } ∧ s.mach.group? 0 1 = some heirGrp := by
  refine ⟨?_, ?_, ?_, ?_, ?_, ?_, ?_, ?_, ?_, ?_, ?_, ?_, ?_, ?_, fun e he => ?_, ((List.mergeSort_perm _ _).map _).nodup_iff.mpr (by decide +kernel), ?_, ?_⟩
  case refine_15 =>
    have h := List.mem_mergeSort.mp he
    clear he
    revert e
    decide +kernel
  all_goals decide +kernel
theorem witness_Conveyances_heirless : ∀ kind ∈ [0, 1, 2, 3, 4, 5, 6],
    let g : Group := { endingGrp true with eseq := 8 }
    let s := estateState [leftTo kind 4095 0]
    s.mach.conveyable 0 g = true ∧ s.mach.estateOrder 0 g = [(0, 4095, (leftTo kind 4095 0).2)] ∧ blk.heirOf 0 1 0 = none ∧
    (∃ x, blk.members.get? 1 = some x ∧ x.ended = false) ∧ s.mach.jobs = [] ∧ s.mach.waitTab = [] ∧ s.mach.msgs = [] ∧
    (kind < 2 → (match s.mach.ctxXlate 0 504 with | (_, .ok (.dram a) _) => a % 8 == 0 && (List.range 8).all (fun n => s.mach.classAt (.dram (a + n)) none == .clean) | _ => false) = true) := by
  intro kind hk
  fin_cases hk <;> exact ⟨by decide +kernel, by decide +kernel, by decide +kernel, ⟨_, rfl, rfl⟩, by decide +kernel⟩
/-- An MMA of one K-block of S8 elements, and one of M8: all rows at 256. -/
def mmaOp (f : Nat) : EngineOp := { hadOp 0 with kind := .mma, block := [0, 0, 0, 0, BitVec.ofNat 32 (f * 0x1100), 0, 0, 0], ptrs := [256, 256], tags := [0, 0] }
theorem witness_Conveyances_blocks : ∀ int : Bool,
    let o := mmaOp (if int then 4 else 0)
    let s := insideState { coreOf grp with engine := [o], acc := [(0, { live := true, ftag := if int then 2 else 3 })] }
    s.works 0 = true ∧ (s.mach.core 0).latches = [] ∧ o.prog / 32 < o.kBlocks ∧ s.mach.engineGated 0 o = false ∧ s.mach.engineWaits 0 o = false ∧ o.wild = [] ∧
    (let f := bitsOf (o.block.getD 4 0).toNat 8 4
     (4 ≤ f ↔ int = true) ∧
     (match s.mach.engineRows s.dev 0 o.view 256 0 0 (4 * fmtBits f) 0 (List.range 128) with
      | (m, .ok _) => (match m.engineRows s.dev 0 o.view 256 0 0 (4 * fmtBits f) 0 (List.range 128) with
        | (m, .ok _) => ((m.core 0).slot 0).live && ((m.core 0).slot 0).gen == o.gen | _ => false)
      | _ => false) = true) := by decide +kernel

theorem witness_MachineStateKept : State.reset.mach.Legal ∧ ∃ t, step State.reset = .next t := by
  exact ⟨⟨⟨by decide, by decide, by decide, nofun⟩, nofun, nofun⟩, _, rfl⟩

/-! ### Worked values of the spec -/

/-- The group in slot 0 after the instruction. -/
def after (i : Instr) (s : State) : Group :=
  match exec i s with | .next t => (t.mach.group? 0 0).getD grp | _ => grp
def vecGrp : Group := { grp with id := { grp.id with role := .vector } }
/-- The four threads of the example at R218. -/
def foldGrp : Group := { vecGrp with amask := 0xF, v := [(64, 0x4B800000), (65, 0x3F800000), (66, 0x3F800000), (67, 0xCB800000), (196, 7)], vtag := [(2, 3)] }
theorem test_redadd_f32 : let g := after (.redaddF32 { b := 0, a := 2, d := 6, g := 0, u := false, e := false }) (issuing foldGrp)
    (List.range 5).map (g.readV 6) = [0, 0, 0, 0, 7] ∧ g.tagV 6 = 3 := by decide +kernel
theorem test_scanadd_f32 : let g := after (.scanaddF32 { b := 0, a := 2, d := 7, g := 0, u := false, e := false }) (issuing foldGrp)
    (List.range 4).map (g.readV 7) = [0x4B800000, 0x4B800000, 0x4B800000, 0] := by decide +kernel
/-- The example at R225. -/
def m8Grp : Group := { vecGrp with amask := 1, v := [(160, 0x2B5AC340)], vtag := [(5, 6)] }
theorem test_cvt_f32_m8_last : let g := after (.cvtF32M8 { b := 3, a := 5, d := 2, g := 0, u := false, e := false }) (issuing m8Grp)
    g.readV 2 0 = 0x3E300000 ∧ g.tagV 2 = 3 := by decide +kernel
theorem test_cvt_f32_m8_negative : (after (.cvtF32M8 { b := 1, a := 5, d := 2, g := 0, u := false, e := false }) (issuing m8Grp)).readV 2 0 = 0xBF8C0000 := by
  decide +kernel
/-- The codes of file 07's table: 1.8125, -1.09375, 0.171875, 1.5 * 2^-11, NaR. -/
theorem test_m8_values : [0x5A, 0xC3, 0x2B, 0x13, 0x80].map (fun c => f32.encode (m8Val c)) = [0x3FE80000, 0xBF8C0000, 0x3E300000, 0x3A400000, 0x7FC00000] := by
  decide +kernel
/-- 0.0546875 is a tie that goes to 0x20, and half of 2^-27 one that goes to zero (R168). -/
theorem test_m8_ties : [0x3D600000, 0x31800000].map (fun c => toM8 (f32.decode c)) = [0x20, 0] := by decide +kernel
/-- The window example of R174: the element becomes 0xAC80_0000. -/
theorem test_window : blockUpdate 38 0xBF800000 ([(0x40, 0x40), (0x11, 0x01), (0x11, 0x82)].map (fun x => (m8Val x.1).mul (m8Val x.2))) 0 false = 0xAC800000 := by
  decide +kernel
/-- ISUBSAT.S with every operand field zero (file 08's table). -/
theorem test_isubsat_zero : (after (.isubsatS { b := 0, a := 0, d := 0, g := 0, u := false, e := false }) (issuing grp)).readV 0 0 = 0 := by decide +kernel
/-- IABS of the most negative number stays (R208). -/
theorem test_iabs_least : (after (.iabs { b := 0, a := 1, d := 2, g := 0, u := false, e := false })
    (issuing { grp with amask := 1, v := [(32, 0x80000000)] })).readV 2 0 = 0x80000000 := by decide +kernel
/-- IADDI of 1 to k1: once when uniform, once a thread when not (file 08's table). -/
theorem test_iaddi_uniform : (after (.iaddi { imm := 1, d := 49, g := 0, u := true, e := true }) (issuing grp)).readK 1 = 1 := by decide +kernel
theorem test_iaddi_threads : (after (.iaddi { imm := 1, d := 49, g := 0, u := false, e := true }) (issuing { grp with amask := 0xFF })).readK 1 = 8 := by decide +kernel

end Sys2Proof.Tests
end

section
/-! SUPPORT. Which part of the state an instruction may change (R5): words, events inside the device, the default policy, bit errors
and traffic leave the host's part as it is, and a platform row changes its own fields of it. -/

namespace Sys2Proof.Machine

/-- A next state, if one is answered, has this host's part. -/
structure LeavesDevice (d : Device) (o : Host.Outcome State Fault Refusal) : Prop where
  dev : ∀ t, o = .next t → t.dev = d

theorem LeavesDevice.next {d : Device} {t : State} (h : t.dev = d) : LeavesDevice d (.next t) :=
  ⟨fun _ ht => by cases ht; exact h⟩

/-! ### The shapes that the rows share -/

theorem issue_leavesDevice (len : Nat) (f : Fields) (b : Body) (s : State) : LeavesDevice s.dev (issue len f b s) := by
  unfold issue
  split <;> exact .next rfl

theorem deliver_leavesDevice (kind : MsgBody → Bool) (n : Nat) (s : State) : LeavesDevice s.dev (deliver kind n s) := by
  unfold deliver
  split
  case h_1 => exact .next rfl
  case h_2 x hx =>
    split_ifs
    case neg => split <;> exact .next rfl
    all_goals exact .next rfl

theorem during_leavesDevice (s : State) (p : Bool) (f : Mach → Mach) : LeavesDevice s.dev (s.during p f) := by
  cases p <;> exact .next rfl

theorem host_leavesDevice (s : State) (f : Mach → Mach) : LeavesDevice s.dev (s.host f) := by
  unfold State.host
  split_ifs <;> exact .next rfl

/-! ### The words -/

/-- An encoded word, the dictionary form aside, is the issue of a word with its fields. -/
theorem exec_eq_issue {i : Instr} {f : Fields} (hf : i.fields? = some f) : ∃ len b, ∀ s, exec i s = issue len f b s := by
  cases i <;> cases hf <;> exact ⟨_, _, fun _ => rfl⟩

theorem execDictionaryForm_leavesDevice (w : WordD) (s : State) : LeavesDevice s.dev (execDictionaryForm w s) := by
  unfold execDictionaryForm
  split
  case h_1 => exact .next rfl
  case h_2 slot g hg =>
    split
    case isTrue => exact .next rfl
    case isFalse =>
      split
      case h_1 => exact .next rfl
      case h_2 x hx => exact issue_leavesDevice ..

/-! ### Rows of the host and of peers that reach the machine alone -/

theorem execBindingEnable_leavesDevice (index : Nat) (qcb : Va) (ctx : Nat) (en keep : Bool) (s : State) :
    LeavesDevice s.dev (execBindingEnable index qcb ctx en keep s) := by
  unfold execBindingEnable
  split
  case isTrue => exact host_leavesDevice ..
  case isFalse => exact .next (by split <;> rfl)

theorem execHostRead_leavesDevice (window addr size : Nat) (s : State) : LeavesDevice s.dev (execHostRead window addr size s) := by
  refine .next ?_
  split
  case isTrue => split <;> rfl
  case isFalse =>
    split
    case isTrue => rfl
    case isFalse =>
      split
      case h_1 => rfl
      case h_2 w hw => split_ifs <;> rfl

theorem execHostWrite_leavesDevice (window addr : Nat) (data : List Byte) (s : State) :
    LeavesDevice s.dev (execHostWrite window addr data s) := by
  refine .next ?_
  split
  case isTrue => rfl
  case isFalse =>
    split
    case h_1 => rfl
    case h_2 w hw => split <;> rfl

theorem execPeerRequest_leavesDevice (src addr : Nat) (tag : BitVec 4) (data : Option (List Byte)) (size : Nat) (s : State) :
    LeavesDevice s.dev (execPeerRequest src addr tag data size s) := by
  refine .next ?_
  split
  case isTrue => rfl
  case isFalse =>
    split
    case h_1 => rfl
    case h_2 bs => split <;> rfl

theorem execPeerAtomic_leavesDevice (src : Nat) (rid : Word) (op : BitVec 4) (addr : Nat) (tag : BitVec 4) (size : Nat)
    (operand expected : Dword) (s : State) :
    LeavesDevice s.dev (execPeerAtomic src rid op addr tag size operand expected s) := by
  refine .next ?_
  split
  case h_1 => rfl
  case h_2 o ho => split_ifs <;> rfl

theorem execReductionResult_leavesDevice (n : Nat) (merge : List (Option Nat)) (s : State) :
    LeavesDevice s.dev (execReductionResult n merge s) := by
  refine .next ?_
  split
  case h_1 => rfl
  case h_2 w hw =>
    dsimp only
    split
    case isTrue => rfl
    case isFalse =>
      split
      case isTrue => split <;> rfl
      case isFalse =>
        split
        case h_1 x hx => split <;> rfl
        case h_2 => rfl

theorem execLaunchComplete_leavesDevice (launch : Nat) (s : State) : LeavesDevice s.dev (execLaunchComplete launch s) := by
  refine .next ?_
  split
  case h_1 => rfl
  case h_2 l hl => split <;> rfl

/-! ### Every instruction (R5) -/

/-- A row without an encoding, and the dictionary form, leave the host's part as it is unless they are of the platform. -/
theorem exec_event_leavesDevice {i : Instr} (hf : i.fields? = none) (hi : setsDevice i = false) (s : State) :
    LeavesDevice s.dev (exec i s) := by
  cases i <;> cases hf <;> cases hi <;> unfold exec
  case dictionaryForm => exact execDictionaryForm_leavesDevice ..
  case resultWrite | fetchComplete | staleNotice | writeBack | writeBackAck | atomicRequest | putData | counterAdd | objectStep
      | ringOpAtHub | barrierOpAtHub | taskOpAtHub | waiterArrival => exact deliver_leavesDevice ..
  case runArbitration | speculativeFetch | entryStart | copyDelivery | copyDone | kBlock | operationDone | parkComplete
      | unparkComplete | contextSaveComplete | implicitRelease | conveyance | intervalStart | cwaitPoll | duplexTimeout
      | retransmit => exact during_leavesDevice ..
  case create | suspend | resume | teardown | remap | coreReset | hostXlinv | hostFunctionClear | faultQueueHeadWrite
      | reductionWindowStateWrite => exact host_leavesDevice ..
  case bindingEnable => exact execBindingEnable_leavesDevice ..
  case hostRead => exact execHostRead_leavesDevice ..
  case hostWrite => exact execHostWrite_leavesDevice ..
  case peerRequest => exact execPeerRequest_leavesDevice ..
  case peerAtomic => exact execPeerAtomic_leavesDevice ..
  case reductionResult => exact execReductionResult_leavesDevice ..
  case launchComplete => exact execLaunchComplete_leavesDevice ..
  case acknowledgement => exact .next rfl
  case placement | newEpoch => exact .next (by split <;> rfl)

theorem exec_leavesDevice {i : Instr} (hi : setsDevice i = false) (s : State) : LeavesDevice s.dev (exec i s) := by
  cases hf : i.fields? with
  | none => exact exec_event_leavesDevice hf hi s
  | some f =>
    obtain ⟨len, b, he⟩ := exec_eq_issue hf
    rw [he]
    exact issue_leavesDevice ..

/-! ### The decoder gives no row of the platform -/

theorem setsDevice_decodeWord (w : BitVec 32) : setsDevice (decodeWord w) = false := by
  unfold decodeWord decodeRow0 decodeRow1 decodeRow2 decodeRow3 decodeRow4 decodeRow5 decodeRow6 decodeRow7 decodeRow8 decodeRow9
    decodeRowA decodeRowB decodeRowC decodeRowD decodeRowE decodeRowF
  dsimp only
  split <;> split <;> rfl

theorem setsDevice_decodeHalf (h : BitVec 16) : setsDevice (decodeHalf h) = false := by
  unfold decodeHalf
  split
  case isTrue => rfl
  case isFalse => unfold decodeCompact; split <;> rfl

theorem setsDevice_decode {bs : List Byte} {i : Instr} {len : Nat} (h : decode bs = .ok (i, len)) : setsDevice i = false := by
  unfold decode at h
  split at h
  case h_1 b0 b1 rest =>
    split at h
    case isTrue =>
      split at h <;> cases h
      exact setsDevice_decodeWord _
    case isFalse =>
      cases h
      exact setsDevice_decodeHalf _
  case h_2 => cases h

/-! ### The default policy chooses no row of the platform (log 1) -/

/-- An event that comes next, if one does, is no row of the platform. -/
structure Inside (o : Option Instr) : Prop where
  row : ∀ i, o = some i → setsDevice i = false

theorem Inside.none : Inside none := ⟨nofun⟩

theorem Inside.some {i : Instr} (h : setsDevice i = false) : Inside (some i) :=
  ⟨fun _ hi => by cases hi; exact h⟩

theorem Inside.of_eq {o : Option Instr} {i : Instr} (ho : o = Option.some i) (h : Inside o) : Inside (Option.some i) := by
  rwa [← ho]

theorem Inside.ite {p : Prop} [Decidable p] {a b : Option Instr} (ha : Inside a) (hb : Inside b) : Inside (if p then a else b) := by
  split
  case isTrue => exact ha
  case isFalse => exact hb

theorem Inside.findSome? {α : Type} {f : α → Option Instr} {l : List α} (h : ∀ a, Inside (f a)) : Inside (l.findSome? f) := by
  refine ⟨fun i hi => ?_⟩
  obtain ⟨a, -, ha⟩ := List.exists_of_findSome?_eq_some hi
  exact (h a).row i ha

theorem Inside.map {α : Type} {f : α → Instr} {o : Option α} (h : ∀ a, setsDevice (f a) = false) : Inside (o.map f) := by
  refine ⟨fun i hi => ?_⟩
  obtain ⟨a, -, rfl⟩ := Option.map_eq_some_iff.mp hi
  exact h a

theorem setsDevice_event (n : Nat) (b : MsgBody) : setsDevice (b.event n) = false := by
  cases b <;> rfl

theorem State.nextMsg_inside (s : State) : Inside s.nextMsg := .map fun _ => setsDevice_event ..

theorem State.moving_inside (s : State) (f : Mach → Mach) {i : Instr} (h : setsDevice i = false) : Inside (s.moving f i) :=
  .ite .none (.some h)

theorem State.chanEvent_inside (s : State) (core chan : Nat) (ch : Channel) : Inside (s.chanEvent core chan ch) := by
  have deliver := s.moving_inside (fun m => m.copyDeliver s.dev core chan) (i := .copyDelivery core chan) rfl
  have done := s.moving_inside (fun m => m.copyFinish core chan) (i := .copyDone core chan) rfl
  unfold State.chanEvent
  split
  case h_1 => exact .none
  case h_2 e es _ =>
    refine .ite (.ite done deliver) ?_
    split
    case h_1 => exact .ite deliver done
    case h_2 => exact s.moving_inside _ rfl

theorem State.engineEvent_inside (s : State) (core : Nat) : Inside (s.engineEvent core) := by
  unfold State.engineEvent
  split
  case h_1 => exact .none
  case h_2 o os _ => exact .ite (.some rfl) (s.moving_inside _ rfl)

theorem groupEvent_inside (m : Mach) (core slot : Nat) (g : Group) : Inside (groupEvent m core slot g) := by
  refine .ite (.some rfl) (.ite (.some rfl) ?_)
  split
  case h_1 => exact .none
  case h_2 e he => exact .ite .none (.ite (.some rfl) (.ite .none (.some rfl)))

theorem State.coreEvent_inside (s : State) (core : Nat) (c : Core) : Inside (s.coreEvent core c) := by
  refine .ite .none (.ite (.some rfl) ?_)
  extract_lets work
  have hwork : Inside work := by
    refine .ite .none ?_
    cases hc : c.chans.findSome? (fun e => s.chanEvent core e.1 e.2) with
    | some i => exact .of_eq hc (.findSome? fun _ => s.chanEvent_inside ..)
    | none => exact s.engineEvent_inside core
  clear_value work
  cases hw : work with
  | some i => exact .of_eq hw hwork
  | none =>
    cases hg : c.groups.findSome? (fun e => groupEvent s.mach core e.1 e.2) with
    | some i => exact .of_eq hg (.findSome? fun _ => groupEvent_inside ..)
    | none => exact .findSome? fun _ => groupEvent_inside ..

theorem State.launchEvent_inside (s : State) : Inside s.launchEvent := .map fun _ => rfl

theorem State.nextEvent_inside (s : State) : Inside s.nextEvent := by
  unfold State.nextEvent
  cases hm : s.nextMsg with
  | some i => exact .of_eq hm s.nextMsg_inside
  | none =>
    cases hc : s.mach.cores.findSome? (fun e => s.coreEvent e.1 e.2) with
    | some i => exact .of_eq hc (.findSome? fun _ => s.coreEvent_inside ..)
    | none =>
      refine .ite .none ?_
      cases hl : s.launchEvent with
      | some i => exact .of_eq hl s.launchEvent_inside
      | none => exact .ite (.some rfl) .none

/-! ### Every turn that is no row of the platform (R5) -/

theorem fetchAndRun_leavesDevice (s : State) (slot : Nat) (g : Group) : LeavesDevice s.dev (fetchAndRun s slot g) := by
  unfold fetchAndRun
  split
  case h_1 m bs hm =>
    split
    case h_1 i len hi => exact exec_leavesDevice (setsDevice_decode hi) { s with mach := m }
    case h_2 => exact .next rfl
  all_goals exact .next rfl

theorem laneTurn_leavesDevice (s : State) : LeavesDevice s.dev (laneTurn s) := by
  unfold laneTurn
  split
  case isTrue => exact .next rfl
  case isFalse =>
    unfold lanePlay
    split
    case h_1 slot g _ => exact fetchAndRun_leavesDevice s.demand slot g
    case h_2 => exact .next (by unfold State.boundary; split_ifs <;> rfl)

theorem defaultTurn_leavesDevice (s : State) : LeavesDevice s.dev (defaultTurn s) := by
  unfold defaultTurn
  split
  case isTrue => exact exec_leavesDevice rfl s
  case isFalse =>
    split
    case isTrue => exact laneTurn_leavesDevice s
    case isFalse =>
      split
      case h_1 i hi => exact exec_leavesDevice (s.nextEvent_inside.row i hi) s.unhold
      case h_2 => exact laneTurn_leavesDevice s.unhold

theorem step_leavesDevice_default {s : State} (h : s.turns = []) : LeavesDevice s.dev (step s) := by
  unfold step
  rw [h]
  exact defaultTurn_leavesDevice s

/-- A listed turn leaves the host's part as it is, unless it is a row of the platform. -/
theorem step_leavesDevice_turn {s : State} {u : Turn} {ts : List Turn} (h : s.turns = u :: ts)
    (hu : ∀ i, u = .event i → setsDevice i = false) : LeavesDevice s.dev (step s) := by
  unfold step
  rw [h]
  cases u with
  | issue core lane => exact laneTurn_leavesDevice { s with turns := ts, curCore := core, curLane := lane }
  | event i => exact exec_leavesDevice (hu i rfl) { s with turns := ts }
  | upset u => exact .next rfl
  | traffic x y plane flits => exact .next (by unfold State.traffic; dsimp only; split <;> rfl)

/-! ### The rows of the platform: a plane that goes dark (R385, R402) -/

/-- Only what the power commands set, their queue and their status differ. -/
structure OnlyPower (d d' : Device) : Prop where
  eq : d' = { d with
    planes := d'.planes, levels := d'.levels, gated := d'.gated, refresh := d'.refresh, trip := d'.trip, queued := d'.queued
    cmdRefused := d'.cmdRefused }

theorem OnlyPower.refl (d : Device) : OnlyPower d d := ⟨rfl⟩

theorem OnlyPower.trans {a b c : Device} (h : OnlyPower a b) (h' : OnlyPower b c) : OnlyPower a c := by
  obtain ⟨h⟩ := h
  obtain ⟨h'⟩ := h'
  rw [h', h]
  exact ⟨rfl⟩

theorem Device.power_onlyPower (d : Device) (c : PowerCmd) : OnlyPower d (d.power c) := by
  cases c <;> exact ⟨rfl⟩

theorem State.perform_onlyPower (s : State) (c : PowerCmd) : OnlyPower s.dev (s.perform c).dev := by
  unfold State.perform
  split
  case isTrue => exact ⟨rfl⟩
  case isFalse => exact (s.dev.power_onlyPower c).trans ⟨rfl⟩

theorem State.performAll_onlyPower (s : State) (cs : List PowerCmd) : OnlyPower s.dev (s.performAll cs).dev := by
  induction cs generalizing s with
  | nil => exact .refl _
  | cons c cs ih =>
    unfold State.performAll
    split
    case isTrue => exact ⟨rfl⟩
    case isFalse => exact (s.perform_onlyPower c).trans (ih _)

theorem execPlaneDark_onlyPower {s t : State} {p : Nat} (h : execPlaneDark p s = .next t) : OnlyPower s.dev t.dev := by
  cases h
  split
  case h_1 => exact .refl _
  case h_2 x hx =>
    split
    case isTrue => exact .refl _
    case isFalse =>
      dsimp only
      split
      case isTrue => exact .trans ⟨rfl⟩ (State.performAll_onlyPower ..)
      case isFalse => exact ⟨rfl⟩

/-! ### The other rows of the platform -/

/-- The thermal trip (R404). -/
theorem execThermalTrip_dev {s t : State} {sensor temp : Nat} (h : execThermalTrip sensor temp s = .next t) :
    t.dev = { s.dev with
      dieTemp := t.dev.dieTemp, stackTemp := t.dev.stackTemp, tripped := t.dev.tripped, running := t.dev.running } := by
  cases h
  split
  case isTrue => rfl
  case isFalse =>
    unfold Device.sensed
    split <;> rfl

/-- The link (R377). -/
theorem execLinkFailure_dev {s t : State} (h : execLinkFailure s = .next t) :
    t.dev = { s.dev with linkUp := t.dev.linkUp, attach := t.dev.attach } := by
  cases h
  dsimp only
  split_ifs <;> rfl

theorem execLinkUp_dev {s t : State} (h : execLinkUp s = .next t) :
    t.dev = { s.dev with linkUp := t.dev.linkUp, attach := t.dev.attach } := by
  cases h
  split <;> rfl

/-- A port (R397). -/
theorem execGeloloPortFailure_dev {s t : State} {p : Nat} (h : execGeloloPortFailure p s = .next t) :
    t.dev = { s.dev with ports := t.dev.ports } := by
  cases h
  split <;> rfl

/-- An in-field test (R408). -/
theorem execTestAbort_dev {s t : State} {cl : Nat} (h : execTestAbort cl s = .next t) :
    t.dev = { s.dev with test := t.dev.test, testReport := t.dev.testReport } := by
  cases h
  split
  case h_1 x slot _ _ => split <;> rfl
  case h_2 => rfl

theorem execTestReport_dev {s t : State} {cl : Nat} {pass : BitVec 8} (h : execTestReport cl pass s = .next t) :
    t.dev = { s.dev with test := t.dev.test, testReport := t.dev.testReport } := by
  cases h
  split
  case h_1 => rfl
  case h_2 x _ => split <;> rfl

/-- A migration that ends (R401). -/
theorem execMigrateDone_dev {s t : State} (h : execMigrateDone s = .next t) :
    t.dev = { s.dev with migrateStatus := t.dev.migrateStatus } := by
  cases h
  split
  case h_1 => rfl
  case h_2 x _ => split <;> rfl

theorem execMigrateBusy_dev {s t : State} (h : execMigrateBusy s = .next t) :
    t.dev = { s.dev with migrateStatus := t.dev.migrateStatus } := by
  cases h
  split
  case h_1 => rfl
  case h_2 x _ => split <;> rfl

/-- Settles O60: no turn but a platform row changes the host's part, since words issue and every other row answers the machine's part
alone; each platform row that the host does not bring about is read off its own definition. -/
theorem onlyHostChangesDevice : Obligations.OnlyHostChangesDevice := by
  refine ⟨fun _ _ _ => setsDevice_decode, fun s t i hi => (exec_leavesDevice hi s).dev t,
    fun s t hs => (step_leavesDevice_default hs).dev t, fun s t u ts hs hu => (step_leavesDevice_turn hs hu).dev t,
    fun s t p h => (execPlaneDark_onlyPower h).eq, fun s t sensor temp h => execThermalTrip_dev h, ?_, ?_,
    fun s t p h => execGeloloPortFailure_dev h, ?_, ?_⟩
  case refine_1 =>
    rintro s _ d p k ⟨⟩
    rfl
  case refine_2 =>
    rintro s t i (rfl | rfl) h
    · exact execLinkFailure_dev h
    · exact execLinkUp_dev h
  case refine_3 =>
    rintro s t cl pass i (rfl | rfl) h
    · exact execTestAbort_dev h
    · exact execTestReport_dev h
  case refine_4 =>
    rintro s t i (rfl | rfl) h
    · exact execMigrateDone_dev h
    · exact execMigrateBusy_dev h

end Sys2Proof.Machine
end

section
/-! PROOF. Rules that the words of rows 9 to F share: the words of a descriptor block, a word for the whole group, a body that has completed
and its run boundary, and a status that arrives in D. -/

namespace Sys2Proof.Machine

/-! ### Descriptor blocks (R187, R192) -/

theorem illFormed_of_wordFault {g : Group} {f : Fields} (h : wordFault g f = none) : illFormed f = none := by
  unfold wordFault at h
  split at h
  · cases h
  · split at h
    · cases h
    · next hi => simpa using hi

theorem widthsOk_of_illFormed {f : Fields} (h : illFormed f = none) : widthsOk f (usesOf f.op) = true := by
  unfold illFormed at h
  simp only [ite_eq_iff, reduceCtorEq, and_false, false_or, Bool.not_eq_true', Bool.not_eq_false, and_true] at h
  obtain ⟨-, -, -, -, -, -, -, hw⟩ := h
  exact hw

theorem blockOk_of_wordFault {g : Group} {f : Fields} {n : Nat} (h : wordFault g f = none) (hn : .blk n ∈ usesOf f.op) :
    blockOk n f.fa = true :=
  List.all_eq_true.1 (widthsOk_of_illFormed (illFormed_of_wordFault h)) _ hn

/-- The words of a well-formed block are consecutive k registers. -/
theorem blockWord_eq_readK {g : Group} {f : Fields} {n i : Nat} (h : blockOk n f.fa = true) (hi : i < n) :
    blockWord g f i = g.readK (f.fa.toNat - 48 + i) := by
  simp only [blockOk, Bool.and_eq_true, decide_eq_true_eq, isK_iff] at h
  obtain ⟨⟨hk, -⟩, hend⟩ := h
  have hsum : (f.fa + BitVec.ofNat 6 i).toNat = f.fa.toNat + i := by
    rw [BitVec.toNat_add, BitVec.toNat_ofNat]; omega
  have hz : isZ f.fa = false := by rw [Bool.eq_false_iff, ne_eq, isZ_iff]; omega
  have hv' : isV (f.fa + BitVec.ofNat 6 i) = false := by rw [Bool.eq_false_iff, ne_eq, isV_iff]; omega
  have hz' : isZ (f.fa + BitVec.ofNat 6 i) = false := by rw [Bool.eq_false_iff, ne_eq, isZ_iff]; omega
  simp only [blockWord, Group.regAt, Group.reg, hz, hv', hz', hsum, Bool.false_eq_true, if_false]
  congr 1
  omega

/-! ### A word for the whole group (R227) -/

theorem acts_of_participants {g : Group} {f : Fields} {gf : BitVec 3} (h : g.participants gf ≠ []) : Acts g f :=
  .inl fun h0 => h (by simp [Group.participants, Group.active, threadsOf, h0])

theorem runBody_groupWide {k : Who → Mach → Group → Except Trap Mach} {d : Device} {w : Who} {g : Group} {m : Mach}
    (h : g.participants w.f.g ≠ []) : runBody (groupWide k) d w g m = k w (m.retire w g) (g.retired w) := by
  rw [runBody_acts (acts_of_participants h), groupWide, withGroup_retire]
  exact if_neg h

/-! ### A completed body and its run boundary -/

theorem OneCore.msgs {m m' : Mach} {core : Nat} (h : OneCore m m' core) : m'.msgs = m.msgs := by rw [h.mach]

theorem OneCore.clusters {m m' : Mach} {core : Nat} (h : OneCore m m' core) : m'.clusters = m.clusters := by rw [h.mach]

theorem OneGroup.setGroup (m : Mach) (core slot : Nat) (g : Group) :
    OneGroup (m.core core) ((m.setGroup core slot g).core core) slot := by
  rw [Mach.core_setGroup_self]
  exact .setGroups ..

/-- After a body that completes, a word has done no more than a run boundary does to its group. -/
theorem issue_completed {s : State} {slot : Nat} {g g1 : Group} {f : Fields} {len : Nat} {b : Body} {m1 : Mach}
    (h : Issues s slot g f) (hb : runBody b s.dev ⟨s.curCore, slot, f, g.pc, len⟩ g s.mach = .ok m1)
    (hg : m1.group? s.curCore slot = some g1) (hw : g1.wait = none) :
    ∃ t g', issue len f b s = .next t ∧ SameHost s t ∧ OneCore m1 t.mach s.curCore ∧
      OneGroup (m1.core s.curCore) (t.mach.core s.curCore) slot ∧ t.mach.group? s.curCore slot = some g' ∧ g'.rest = g1.rest := by
  rw [issue_eq h, hb]
  dsimp only
  by_cases he : f.e = true
  · rw [if_pos he]
    obtain ⟨hcore, hgroup, ⟨g', hg', hrest, -⟩, -⟩ := Mach.atBoundary_spec hg hw
    exact ⟨_, g', rfl, ⟨rfl, rfl, rfl, rfl⟩, hcore, hgroup, hg', hrest⟩
  · rw [if_neg he]
    exact ⟨_, g1, rfl, ⟨rfl, rfl, rfl, rfl⟩, .refl .., .refl .., hg, rfl⟩

/-! ### Memory that stays -/

theorem SameMemory.trans {a b c : Mach} (h : SameMemory a b) (h' : SameMemory b c) : SameMemory a c where
  dram x := (h'.dram x).trans (h.dram x)
  host x := (h'.host x).trans (h.host x)
  fabric x := (h'.fabric x).trans (h.fabric x)
  peers d x := (h'.peers d x).trans (h.peers d x)
  tags := h'.tags.trans h.tags
  ecc := h'.ecc.trans h.ecc
  spad k x := (h'.spad k x).trans (h.spad k x)
  frames k f := (h'.frames k f).trans (h.frames k f)

theorem SameMemory.send (m : Mach) (core slot uid place due : Nat) (held : Bool) (b : MsgBody) (src : Option Nat) :
    SameMemory m (m.send core slot uid place due held b src) :=
  ⟨fun _ => rfl, fun _ => rfl, fun _ => rfl, fun _ _ => rfl, rfl, rfl, fun _ _ => rfl, fun _ _ => rfl⟩

theorem SameMemory.opportunity (m : Mach) : SameMemory m m.opportunity :=
  ⟨fun _ => rfl, fun _ => rfl, fun _ => rfl, fun _ _ => rfl, rfl, rfl, fun _ _ => rfl, fun _ _ => rfl⟩

theorem SameMemory.setGroup (m : Mach) (core slot : Nat) (g : Group) : SameMemory m (m.setGroup core slot g) :=
  (OneCore.setGroup m core slot g).sameMemory (OneGroup.setGroup m core slot g)

theorem SameMemory.retire (m : Mach) (w : Who) (g : Group) : SameMemory m (m.retire w g) :=
  (OneCore.retire m w g).sameMemory (OneGroup.retire m w g)

/-- A scratchpad reads as before while its written bytes and the placements of its pages (log 7) stay. -/
theorem Cluster.spadByte_congr {k k' : Cluster} (hs : k'.spad = k.spad)
    (hp : ∀ p, (k'.pages.getD p {}).epoch = (k.pages.getD p {}).epoch) (a : Nat) : k'.spadByte a = k.spadByte a := by
  unfold Cluster.spadByte
  rw [hs, hp]

/-- A change of one cluster leaves memory alone when its scratchpad reads as before. -/
theorem SameMemory.modCluster {m : Mach} {cl : Nat} {f : Cluster → Cluster}
    (h : ∀ a, (f (m.cluster cl)).spadByte a = (m.cluster cl).spadByte a) : SameMemory m (m.modCluster cl f) where
  dram _ := rfl
  host _ := rfl
  fabric _ := rfl
  peers _ _ := rfl
  tags := rfl
  ecc := rfl
  spad c a := by
    unfold Mach.modCluster
    by_cases hc : c = cl
    · rw [hc, Mach.cluster_setCluster_self, h]
    · rw [Mach.cluster_setCluster_ne _ _ hc]
  frames _ _ := rfl

/-! ### A status that arrives in D (R229) -/

/-- A word whose body ends in `answerD`: D's bit is pending, and the status is on its way. Before it the body may have changed what is
neither a core nor memory. -/
theorem answersLater_of_answerD {s : State} {slot : Nat} {g : Group} {f : Fields} {b : Body} {m1 : Mach} {st : Status}
    (h : Issues s slot g f)
    (hb : runBody b s.dev (s.who slot g f) g s.mach = answerD (s.who slot g f) m1 (g.retired (s.who slot g f)) st)
    (hcores : m1.cores = (s.issued slot g f 4).cores) (hmsgs : m1.msgs = s.mach.msgs)
    (hmem : SameMemory (s.issued slot g f 4) m1) :
    ∃ t g', issue 4 f b s = .next t ∧ AnswersLater s t slot g g' f.fd st ∧ t.mach.clusters = m1.clusters := by
  set g1 := g.retired (s.who slot g f)
  set g2 : Group := { g1 with sb := g1.sb ||| regItems f.fd 1 }
  have hcore : ∀ c, m1.core c = (s.issued slot g f 4).core c := fun c => by unfold Mach.core; rw [hcores]
  have hg1 : m1.group? s.curCore slot = some g1 := by
    unfold Mach.group?
    rw [hcore]
    exact Mach.group?_retire s.mach (s.who slot g f) g
  set m2 := (m1.setGroup s.curCore slot g2).sendResult s.curCore slot g.uid 0 (statusWrites f.fd st) (regItems f.fd 1) false
  have hb2 : runBody b s.dev (s.who slot g f) g s.mach = .ok m2 := by
    rw [hb, answerD, defer, Mach.modGroup_some _ hg1]
    rfl
  have hg2 : m2.group? s.curCore slot = some g2 := Mach.group?_setGroup_self ..
  obtain ⟨t, g', hnext, hhost, hone, hgroup, hg', hrest⟩ := issue_completed h hb2 hg2 rfl
  have hinside : OneGroup (s.mach.core s.curCore) (m2.core s.curCore) slot :=
    OneGroup.trans (b := m1.core s.curCore) (by rw [hcore]; exact OneGroup.retire s.mach (s.who slot g f) g)
      (OneGroup.setGroup m1 s.curCore slot g2)
  refine ⟨t, g', hnext, ⟨⟨hhost, ?_, fun c hc => ?_, hinside.trans hgroup, hg', ?_⟩, hrest⟩, hone.clusters⟩
  · exact (SameMemory.retire ..).trans <| hmem.trans <| (SameMemory.setGroup ..).trans <| (SameMemory.send ..).trans <|
      hone.sameMemory hgroup
  · rw [hone.cores c hc]
    exact (Mach.core_setGroup_ne _ _ _ hc).trans <| (hcore c).trans <| (OneCore.retire ..).cores c hc
  · refine ⟨_, hone.msgs.trans (congrArg (· ++ _) hmsgs), rfl, fun x hx => ?_⟩
    rw [List.mem_singleton.1 hx]
    exact ⟨rfl, rfl, rfl⟩

end Sys2Proof.Machine
end

section
/-! PROOF. LEND and RECLAIM (R97, R250): the pages that a block's word names, what a return of unused pages leaves, and O35. -/

namespace Sys2Proof.Machine

/-! ### The pages of the word -/

theorem lendPages_retire (m : Mach) (w : Who) (g : Group) : lendPages (m.retire w g) w (g.retired w) = lendPages m w g := rfl

/-- LEND and RECLAIM name no pages exactly where the first row of R250 is broken. -/
theorem lendPages_eq_none_iff {m : Mach} {w : Who} {g : Group} :
    lendPages m w g = none ↔
      g.id.harvest = true ∨ (blockWord g w.f 1).toNat = 0 ∨ (blockWord g w.f 0).toNat % Config.pageBytes ≠ 0 ∨
      ∀ b, m.block? w.core g = some b →
        b.pages.length < (blockWord g w.f 0).toNat / Config.pageBytes + (blockWord g w.f 1).toNat := by
  cases hb : m.block? w.core g with
  | none => simp [lendPages, hb]
  | some b =>
    simp only [lendPages, hb, Option.some.injEq, forall_eq', ite_eq_left_iff, reduceCtorEq, imp_false, not_not, Bool.or_eq_true,
      decide_eq_true_eq, bne_iff_ne, or_assoc]

theorem lendPages_eq_some {m : Mach} {w : Who} {g : Group} {b : Block} (hb : m.block? w.core g = some b)
    (hh : g.id.harvest = false) (hn : (blockWord g w.f 1).toNat ≠ 0) (ho : (blockWord g w.f 0).toNat % Config.pageBytes = 0)
    (hl : (blockWord g w.f 0).toNat / Config.pageBytes + (blockWord g w.f 1).toNat ≤ b.pages.length) :
    lendPages m w g =
      some (g.id.block, b, b.pageRange ((blockWord g w.f 0).toNat / Config.pageBytes) (blockWord g w.f 1).toNat) := by
  simp only [lendPages, hb]
  exact if_neg (by simp [hh, hn, ho, hl])

/-! ### LEND -/

/-- A page LENT by its block that no harvest block uses yet (R97, R345). -/
def Page.lend (p : Page) : Page := { p with state := .lent, lentTo := none }

/-- A fold that changes listed entries by an idempotent function changes each of them once. -/
theorem SMap.getD_foldl_set {α : Type} {F : α → α} (hF : ∀ x, F (F x) = F x) (d : α) (ps : List Nat) (t : SMap α) (q : Nat) :
    (ps.foldl (fun t p => t.set p (F (t.getD p d))) t).getD q d = if q ∈ ps then F (t.getD q d) else t.getD q d := by
  induction ps generalizing t with
  | nil => simp
  | cons p ps ih =>
    rw [List.foldl_cons, ih, SMap.getD_set]
    by_cases hq : q = p
    · subst hq; simp [hF]
    · simp [hq]

/-- The cluster whose block lends these pages. -/
def Cluster.lend (k : Cluster) (ps : List Nat) : Cluster :=
  { k with pages := ps.foldl (fun t p => t.set p (Page.lend (t.getD p {}))) k.pages }

theorem Cluster.getD_lend (k : Cluster) (ps : List Nat) (q : Nat) :
    (k.lend ps).pages.getD q {} = if q ∈ ps then (k.pages.getD q {}).lend else k.pages.getD q {} :=
  SMap.getD_foldl_set (F := Page.lend) (fun _ => rfl) {} ps k.pages q

theorem Cluster.spadByte_lend (k : Cluster) (ps : List Nat) (a : Nat) : (k.lend ps).spadByte a = k.spadByte a :=
  Cluster.spadByte_congr (k := k) (k' := k.lend ps) rfl (fun p => by rw [getD_lend]; split_ifs <;> rfl) a

theorem runBody_lend_mismatch {d : Device} {w : Who} {g : Group} {m : Mach} (hp : g.participants w.f.g ≠ [])
    (h : lendPages m w g = none) : runBody bodyLend d w g m = answerD w (m.retire w g) (g.retired w) .mismatch := by
  rw [bodyLend, runBody_groupWide hp]
  simp only [lendPages_retire, h]

theorem runBody_lend_ok {d : Device} {w : Who} {g : Group} {m : Mach} {bid : Nat} {b : Block} {ps : List Nat}
    (hp : g.participants w.f.g ≠ []) (h : lendPages m w g = some (bid, b, ps))
    (halloc : ∀ p ∈ ps, ((m.cluster (clusterOf w.core)).pages.getD p {}).state = .alloc)
    (hbind : ∀ e ∈ b.members, ∀ x, (m.retire w g).findGroup e.2.core e.2.slot e.2.uid = some x →
      x.bindsIn (clusterOf w.core) ps = false) :
    runBody bodyLend d w g m =
      answerD w ((m.retire w g).opportunity.modCluster (clusterOf w.core) (·.lend ps)) (g.retired w) .ok := by
  rw [bodyLend, runBody_groupWide hp]
  simp only [lendPages_retire, h]
  refine if_neg ?_
  rw [Bool.or_eq_true, List.any_eq_true, List.any_eq_true]
  rintro (⟨p, hm, hs⟩ | ⟨e, hm, hs⟩)
  · have hne : (((m.retire w g).cluster (clusterOf w.core)).pages.getD p {}).state ≠ .alloc := by simpa using hs
    exact hne (halloc p hm)
  · cases hf : (m.retire w g).findGroup e.2.core e.2.slot e.2.uid with
    | none => simp [hf] at hs
    | some x => simp [hf, hbind e hm x hf] at hs

/-- A LEND of ALLOC pages that no group of the block binds answers OK, and its pages are LENT (R250). -/
theorem lend_lends {s : State} {slot : Nat} {g : Group} {f : Fields} {bid : Nat} {b : Block} {ps : List Nat}
    (h : Issues s slot g f) (hp : g.participants f.g ≠ []) (hl : lendPages s.mach (s.who slot g f) g = some (bid, b, ps))
    (halloc : ∀ p ∈ ps, ((s.mach.cluster (clusterOf s.curCore)).pages.getD p {}).state = .alloc)
    (hbind : ∀ e ∈ b.members, ∀ x, (s.issued slot g f 4).findGroup e.2.core e.2.slot e.2.uid = some x →
      x.bindsIn (clusterOf s.curCore) ps = false) :
    ∃ t g', issue 4 f bodyLend s = .next t ∧ AnswersLater s t slot g g' f.fd .ok ∧
      ∀ p, (t.mach.cluster (clusterOf s.curCore)).pages.getD p {} =
        if p ∈ ps then ((s.mach.cluster (clusterOf s.curCore)).pages.getD p {}).lend
        else (s.mach.cluster (clusterOf s.curCore)).pages.getD p {} := by
  set m1 := (s.issued slot g f 4).opportunity.modCluster (clusterOf s.curCore) (·.lend ps)
  have hmem : SameMemory (s.issued slot g f 4) m1 :=
    (SameMemory.opportunity _).trans (SameMemory.modCluster (Cluster.spadByte_lend _ ps))
  obtain ⟨t, g', hnext, hans, hclusters⟩ := answersLater_of_answerD h (runBody_lend_ok hp hl halloc hbind) rfl rfl hmem
  refine ⟨t, g', hnext, hans, fun p => ?_⟩
  have hcluster : t.mach.cluster (clusterOf s.curCore) = (s.mach.cluster (clusterOf s.curCore)).lend ps := by
    unfold Mach.cluster
    rw [hclusters]
    exact Mach.cluster_setCluster_self ..
  rw [hcluster, Cluster.getD_lend]

/-! ### The return of pages that nothing uses (R250) -/

/-- A fold leaves alone what each of its steps leaves alone. -/
theorem foldl_fixed_of_mem {α β : Type} {step : α → β → α} {a : α} (l : List β) (h : ∀ b ∈ l, step a b = a) : l.foldl step a = a := by
  induction l with
  | nil => rfl
  | cons b l ih => rw [List.foldl_cons, h b (by simp), ih fun c hc => h c (by simp [hc])]

/-- A fold of which one step alone does something. -/
theorem foldl_eq_step {α β : Type} {step : α → β → α} {a : α} {b : β} {l : List β} (hb : b ∈ l) (hl : l.Nodup)
    (hbefore : ∀ c ∈ l, c ≠ b → step a c = a) (hafter : ∀ c ∈ l, c ≠ b → step (step a b) c = step a b) : l.foldl step a = step a b := by
  obtain ⟨l1, l2, rfl⟩ := List.append_of_mem hb
  have hne : ∀ c ∈ l1 ++ l2, c ≠ b := fun c hc hcb => (List.nodup_middle.1 hl).notMem (hcb ▸ hc)
  rw [List.foldl_append, List.foldl_cons, foldl_fixed_of_mem l1 fun c hc => hbefore c (by simp [hc]) (hne c (by simp [hc])),
    foldl_fixed_of_mem l2 fun c hc => hafter c (by simp [hc]) (hne c (by simp [hc]))]

theorem Mach.freshPage_pages (m : Mach) (cl p : Nat) (f : Page → Page) : ((m.freshPage cl p f).cluster cl).pages =
    (m.cluster cl).pages.set p { f ((m.cluster cl).pages.getD p {}) with epoch := m.draws } := by
  unfold Mach.freshPage Mach.modCluster
  rw [Mach.cluster_setCluster_self]
  rfl

theorem Mach.loseLines_clusters (m : Mach) (cl : Nat) (ps : List Nat) : (m.loseLines cl ps).clusters = m.clusters := by
  refine foldl_keeps (fun x => x.clusters = m.clusters) _ (fun x i h => ?_) _ m rfl
  exact h

theorem Mach.loseLines_ops (m : Mach) (cl : Nat) (ps : List Nat) (c : Nat) : ((m.loseLines cl ps).core c).ops = (m.core c).ops := by
  refine foldl_keeps (fun x => (x.core c).ops = (m.core c).ops) _ (fun x i h => ?_) _ m rfl
  by_cases hc : c = 8 * cl + i
  · subst hc; rw [Mach.core_modCore_self]; exact h
  · rw [Mach.core_modCore_ne _ _ hc]; exact h

/-- Lines in returned pages are lost to harvest groups alone. -/
theorem Mach.loseLines_group? {m : Mach} {core slot : Nat} {g : Group} (hg : m.group? core slot = some g)
    (hh : g.id.harvest = false) (cl : Nat) (ps : List Nat) : (m.loseLines cl ps).group? core slot = some g := by
  refine foldl_keeps (fun x => x.group? core slot = some g) _ (fun x i h => ?_) _ m hg
  unfold Mach.group? at h ⊢
  by_cases hc : core = 8 * cl + i
  · subst hc
    simp [SMap.get?_mapVals, h, hh]
  · rw [Mach.core_modCore_ne _ _ hc]; exact h

/-- What a run of returned pages leaves: the pages in their new state, every other page as before, and every core. -/
theorem Mach.foldl_freshPage (cl : Nat) (st : PageState) (ps : List Nat) (m : Mach) :
    let m' := ps.foldl (fun m p => m.freshPage cl p (fun x => { x with state := st, lentTo := none })) m
    m'.cores = m.cores ∧
    (∀ p ∈ ps, ((m'.cluster cl).pages.getD p {}).state = st ∧ ((m'.cluster cl).pages.getD p {}).lentTo = none) ∧
    ∀ p, p ∉ ps → (m'.cluster cl).pages.getD p {} = (m.cluster cl).pages.getD p {} := by
  induction ps generalizing m with
  | nil => simp
  | cons q ps ih =>
    obtain ⟨hcores, hin, hout⟩ := ih (m.freshPage cl q (fun x => { x with state := st, lentTo := none }))
    refine ⟨hcores, fun p hp => ?_, fun p hp => ?_⟩
    · by_cases hps : p ∈ ps
      · exact hin p hps
      · obtain rfl : p = q := (List.mem_cons.1 hp).resolve_right hps
        rw [List.foldl_cons, hout p hps, Mach.freshPage_pages, SMap.getD_set_self]
        exact ⟨rfl, rfl⟩
    · obtain ⟨hpq, hps⟩ := not_or.1 (mt List.mem_cons.2 hp)
      rw [List.foldl_cons, hout p hps, Mach.freshPage_pages, SMap.getD_set_ne _ _ _ hpq]

/-- What a return leaves that is not `FREE`: as for the pages alone, and of a core the lines of harvest groups at most. -/
theorem Mach.returnPages_spec {m : Mach} (cl : Nat) (ps : List Nat) {st : PageState} (hst : st ≠ .free) :
    let m' := m.returnPages cl ps st
    (∀ c, (m'.core c).ops = (m.core c).ops) ∧
    (∀ core slot g, m.group? core slot = some g → g.id.harvest = false → m'.group? core slot = some g) ∧
    (∀ p ∈ ps, ((m'.cluster cl).pages.getD p {}).state = st ∧ ((m'.cluster cl).pages.getD p {}).lentTo = none) ∧
    ∀ p, p ∉ ps → (m'.cluster cl).pages.getD p {} = (m.cluster cl).pages.getD p {} := by
  dsimp only [Mach.returnPages]
  rw [if_neg hst]
  obtain ⟨hcores, hin, hout⟩ := Mach.foldl_freshPage cl st ps (m.loseLines cl ps)
  refine ⟨fun c => ?_, fun core slot g hg hh => ?_, hin, fun p hp => (hout p hp).trans ?_⟩
  · unfold Mach.core at *
    rw [hcores]
    exact m.loseLines_ops cl ps c
  · unfold Mach.group? Mach.core
    rw [hcores]
    exact Mach.loseLines_group? hg hh cl ps
  · unfold Mach.cluster
    rw [Mach.loseLines_clusters]

/-- The return of one core operation's pages, once all their users are parked (R358). -/
def Mach.serveReturn (cl core : Nat) (m : Mach) (o : CoreOp) : Mach :=
  if (m.pageUsers cl o.pages).any (fun u => !u.2.2.inReserve) then m
  else
    let m := m.modCore core (fun c => { c with ops := c.ops.erase o })
    let m := m.returnPages cl o.pages (if o.op = opFree then .free else .alloc)
    if o.op = opReclaim then m.opStatus core o .ok else m

theorem Mach.servePages_eq (m : Mach) (cl : Nat) : m.servePages cl = (List.range 8).foldl (fun m i =>
    ((m.core (8 * cl + i)).ops.filter (fun o => o.op ≤ opFree)).foldl (Mach.serveReturn cl (8 * cl + i)) m) m := rfl

/-- The users of pages are harvest groups that are there, in blocks that are there. -/
theorem Mach.pageUsers_eq_nil_of {m m' : Mach} {cl : Nat} {ps : List Nat} (h : m.pageUsers cl ps = [])
    (hblocks : (m'.cluster cl).blocks = (m.cluster cl).blocks)
    (hgroups : ∀ i < 8, ∀ e ∈ (m'.core (8 * cl + i)).groups, e.2.id.harvest = true → e ∈ (m.core (8 * cl + i)).groups) :
    m'.pageUsers cl ps = [] := by
  simp only [Mach.pageUsers, List.flatMap_eq_nil_iff, List.map_eq_nil_iff, List.filter_eq_nil_iff, List.mem_range] at h ⊢
  intro i hi e he hu
  rw [hblocks] at hu
  have hh : e.2.id.harvest = true := by
    simp only [Bool.and_eq_true] at hu
    exact hu.1.1
  exact h i hi e (hgroups i hi e he hh) hu

theorem Mach.group?_modCore {m : Mach} {c k : Nat} {f : Core → Core} (hf : (f (m.core c)).groups = (m.core c).groups) :
    (m.modCore c f).group? c k = m.group? c k := by
  rw [Mach.group?, Mach.core_modCore_self, hf, Mach.group?]

/-- An operation of a core begins, and ends. -/
def Core.beginOp (c : Core) (o : CoreOp) : Core := { c with ops := c.ops ++ [o] }
def Core.endOp (c : Core) (o : CoreOp) : Core := { c with ops := c.ops.erase o }

theorem Mach.pageUsers_beginOp {m : Mach} {cl core : Nat} {ps : List Nat} (o : CoreOp) (h : m.pageUsers cl ps = []) :
    (m.modCore core (·.beginOp o)).pageUsers cl ps = [] := by
  refine Mach.pageUsers_eq_nil_of h rfl fun i _ e he _ => ?_
  by_cases hc : 8 * cl + i = core
  · rw [hc, Mach.core_modCore_self] at he
    rw [hc]
    exact he
  · rwa [Mach.core_modCore_ne _ _ hc] at he

theorem Mach.serveReturn_unused {m : Mach} {cl core : Nat} {o : CoreOp} (hu : m.pageUsers cl o.pages = [])
    (ho : o.op = opReclaim) : Mach.serveReturn cl core m o =
      ((m.modCore core (·.endOp o)).returnPages cl o.pages .alloc).opStatus core o .ok := by
  rw [Mach.serveReturn, hu, ho]
  rfl

/-- Where one core of the cluster has one operation that returns pages, and no other has any after it, that operation alone is served. -/
theorem Mach.servePages_single {m : Mach} {cl j : Nat} {o : CoreOp} (hj : j < 8) (hown : (m.core (8 * cl + j)).ops = [o])
    (ho : o.op ≤ opFree) (hbefore : ∀ i < 8, i ≠ j → (m.core (8 * cl + i)).ops = [])
    (hafter : ∀ i < 8, i ≠ j → ((Mach.serveReturn cl (8 * cl + j) m o).core (8 * cl + i)).ops = []) :
    m.servePages cl = Mach.serveReturn cl (8 * cl + j) m o := by
  have hstep : ((m.core (8 * cl + j)).ops.filter (fun o => o.op ≤ opFree)).foldl (Mach.serveReturn cl (8 * cl + j)) m =
      Mach.serveReturn cl (8 * cl + j) m o := by
    rw [hown, List.filter_cons_of_pos (by simpa using ho)]
    rfl
  rw [← hstep, Mach.servePages_eq]
  refine foldl_eq_step (List.mem_range.2 hj) List.nodup_range (fun i hi hne => ?_) (fun i hi hne => ?_)
  · rw [hbefore i (List.mem_range.1 hi) hne]
    rfl
  · rw [hstep, hafter i (List.mem_range.1 hi) hne]
    rfl

/-- RECLAIM of pages that nothing uses, while no other operation of the cluster is under way, is carried out at once. -/
theorem Mach.reclaimPages_unused {m : Mach} {core : Nat} {o : CoreOp} (hu : m.pageUsers (clusterOf core) o.pages = [])
    (ho : o.op = opReclaim) (hops : ∀ i < 8, (m.core (8 * clusterOf core + i)).ops = []) :
    m.reclaimPages core o = (((m.modCore core (·.beginOp o)).modCore core (·.endOp o)).returnPages (clusterOf core) o.pages
      .alloc).opStatus core o .ok := by
  set cl := clusterOf core with hcl
  set m1 := m.modCore core (·.beginOp o) with hm1
  have hj : core % 8 < 8 := Nat.mod_lt _ (by decide)
  have hcore : 8 * cl + core % 8 = core := by rw [hcl, clusterOf]; omega
  have hserve : Mach.serveReturn cl core m1 o = ((m1.modCore core (·.endOp o)).returnPages cl o.pages .alloc).opStatus core o .ok :=
    Mach.serveReturn_unused (Mach.pageUsers_beginOp o hu) ho
  have hown : (m1.core core).ops = [o] := by
    rw [hm1, Mach.core_modCore_self, Core.beginOp, ← hcore, hops _ hj]
    rfl
  have hbefore : ∀ i < 8, i ≠ core % 8 → (m1.core (8 * cl + i)).ops = [] := by
    intro i hi hne
    rw [hm1, Mach.core_modCore_ne _ _ (by omega), hops i hi]
  have hafter : ∀ i < 8, i ≠ core % 8 → ((Mach.serveReturn cl core m1 o).core (8 * cl + i)).ops = [] := by
    intro i hi hne
    obtain ⟨hkeep, -⟩ := Mach.returnPages_spec (m := m1.modCore core (·.endOp o)) cl o.pages (st := .alloc) (by decide)
    rw [hserve]
    exact (hkeep _).trans (by rw [Mach.core_modCore_ne _ _ (by omega), hbefore i hi hne])
  calc m.reclaimPages core o
    _ = m1.servePages cl := by rw [Mach.reclaimPages, hu]; rfl
    _ = Mach.serveReturn cl (8 * cl + core % 8) m1 o :=
      Mach.servePages_single hj (by rwa [hcore]) (by rw [ho]; decide) hbefore (by rwa [hcore])
    _ = _ := by rw [hcore, hserve]

/-! ### RECLAIM -/

theorem Mach.opStatus_sends (m : Mach) (core : Nat) (o : CoreOp) (st : Status) :
    ∃ x ∈ (m.opStatus core o st).msgs, x.uid = o.uid ∧ x.body = .result (statusWrites o.kd st) (regItems o.kd 1) false :=
  ⟨_, List.mem_append_right m.msgs (List.mem_singleton_self _), rfl, rfl⟩

theorem Mach.modUid_resident {m : Mach} {core slot : Nat} {g : Group} (hg : m.group? core slot = some g) (F : Group → Group) :
    m.modUid core slot g.uid F = m.setGroup core slot (F g) := by
  have hs : m.seat core slot g.uid = some slot := by simp [Mach.seat, hg]
  simp only [Mach.modUid, hs]
  exact Mach.modGroup_some F hg

theorem runBody_reclaim_mismatch {d : Device} {w : Who} {g : Group} {m : Mach} (hp : g.participants w.f.g ≠ [])
    (h : lendPages m w g = none) : runBody bodyReclaim d w g m = answerD w (m.retire w g) (g.retired w) .mismatch := by
  rw [bodyReclaim, runBody_groupWide hp]
  simp only [lendPages_retire, h]

/-- The operation that a RECLAIM asks of its core (R250). -/
def reclaimOp (w : Who) (g : Group) (ps : List Nat) : CoreOp :=
  { op := opReclaim, ctx := g.id.ctx, slot := w.slot, uid := g.uid, kd := w.f.fd, pages := ps, due := 0 }

/-- A group that waits for n registers from field d (R26). -/
def Group.pending (g : Group) (d : RegField) (n : Nat) : Group := { g with sb := g.sb ||| regItems d n }

theorem runBody_reclaim_ok {d : Device} {w : Who} {g : Group} {m : Mach} {bid : Nat} {b : Block} {ps : List Nat}
    (hp : g.participants w.f.g ≠ []) (h : lendPages m w g = some (bid, b, ps))
    (hlent : ∀ p ∈ ps, ((m.cluster (clusterOf w.core)).pages.getD p {}).state = .lent ∧
      ((m.cluster (clusterOf w.core)).pages.getD p {}).block = bid) :
    runBody bodyReclaim d w g m = .ok (((m.retire w g).setGroup w.core w.slot ((g.retired w).pending w.f.fd 1)).reclaimPages w.core
      (reclaimOp w g ps)) := by
  rw [bodyReclaim, runBody_groupWide hp]
  simp only [lendPages_retire, h]
  rw [if_neg, Mach.modUid_resident (Mach.group?_retire m w g)]
  · rfl
  · rw [List.any_eq_true]
    rintro ⟨p, hm, hs⟩
    have hne : (((m.retire w g).cluster (clusterOf w.core)).pages.getD p {}).state ≠ .lent ∨
        (((m.retire w g).cluster (clusterOf w.core)).pages.getD p {}).block ≠ bid := by simpa using hs
    exact hne.elim (· (hlent p hm).1) (· (hlent p hm).2)

/-- The bit that RECLAIM sets in its own group, which is no harvest group, makes no user of a page. -/
theorem pageUsers_pending {m : Mach} {w : Who} {g : Group} {cl : Nat} {ps : List Nat} (hh : g.id.harvest = false)
    (hu : (m.retire w g).pageUsers cl ps = []) :
    ((m.retire w g).setGroup w.core w.slot ((g.retired w).pending w.f.fd 1)).pageUsers cl ps = [] := by
  refine Mach.pageUsers_eq_nil_of hu rfl fun i _ e he heh => ?_
  by_cases hc : 8 * cl + i = w.core
  · rw [hc, Mach.core_setGroup_self] at he
    rw [hc]
    refine (SMap.key_mem_set _ _ _ he).resolve_left ?_
    rintro rfl
    exact absurd (hh.symm.trans heh) (by decide)
  · rwa [Mach.core_setGroup_ne _ _ _ hc] at he

theorem ops_pending (m : Mach) (w : Who) (g g' : Group) (c : Nat) :
    (((m.retire w g).setGroup w.core w.slot g').core c).ops = (m.core c).ops := by
  by_cases hc : c = w.core
  · rw [hc, ((OneGroup.retire m w g).trans (OneGroup.setGroup _ _ _ g')).core]
  · rw [Mach.core_setGroup_ne _ _ _ hc, (OneCore.retire m w g).cores c hc]

/-- The effect of a RECLAIM whose pages nothing uses: their return and its status, in a machine where D's bit is pending and whose
clusters are those of before. -/
theorem runBody_reclaim_unused {d : Device} {w : Who} {g : Group} {m : Mach} {bid : Nat} {b : Block} {ps : List Nat}
    (hp : g.participants w.f.g ≠ []) (hh : g.id.harvest = false) (hl : lendPages m w g = some (bid, b, ps))
    (hlent : ∀ p ∈ ps, ((m.cluster (clusterOf w.core)).pages.getD p {}).state = .lent ∧
      ((m.cluster (clusterOf w.core)).pages.getD p {}).block = bid)
    (hu : (m.retire w g).pageUsers (clusterOf w.core) ps = [])
    (hops : ∀ i < 8, (m.core (8 * clusterOf w.core + i)).ops = []) :
    ∃ m1 : Mach, m1.group? w.core w.slot = some ((g.retired w).pending w.f.fd 1) ∧ m1.clusters = m.clusters ∧
      runBody bodyReclaim d w g m =
        .ok ((m1.returnPages (clusterOf w.core) ps .alloc).opStatus w.core (reclaimOp w g ps) .ok) := by
  refine ⟨_, ?_, ?_, (runBody_reclaim_ok hp hl hlent).trans (congrArg Except.ok (Mach.reclaimPages_unused
    (pageUsers_pending hh hu) rfl fun i hi => (ops_pending m w g _ _).trans (hops i hi)))⟩
  · rw [Mach.group?_modCore rfl, Mach.group?_modCore rfl, Mach.group?_setGroup_self]
  · rfl

/-- A RECLAIM whose pages nothing uses answers OK, and its pages are ALLOC again (R250). -/
theorem reclaim_returns {s : State} {slot : Nat} {g : Group} {f : Fields} {bid : Nat} {b : Block} {ps : List Nat}
    (h : Issues s slot g f) (hp : g.participants f.g ≠ []) (hh : g.id.harvest = false)
    (hl : lendPages s.mach (s.who slot g f) g = some (bid, b, ps))
    (hlent : ∀ p ∈ ps, ((s.mach.cluster (clusterOf s.curCore)).pages.getD p {}).state = .lent ∧
      ((s.mach.cluster (clusterOf s.curCore)).pages.getD p {}).block = bid)
    (hu : (s.issued slot g f 4).pageUsers (clusterOf s.curCore) ps = [])
    (hops : ∀ i < 8, (s.mach.core (8 * clusterOf s.curCore + i)).ops = []) :
    ∃ t g', issue 4 f bodyReclaim s = .next t ∧ t.mach.group? s.curCore slot = some g' ∧ g'.sb = g.sb ||| regItems f.fd 1 ∧
      (∀ p ∈ ps, ((t.mach.cluster (clusterOf s.curCore)).pages.getD p {}).state = .alloc ∧
        ((t.mach.cluster (clusterOf s.curCore)).pages.getD p {}).lentTo = none) ∧
      (∀ p, p ∉ ps → (t.mach.cluster (clusterOf s.curCore)).pages.getD p {} =
        (s.mach.cluster (clusterOf s.curCore)).pages.getD p {}) ∧
      ∃ x ∈ t.mach.msgs, x.uid = g.uid ∧ x.body = .result (statusWrites f.fd .ok) (regItems f.fd 1) false := by
  obtain ⟨m1, hg1, hclusters, hb⟩ := runBody_reclaim_unused (d := s.dev) (w := s.who slot g f) hp hh hl hlent hu hops
  obtain ⟨-, hgroup, hin, hout⟩ := Mach.returnPages_spec (m := m1) (clusterOf s.curCore) ps (st := .alloc) (by decide)
  obtain ⟨t, g', hnext, -, hone, -, hg', hrest⟩ := issue_completed (len := 4) h hb (hgroup s.curCore slot _ hg1 hh) rfl
  have hcluster : t.mach.cluster (clusterOf s.curCore) =
      (m1.returnPages (clusterOf s.curCore) ps .alloc).cluster (clusterOf s.curCore) := by
    unfold Mach.cluster
    rw [hone.clusters]
    rfl
  have hbefore : m1.cluster (clusterOf s.curCore) = s.mach.cluster (clusterOf s.curCore) := by
    unfold Mach.cluster
    rw [hclusters]
  refine ⟨t, g', hnext, hg', congrArg Group.sb hrest, ?_⟩
  rw [hcluster, ← hbefore, hone.msgs]
  exact ⟨hin, hout, Mach.opStatus_sends ..⟩

/-! ### O35 -/

/-- The block of LEND and RECLAIM is the pair of k registers that A names. -/
theorem lendBlock_eq {g : Group} {w : WordA} {op : Nat} (h : wordFault g (fieldsA op w) = none) (hop : .blk 2 ∈ usesOf op) :
    blockWord g (fieldsA op w) 0 = g.readK (w.a.toNat - 48) ∧ blockWord g (fieldsA op w) 1 = g.readK (w.a.toNat - 47) := by
  have hblk : blockOk 2 (fieldsA op w).fa = true := blockOk_of_wordFault h hop
  have hk : 48 ≤ w.a.toNat := by
    simp only [blockOk, Bool.and_eq_true] at hblk
    exact (isK_iff _).1 hblk.1.1
  refine ⟨blockWord_eq_readK hblk (by decide), (blockWord_eq_readK hblk (by decide)).trans (congrArg _ ?_)⟩
  show w.a.toNat - 48 + 1 = w.a.toNat - 47
  omega

/-- Settles O35: the pages that the block names decide between MISMATCH and the change of their states. -/
theorem lentPages : Obligations.LentPages := by
  unfold Obligations.LentPages
  intro w s slot g i f hif h hp
  simp only [List.mem_cons, Prod.mk.injEq, List.not_mem_nil, or_false] at hif
  have ⟨_, hword, _⟩ := h
  have ⟨hoff, hcount⟩ : blockWord g f 0 = g.readK (w.a.toNat - 48) ∧ blockWord g f 1 = g.readK (w.a.toNat - 47) := by
    obtain ⟨-, rfl⟩ | ⟨-, rfl⟩ := hif <;> exact lendBlock_eq hword (by decide)
  dsimp only
  rw [← hoff, ← hcount]
  refine ⟨fun hbad => ?_, fun b hb hh hn ho hlen => ?_⟩
  · have hnone : lendPages s.mach (s.who slot g f) g = none := lendPages_eq_none_iff.2 hbad
    obtain ⟨rfl, rfl⟩ | ⟨rfl, rfl⟩ := hif
    · exact answersLater_of_answerD (m1 := s.issued slot g _ 4) h (runBody_lend_mismatch hp hnone) rfl rfl (.refl _)
    · exact answersLater_of_answerD (m1 := s.issued slot g _ 4) h (runBody_reclaim_mismatch hp hnone) rfl rfl (.refl _)
  · have hsome := lendPages_eq_some (w := s.who slot g f) hb hh hn ho hlen
    refine ⟨fun hi halloc hbind => ?_, fun hi hlent hu hops => ?_⟩
    · obtain ⟨rfl, rfl⟩ | ⟨rfl, -⟩ := hif
      · exact lend_lends h hp hsome halloc hbind
      · cases hi
    · obtain ⟨rfl, -⟩ | ⟨rfl, rfl⟩ := hif
      · cases hi
      · exact reclaim_returns h hp hh hsome hlent hu hops

end Sys2Proof.Machine
end

section
/-! PROOF. O51 fails: the tag of a line is looked up byte by byte (R82, R101), and nothing in the statement keeps the save area of a
context from beginning inside the word of an atomic. The statement fixes the tag of the word's sector and of its first byte; where the
save area begins at the second, the home finds a mismatch there and refuses the atomic (R253). -/

namespace Sys2Proof.Machine

/-- Thread 31 exchanges the word at 128 for 1, under tag 0, and takes the old word in v45. -/
def exchange : MsgBody := .atomic .xchg (.dram 128) 128 4 1 0 0 45 31

/-- The group that has sent it, resident in slot 0 of core 0. -/
def exchanger : Group := { uid := 1, id := { ctx := 0 }, valloc := 47, pc := 0x1000 }

/-- The exchange at the home slice of its word. -/
def exchangeMsg : Msg := { id := 1, core := 0, slot := 0, uid := 1, place := sliceOf 128, due := 0, held := false, body := exchange }

/-- The one message in flight is the exchange, and the save area of its LIVE context begins at 129: CREATE refuses such a base (R389),
but the state has room for it. -/
def splitWordState : State :=
  { turns := [], curCore := 0, curLane := 0, dev := {}
    mach := { cores := [(0, { groups := [(0, exchanger)], lanes := [] })], msgs := [exchangeMsg]
              ctxs := [(0, { state := .live, sabase := 129, sasize := 68 })] } }

theorem splitWordState_arrives : Arrives splitWordState 0 exchangeMsg where
  there := rfl
  ready := by decide +kernel
  reached := by decide +kernel
  stays := rfl

theorem splitWordState_seats : Seats splitWordState exchangeMsg exchanger := ⟨rfl, rfl⟩

/-- The byte of device memory at a in the state that a step answers. -/
def byteAfter (a : Nat) : Host.Outcome State Fault Refusal → Byte
  | .next t => t.mach.dram.read a
  | _ => 0

/-- The home refuses the exchange: the word keeps its first byte. -/
theorem byteAfter_exchange : byteAfter 128 (exec (.atomicRequest 0) splitWordState) = 0 := by decide +kernel

/-- Refutes O51: in `splitWordState` every premise of the atomic's clause holds, and the word at 128 stays 0 where the statement has the
exchange store 1. -/
theorem not_writesArrive : ¬ Obligations.WritesArrive := by
  unfold Obligations.WritesArrive
  intro h
  obtain ⟨-, -, -, -, hatomic⟩ := h splitWordState 0 exchangeMsg splitWordState_arrives
  have htag : splitWordState.mach.lineTag (128 / 32 * 32) = 0 := by decide
  have hclean : splitWordState.mach.classAt (.dram 128) (some 0) = .clean := by decide
  obtain ⟨t, -, hstep, -, hstored, -⟩ := hatomic exchanger .xchg 128 128 4 1 0 0 45 31 splitWordState_seats rfl rfl rfl
    (.inl rfl) (by decide) (by decide) htag hclean (by decide) (by decide)
  have hnew : t.mach.dram.read 128 = 1 := by simpa using hstored 128
  have hold : t.mach.dram.read 128 = 0 := by simpa [hstep, byteAfter] using byteAfter_exchange
  exact absurd (hold.symm.trans hnew) (by decide)

end Sys2Proof.Machine
end

section
/-! PROOF. Results that arrive later (R26): what the step of a word leaves whose body ends in `defer`, and what the writes of such a result
put into the registers that a field names (R53, R54). -/

namespace Sys2Proof.Machine

/-! ### The group that issues, and what stands beside it -/

theorem State.issuer_group {s : State} {slot : Nat} {g : Group} (h : s.issuer = some (slot, g)) :
    s.mach.group? s.curCore slot = some g := by
  unfold State.issuer at h
  split at h
  · cases h
  · split at h
    · next hg =>
      split at h
      · cases h
      · cases h
        exact hg
    · cases h

theorem sup_of_issues {s : State} {slot : Nat} {g : Group} {f : Fields} (h : Issues s slot g f) (hop : supOnly f.op = true)
    (hp : g.participants f.g ≠ []) : g.id.sup = true := by
  obtain ⟨-, hword, -⟩ := h
  have hact : g.amask ≠ 0 := fun h0 => hp (by simp [Group.participants, Group.active, threadsOf, h0])
  unfold wordFault at hword
  simp only [ite_eq_iff, reduceCtorEq, and_false, false_or, hop] at hword
  obtain ⟨-, -, hpriv, -⟩ := hword
  exact by_contra fun hs => hpriv (by simpa using ⟨.inr hact, by simpa using hs⟩)

theorem Mach.group?_retire_ne {m : Mach} {w : Who} {g : Group} {o k : Nat} (h : ¬(o = w.core ∧ k = w.slot)) :
    (m.retire w g).group? o k = m.group? o k := by
  by_cases ho : o = w.core
  · subst ho
    exact (OneGroup.retire m w g).groups k fun hk => h ⟨rfl, hk⟩
  · exact congrArg (fun c : Core => c.groups.get? k) ((OneCore.retire m w g).cores o ho)

@[simp] theorem Core.advance_stopList (c : Core) (t : Nat) : (c.advance t).stopList = c.stopList := by rw [Core.advance_eq]

@[simp] theorem Core.count_stopList (c : Core) (code n : Nat) (id : Ident) : (c.count code n id).stopList = c.stopList := by
  rw [Core.count_eq]

@[simp] theorem Mach.retire_stopList (m : Mach) (w : Who) (g : Group) :
    ((m.retire w g).core w.core).stopList = (m.core w.core).stopList := by
  simp only [Mach.retire, Mach.core_setGroup_self, Mach.core_setCore_self]
  split <;> simp [Core.setLane]

/-- Fields of the machine that no byte is read from. -/
theorem SameMemory.of_fields {m m1 : Mach} (hdram : m1.dram = m.dram) (hhost : m1.hostMem = m.hostMem) (hfabric : m1.fabric = m.fabric)
    (hpeers : m1.peers = m.peers) (htags : m1.tags = m.tags) (hecc : m1.ecc = m.ecc) (hclusters : m1.clusters = m.clusters)
    (hcores : m1.cores = m.cores) : SameMemory m m1 where
  dram _ := by rw [hdram]
  host _ := by rw [hhost]
  fabric _ := by rw [hfabric]
  peers _ _ := by rw [hpeers]
  tags := htags
  ecc := hecc
  spad _ _ := by unfold Mach.cluster; rw [hclusters]
  frames _ _ := by unfold Mach.core; rw [hcores]

/-- A machine in which no message is new, every byte is as before, and of the cores one alone has changed, no further than `OneGroup`
says. -/
structure Within (m m1 : Mach) (core slot : Nat) : Prop where
  msgs : m1.msgs = m.msgs
  memory : SameMemory m m1
  cores : ∀ c, c ≠ core → m1.core c = m.core c
  inside : OneGroup (m.core core) (m1.core core) slot

theorem Within.refl (m : Mach) (core slot : Nat) : Within m m core slot := ⟨rfl, .refl m, fun _ _ => rfl, .refl _ _⟩

theorem Within.trans {a b c : Mach} {core slot : Nat} (h : Within a b core slot) (h' : Within b c core slot) : Within a c core slot :=
  ⟨h'.msgs.trans h.msgs, h.memory.trans h'.memory, fun k hk => (h'.cores k hk).trans (h.cores k hk), h.inside.trans h'.inside⟩

theorem Within.of_oneCore {m m1 : Mach} {core slot : Nat} (h : OneCore m m1 core) (h' : OneGroup (m.core core) (m1.core core) slot) :
    Within m m1 core slot := ⟨h.msgs, h.sameMemory h', h.cores, h'⟩

theorem Within.of_cores {m m1 : Mach} (core slot : Nat) (hc : m1.cores = m.cores) (hmsgs : m1.msgs = m.msgs) (hmem : SameMemory m m1) :
    Within m m1 core slot := by
  have hcore : ∀ c, m1.core c = m.core c := fun c => by unfold Mach.core; rw [hc]
  exact ⟨hmsgs, hmem, fun c _ => hcore c, by rw [hcore]; exact .refl _ _⟩

theorem Within.draws (m : Mach) (core slot n : Nat) : Within m { m with draws := n } core slot :=
  .of_cores core slot rfl rfl (.of_fields rfl rfl rfl rfl rfl rfl rfl rfl)

theorem Within.modCore {m : Mach} {core slot : Nat} {F : Core → Core} (h : OneGroup (m.core core) (F (m.core core)) slot) :
    Within m (m.modCore core F) core slot :=
  .of_oneCore (.modCore ..) (by rwa [Mach.core_modCore_self])

theorem Within.setGroup (m : Mach) (core slot : Nat) (g : Group) : Within m (m.setGroup core slot g) core slot :=
  .of_oneCore (.setGroup ..) (.setGroup ..)

theorem Within.retire (m : Mach) (w : Who) (g : Group) : Within m (m.retire w g) w.core w.slot :=
  .of_oneCore (.retire ..) (.retire ..)

/-! ### A body that ends in a result that arrives later -/

/-- With no stop asked for, a run boundary adds nothing to a completed body. -/
theorem issue_quiet {s : State} {slot : Nat} {g g1 : Group} {f : Fields} {len : Nat} {b : Body} {m1 : Mach}
    (h : Issues s slot g f) (hb : runBody b s.dev ⟨s.curCore, slot, f, g.pc, len⟩ g s.mach = .ok m1)
    (hg : m1.group? s.curCore slot = some g1) (hw : g1.wait = none) (hf : g1.freeze = none) (hs : g1.stopMark = false) :
    issue len f b s = .next { s with mach := m1 } := by
  obtain ⟨-, -, -, hq⟩ := Mach.atBoundary_spec hg hw
  rw [issue_eq h, hb]
  dsimp only
  rw [hq ⟨hf, hs⟩, ite_self]

/-- A word has issued whose body ends in `defer` on machine m1: the step leaves m1, with the pending bits of its own group, the
message that carries the result, and what a run boundary does to the group. -/
structure Defers (s t : State) (slot : Nat) (g g' : Group) (m1 : Mach) (ws : List RegWrite) (items : BitVec 96) : Prop where
  host : SameHost s t
  mach : t.mach = { m1 with cores := t.mach.cores, log := t.mach.log, msgs := t.mach.msgs, nextUid := t.mach.nextUid }
  memory : SameMemory m1 t.mach
  cores : ∀ c, c ≠ s.curCore → t.mach.core c = m1.core c
  inside : OneGroup (m1.core s.curCore) (t.mach.core s.curCore) slot
  group : t.mach.group? s.curCore slot = some g'
  rest : g'.rest = ({ g with pc := g.pc + 4, sb := g.sb ||| items } : Group).rest
  msgs : ∃ x : Msg, t.mach.msgs = m1.msgs ++ [x] ∧ x.body = .result ws items false ∧ x.core = s.curCore ∧ x.slot = slot ∧ x.uid = g.uid
  mbox : g.freeze = none → g.stopMark = false → (t.mach.core s.curCore).mbox = (m1.core s.curCore).mbox

theorem issue_defers {s : State} {slot : Nat} {g : Group} {f : Fields} {b : Body} {m1 : Mach} {ws : List RegWrite} {items : BitVec 96}
    (h : Issues s slot g f)
    (hb : runBody b s.dev (s.who slot g f) g s.mach =
      .ok (defer (s.who slot g f) m1 (g.retired (s.who slot g f)) 0 ws items))
    (hg : m1.group? s.curCore slot = some (g.retired (s.who slot g f))) :
    ∃ t g', issue 4 f b s = .next t ∧ Defers s t slot g g' m1 ws items := by
  set g1 := g.retired (s.who slot g f)
  set g2 : Group := { g1 with sb := g1.sb ||| items }
  set m2 := (m1.setGroup s.curCore slot g2).sendResult s.curCore slot g.uid 0 ws items false
  have hb2 : runBody b s.dev (s.who slot g f) g s.mach = .ok m2 := by
    rw [hb, defer, Mach.modGroup_some _ hg]
    rfl
  have hg2 : m2.group? s.curCore slot = some g2 := Mach.group?_setGroup_self ..
  obtain ⟨t, g', hnext, hhost, hone, hgroup, hg', hrest⟩ := issue_completed h hb2 hg2 rfl
  refine ⟨t, g', hnext, hhost, ?_, ?_, fun c hc => ?_, (OneGroup.setGroup m1 s.curCore slot g2).trans hgroup, hg', hrest, ?_, fun hf hs => ?_⟩
  · rw [hone.mach]
    rfl
  · exact (SameMemory.setGroup ..).trans <| (SameMemory.send ..).trans <| hone.sameMemory hgroup
  · exact (hone.cores c hc).trans (Mach.core_setGroup_ne _ _ _ hc)
  · exact ⟨_, hone.msgs, rfl, rfl, rfl, rfl⟩
  · have hquiet := issue_quiet h hb2 hg2 rfl hf hs
    have ht : t = { s with mach := m2 } := Host.Outcome.next.inj (hnext.symm.trans hquiet)
    rw [ht]
    show ((m1.setGroup s.curCore slot g2).core s.curCore).mbox = _
    rw [Mach.core_setGroup_self]

section
variable {s t : State} {slot : Nat} {g g' : Group} {f : Fields} {m1 : Mach} {ws : List RegWrite} {items : BitVec 96}

theorem Defers.sends (h : Defers s t slot g g' m1 ws items) (hw : Within (s.issued slot g f 4) m1 s.curCore slot) :
    Sends s t slot g g' [.result ws items false] := by
  have hin : Within s.mach m1 s.curCore slot := (Within.retire s.mach (s.who slot g f) g).trans hw
  obtain ⟨x, hmsgs, hbody, hx⟩ := h.msgs
  refine ⟨h.host, hin.memory.trans h.memory, fun c hc => (h.cores c hc).trans (hin.cores c hc), hin.inside.trans h.inside, h.group,
    [x], hmsgs.trans (congrArg (· ++ _) hin.msgs), by rw [List.map_singleton, hbody], fun y hy => ?_⟩
  rw [List.mem_singleton.1 hy]
  exact hx

theorem Defers.bodies (h : Defers s t slot g g' m1 ws items) :
    t.mach.msgs.map (·.body) = m1.msgs.map (·.body) ++ [.result ws items false] := by
  obtain ⟨x, hmsgs, hbody, -⟩ := h.msgs
  rw [hmsgs, List.map_append, List.map_singleton, hbody]

theorem Defers.group?_ne (h : Defers s t slot g g' m1 ws items) {o k : Nat} (hk : ¬(o = s.curCore ∧ k = slot)) :
    t.mach.group? o k = m1.group? o k := by
  by_cases ho : o = s.curCore
  · subst ho
    exact h.inside.groups k fun he => hk ⟨rfl, he⟩
  · exact congrArg (fun c : Core => c.groups.get? k) (h.cores o ho)

theorem Defers.ctx (h : Defers s t slot g g' m1 ws items) (n : Nat) : t.mach.ctx n = m1.ctx n := by
  unfold Mach.ctx
  rw [h.mach]

end

theorem issue_sends {s : State} {slot : Nat} {g : Group} {f : Fields} {b : Body} {m1 : Mach} {ws : List RegWrite} {items : BitVec 96}
    (h : Issues s slot g f)
    (hb : runBody b s.dev (s.who slot g f) g s.mach =
      .ok (defer (s.who slot g f) m1 (g.retired (s.who slot g f)) 0 ws items))
    (hw : Within (s.issued slot g f 4) m1 s.curCore slot) (hg : m1.group? s.curCore slot = some (g.retired (s.who slot g f))) :
    ∃ t g', issue 4 f b s = .next t ∧ Sends s t slot g g' [.result ws items false] := by
  obtain ⟨t, g', hnext, hd⟩ := issue_defers h hb hg
  exact ⟨t, g', hnext, hd.sends hw⟩

/-- A machine that has the cores of the one in which the word has issued. -/
theorem group?_of_cores {s : State} {slot : Nat} {g : Group} {f : Fields} {m1 : Mach} (h : m1.cores = (s.issued slot g f 4).cores) :
    m1.group? s.curCore slot = some (g.retired (s.who slot g f)) := by
  unfold Mach.group? Mach.core
  rw [h]
  exact Mach.group?_retire s.mach (s.who slot g f) g

/-! ### Values written into the registers of a field (R53, R54) -/

theorem isZ_eq_false {d : RegField} (h : d.toNat ≠ 47) : isZ d = false := by rwa [Bool.eq_false_iff, ne_eq, isZ_iff]
theorem isV_eq_false {d : RegField} (h : 47 ≤ d.toNat) : isV d = false := by rw [Bool.eq_false_iff, ne_eq, isV_iff]; omega
theorem isK_eq_false {d : RegField} (h : d.toNat < 48) : isK d = false := by rw [Bool.eq_false_iff, ne_eq, isK_iff]; omega

/-- The n registers from field d are registers of one kind: a field of z names none (R53, R55). -/
def Fits (d : RegField) (n : Nat) : Prop := d.toNat = 47 ∨ d.toNat + n ≤ 47 ∨ 48 ≤ d.toNat ∧ d.toNat + n ≤ 64

theorem fits_one (d : RegField) : Fits d 1 := by
  have := d.isLt
  unfold Fits
  omega

theorem fits_of_wideOk {d : RegField} {n : Nat} (hn : 64 % n = 0) (h : wideOk n d = true) : Fits d n := by
  simp only [wideOk, Bool.or_eq_true, beq_iff_eq, isZ_iff, Bool.and_eq_true, isK_iff, decide_eq_true_eq] at h
  obtain (rfl | hz) | ⟨hmod, hk⟩ := h
  · exact fits_one d
  · exact .inl hz
  · refine .inr (hk.elim (fun hk => .inr ⟨hk, ?_⟩) .inl)
    obtain ⟨a, ha⟩ := Nat.dvd_of_mod_eq_zero hmod
    obtain ⟨b, hb⟩ := Nat.dvd_of_mod_eq_zero hn
    have hlt : n * a < n * b := by rw [← ha, ← hb]; exact d.isLt
    have hab : a + 1 ≤ b := Nat.lt_of_mul_lt_mul_left hlt
    calc d.toNat + n = n * (a + 1) := by rw [ha, Nat.mul_succ]
      _ ≤ n * b := Nat.mul_le_mul_left n hab
      _ = 64 := hb.symm

/-- After: the n registers from field d hold the words of val in the listed threads, and nothing else of the group has changed. -/
structure RegsHold (g g' : Group) (d : RegField) (n : Nat) (ts : List Nat) (val : Nat → Nat → Word) : Prop where
  v : ∀ r t, t < 32 → g'.readV r t = if isV d ∧ d.toNat ≤ r ∧ r < d.toNat + n ∧ t ∈ ts then val (r - d.toNat) t else g.readV r t
  k : ∀ j, g'.readK j = if isK d ∧ d.toNat ≤ j + 48 ∧ j + 48 < d.toNat + n then
    (match ts.getLast? with | some t => val (j + 48 - d.toNat) t | none => g.readK j) else g.readK j
  only : g' = { g with v := g'.v, k := g'.k }

theorem RegsHold.of_isZ {d : RegField} (h : d.toNat = 47) (g : Group) (n : Nat) (ts : List Nat) (val : Nat → Nat → Word) :
    RegsHold g g d n ts val :=
  ⟨by simp [isV_eq_false (d := d) (by omega)], by simp [isK_eq_false (d := d) (by omega)], rfl⟩

theorem RegsHold.nil (g : Group) (d : RegField) (n : Nat) (val : Nat → Nat → Word) : RegsHold g g d n [] val :=
  ⟨by simp, by simp, rfl⟩

theorem RegsHold.tagV {g g' : Group} {d : RegField} {n : Nat} {ts : List Nat} {val : Nat → Nat → Word}
    (h : RegsHold g g' d n ts val) (r : Nat) : g'.tagV r = g.tagV r := by rw [h.only]; rfl

theorem RegsHold.preds {g g' : Group} {d : RegField} {n : Nat} {ts : List Nat} {val : Nat → Nat → Word}
    (h : RegsHold g g' d n ts val) : g'.preds = g.preds := by rw [h.only]

/-- A further thread writes over what the threads before it have written. -/
theorem RegsHold.snoc {g g1 g2 : Group} {d : RegField} {n : Nat} {ts : List Nat} {t : Nat} {val : Nat → Nat → Word}
    (h : RegsHold g g1 d n ts val) (h' : RegsHold g1 g2 d n [t] val) : RegsHold g g2 d n (ts ++ [t]) val where
  v r u hu := by
    rw [h'.v r u hu, h.v r u hu]
    simp only [List.mem_append, List.mem_singleton]
    by_cases hut : u = t
    · simp only [hut, or_true, and_true]
      split_ifs <;> tauto
    · simp only [hut, and_false, or_false, if_false]
  k j := by
    rw [h'.k j, h.k j]
    simp only [List.getLast?_append, List.getLast?_singleton, Option.some_or]
    split_ifs <;> rfl
  only := by rw [h'.only, h.only]

theorem RegsHold.congr {g g' : Group} {d : RegField} {n : Nat} {ts : List Nat} {val val' : Nat → Nat → Word}
    (h : RegsHold g g' d n ts val) (he : ∀ i < n, ∀ t ∈ ts, val i t = val' i t) : RegsHold g g' d n ts val' where
  v r t ht := by
    rw [h.v r t ht]
    split_ifs with hc
    · exact he _ (by omega) t hc.2.2.2
    · rfl
  k j := by
    rw [h.k j]
    cases hl : ts.getLast? with
    | none => rfl
    | some t =>
      split_ifs with hc
      · exact he _ (by omega) t (List.mem_of_getLast? hl)
      · rfl
  only := h.only

/-- The write of one register field is the write of one register, or for z of none (R50, R55). -/
theorem applyWrites_writeField (g : Group) (d : RegField) (t : Nat) (x : Word) : applyWrites g (writeField d t x) =
    if d.toNat < 47 then g.setV d.toNat t x else if d.toNat = 47 then g else g.setK (d.toNat - 48) x := by
  unfold writeField
  simp only [isV_iff, isZ_iff]
  split_ifs <;> rfl

theorem writeWide_append (d : RegField) (t : Nat) (xs ys : List Word) (i : Nat) :
    writeWide d t i (xs ++ ys) = writeWide d t i xs ++ writeWide d t (i + xs.length) ys := by
  induction xs generalizing i with
  | nil => rfl
  | cons x xs ih => simp only [List.cons_append, writeWide, ih, List.length_cons, List.append_assoc, Nat.add_assoc, Nat.add_comm 1]

theorem writeWide_of_isZ {d : RegField} (h : d.toNat = 47) (t : Nat) (xs : List Word) (i : Nat) : writeWide d t i xs = [] := by
  induction xs generalizing i with
  | nil => rfl
  | cons x xs ih => simp [writeWide, (isZ_iff d).2 h, ih]

/-- The words that one thread writes to a wide operand. -/
theorem regsHold_writeWide (g : Group) {d : RegField} {t : Nat} (ht : t < 32) {xs : List Word} (hfit : Fits d xs.length) :
    RegsHold g (applyWrites g (writeWide d t 0 xs)) d xs.length [t] (fun i _ => xs.getD i 0) := by
  by_cases hz : d.toNat = 47
  · rw [writeWide_of_isZ hz]
    exact .of_isZ hz ..
  induction xs using List.reverseRecOn with
  | nil => exact ⟨fun r u _ => (if_neg (by simp only [List.length_nil]; omega)).symm,
    fun j => (if_neg (by simp only [List.length_nil]; omega)).symm, rfl⟩
  | append_singleton xs x ih =>
    unfold Fits at hfit ih
    rw [List.length_append, List.length_singleton] at hfit ⊢
    obtain ⟨hv, hk, honly⟩ := ih (by omega)
    set h := applyWrites g (writeWide d t 0 xs) with hh
    have hsum : (d + BitVec.ofNat 6 xs.length).toNat = d.toNat + xs.length := by
      rw [BitVec.toNat_add, BitVec.toNat_ofNat]
      omega
    have hlast : applyWrites g (writeWide d t 0 (xs ++ [x])) =
        if d.toNat < 47 then h.setV (d.toNat + xs.length) t x else h.setK (d.toNat + xs.length - 48) x := by
      rw [writeWide_append, applyWrites_append, ← hh, Nat.zero_add]
      simp only [writeWide, isZ_eq_false hz, Bool.false_eq_true, if_false, List.append_nil]
      rw [applyWrites_writeField, hsum]
      by_cases hv' : d.toNat < 47
      · rw [if_pos (by omega), if_pos hv']
      · rw [if_neg (by omega), if_neg (by omega), if_neg hv']
    rw [hlast]
    by_cases hv' : d.toNat < 47
    · rw [if_pos hv']
      refine ⟨fun r u hu => ?_, fun j => ?_, by rw [honly]; rfl⟩
      · rw [readV_setV _ _ _ _ ht _ _ hu, hv r u hu]
        simp only [(isV_iff d).2 hv', true_and, List.mem_singleton]
        by_cases hr : r = d.toNat + xs.length
        · subst hr
          simp
        · simp only [hr, false_and, if_false]
          refine (ite_congr rfl (fun hc => ?_) fun _ => rfl).trans (if_congr (by omega) rfl rfl)
          exact (List.getD_append _ _ _ _ (by omega)).symm
      · rw [readK_setV, hk j]
        simp [isK_eq_false (d := d) (by omega)]
    · rw [if_neg hv']
      refine ⟨fun r u hu => ?_, fun j => ?_, by rw [honly]; rfl⟩
      · rw [readV_setK, hv r u hu]
        simp [isV_eq_false (d := d) (by omega)]
      · rw [readK_setK, hk j]
        simp only [(isK_iff d).2 (by omega), true_and, List.getLast?_singleton]
        by_cases hj : j = d.toNat + xs.length - 48
        · have hlt : d.toNat + xs.length - 48 + 48 = d.toNat + xs.length := by omega
          simp [hj, hlt]
        · rw [if_neg hj]
          refine (ite_congr rfl (fun hc => ?_) fun _ => rfl).trans (if_congr (by omega) rfl rfl)
          exact (List.getD_append _ _ _ _ (by omega)).symm

/-- Thread after thread writes its words to a wide operand (R10, R54). -/
theorem regsHold_flatMap (g : Group) {d : RegField} {n : Nat} (hfit : Fits d n) {ts : List Nat} (hts : ∀ t ∈ ts, t < 32)
    {words : Nat → List Word} (hlen : ∀ t, (words t).length = n) :
    RegsHold g (applyWrites g (ts.flatMap (fun t => writeWide d t 0 (words t)))) d n ts (fun i t => (words t).getD i 0) := by
  induction ts using List.reverseRecOn with
  | nil => exact .nil ..
  | append_singleton ts t ih =>
    rw [List.flatMap_append, applyWrites_append, List.flatMap_singleton]
    refine (ih fun u hu => hts u (by simp [hu])).snoc ?_
    have hone := regsHold_writeWide (applyWrites g (ts.flatMap (fun t => writeWide d t 0 (words t)))) (hts t (by simp))
      (d := d) (xs := words t) (by rwa [hlen])
    rw [hlen] at hone
    exact hone.congr fun i _ u hu => by rw [List.mem_singleton.1 hu]

/-! ### A value and its tag -/

theorem applyWrites_writeTag_regs (g : Group) (d : RegField) (n : Nat) (tag : FTag) :
    applyWrites g (writeTag d n tag) = { g with vtag := (applyWrites g (writeTag d n tag)).vtag } := by
  unfold writeTag
  split_ifs
  · induction n with
    | zero => rfl
    | succ n ih =>
      rw [List.range_succ, List.map_append, applyWrites_append, List.map_singleton, ih]
      rfl
  · rfl

theorem tagV_writeTag (g : Group) (d : RegField) (n : Nat) (tag : FTag) (r : Nat) :
    (applyWrites g (writeTag d n tag)).tagV r = if isV d ∧ d.toNat ≤ r ∧ r < d.toNat + n then tag else g.tagV r := by
  unfold writeTag
  by_cases hv : isV d = true
  · simp only [hv, if_true, true_and]
    induction n with
    | zero => exact (if_neg (by omega)).symm
    | succ n ih =>
      rw [List.range_succ, List.map_append, applyWrites_append]
      refine (tagV_setTag _ (d.toNat + n) r tag).trans ?_
      rw [ih]
      by_cases hr : r = d.toNat + n
      · rw [if_pos hr, if_pos (by omega)]
      · rw [if_neg hr]
        exact if_congr (by omega) rfl rfl
  · simp [hv]

/-- What a result of n registers from field d leaves: the words in the listed threads, and their tag. -/
theorem RegsHold.tagged {g h : Group} {d : RegField} {n : Nat} {ts : List Nat} {val : Nat → Nat → Word} (hr : RegsHold g h d n ts val)
    (tag : FTag) : HoldsWide g (applyWrites h (resultTag ts d n tag)) d n ts tag val := by
  unfold resultTag
  by_cases hts : ts = []
  · rw [if_pos hts]
    exact ⟨hr.v, fun r => by simp [hts, hr.tagV], hr.k, hr.preds⟩
  · rw [if_neg hts]
    have hregs := applyWrites_writeTag_regs h d n tag
    refine ⟨fun r t ht => ?_, fun r => ?_, fun j => ?_, ?_⟩
    · have hv : (applyWrites h (writeTag d n tag)).readV r t = h.readV r t := by rw [hregs]; rfl
      exact hv.trans (hr.v r t ht)
    · rw [tagV_writeTag]
      simp [hts, hr.tagV]
    · have hk : (applyWrites h (writeTag d n tag)).readK j = h.readK j := by rw [hregs]; rfl
      exact hk.trans (hr.k j)
    · rw [hregs]
      exact hr.preds

/-- Registers that carry no tag (R57). -/
theorem RegsHold.untagged {g h : Group} {d : RegField} {n : Nat} {ts : List Nat} {val : Nat → Nat → Word} (hr : RegsHold g h d n ts val)
    (hd : isV d = false) (tag : FTag) : HoldsWide g h d n ts tag val :=
  ⟨hr.v, fun r => by simp [hd, hr.tagV], hr.k, hr.preds⟩

theorem HoldsWide.lsts {g h : Group} {d : RegField} {n : Nat} {ts : List Nat} {tag : FTag} {val : Nat → Nat → Word}
    (hw : HoldsWide g h d n ts tag val) (st : Status) : HoldsWide g (applyWrites h [.lsts st]) d n ts tag val := hw

end Sys2Proof.Machine
end

section
/-! PROOF. RDG and WRG (R74, R309): the word of each class that RDG reads, what WRG makes of a group, and the steps of the two words. -/

namespace Sys2Proof.Machine

/-! ### Precise faults (R31, R361, R365) -/

theorem issue_fault {s : State} {slot : Nat} {g : Group} {f : Fields} {len : Nat} {b : Body} {c : Code} {a : Va} (h : Issues s slot g f)
    (hb : runBody b s.dev ⟨s.curCore, slot, f, g.pc, len⟩ g s.mach = .error (.fault c a)) :
    issue len f b s = .next { s with mach := s.mach.takeFault s.curCore slot c a } := by
  rw [issue_eq h, hb]
  rfl

theorem Mach.takeFault_sup {m : Mach} {core slot : Nat} {g : Group} (hg : m.group? core slot = some g) (hs : g.id.sup = true)
    (c : Code) (a : Va) : m.takeFault core slot c a =
      ((m.setCore core ((m.core core).releaseLane slot)).setGroup core slot (g.stop .fault (some c))).postEvent 1 core
        ((m.core core).releaseLane slot).cycle (g.pc.toNat + a.toNat * 2 ^ 64 + c.num * 2 ^ 120) := by
  simp only [Mach.takeFault, hg, hs, if_true]

theorem Mach.log_postEvent {m : Mach} {kind source cycle data : Nat} (h : m.log.tail - m.log.head ≠ 2046#64) :
    (m.postEvent kind source cycle data).log.records =
      m.log.records ++ [{ kind, source, seq := m.log.tail.setWidth 32, cycle, data }] := by
  simp only [Mach.postEvent, h, if_false]

/-- A precise fault of the supervisor group stops it at its word and posts a kind-1 event; no byte changes (R365). -/
theorem issue_supervisorFault {s : State} {slot : Nat} {g : Group} {f : Fields} {len : Nat} {b : Body} {c : Code} {a : Va}
    (h : Issues s slot g f) (hs : g.id.sup = true)
    (hb : runBody b s.dev ⟨s.curCore, slot, f, g.pc, len⟩ g s.mach = .error (.fault c a)) :
    ∃ t, issue len f b s = .next t ∧ SameMemory s.mach t.mach ∧
      t.mach.group? s.curCore slot = some { g with state := .stopped, cause := .fault, fcode := some c, runCount := 0 } ∧
      Logged s t 1 s.curCore (g.pc.toNat + a.toNat * 2 ^ 64 + c.num * 2 ^ 120) := by
  have hg : s.mach.group? s.curCore slot = some g := State.issuer_group h.1
  refine ⟨_, issue_fault h hb, ?_⟩
  dsimp only
  rw [Mach.takeFault_sup hg hs]
  set m1 := s.mach.setCore s.curCore ((s.mach.core s.curCore).releaseLane slot)
  have hlane : OneGroup (s.mach.core s.curCore) (m1.core s.curCore) slot := by
    rw [Mach.core_setCore_self]
    exact .releaseLane ..
  refine ⟨?_, by rw [Mach.group?_postEvent, Mach.group?_setGroup_self]; rfl, fun hroom => ⟨_, Mach.log_postEvent hroom, rfl, rfl, rfl, rfl⟩⟩
  refine OneCore.sameMemory (core := s.curCore) (slot := slot)
    ((OneCore.setCore ..).trans ((OneCore.setGroup ..).trans (.postEvent ..))) (hlane.trans ?_)
  rw [Mach.core_postEvent]
  exact .setGroup ..

/-! ### The words that name a register -/

/-- The bits of the register word that R309 calls zero. -/
theorem regIllegal_eq_false_iff {k1 : Word} : regIllegal k1 = false ↔ k1.toNat < 2 ^ 21 ∧ k1.toNat / 4096 % 16 = 0 := by
  simp only [regIllegal, bitsOf, Nat.shiftRight_eq_div_pow, Bool.or_eq_false_iff, bne_eq_false_iff_eq]
  omega

theorem Mach.target_spec {m : Mach} {core n : Nat} {k0 : Word} {x : Group} (h : m.target core k0 = some (n, x)) :
    m.slotGroup? core n = some x ∧ x.id.sup = false := by
  unfold Mach.target at h
  split at h
  · cases h
  · split at h
    · next hg =>
      split at h
      · cases h
      · next hsup =>
        cases h
        exact ⟨hg, by simp at hsup; exact hsup.1⟩
    · cases h

/-- A register word reaches a group other than the supervisor group, and one of its 32 threads. -/
theorem Mach.regAim_spec {m : Mach} {core n cls idx u : Nat} {k0 k1 : Word} {x : Group}
    (h : m.regAim core k0 k1 = some (n, x, cls, idx, u)) : m.slotGroup? core n = some x ∧ x.id.sup = false ∧ u < 32 := by
  unfold Mach.regAim at h
  split at h
  · cases h
  · next htarget =>
    split at h
    · cases h
      obtain ⟨hslot, hsup⟩ := Mach.target_spec htarget
      exact ⟨hslot, hsup, Nat.mod_lt _ (by decide)⟩
    · cases h

theorem blockWord_retired (g : Group) (w : Who) (f : Fields) (i : Nat) : blockWord (g.retired w) f i = blockWord g f i := rfl

/-! ### What RDG reads -/

theorem ofNat_add_mul_two_pow {n k a : Nat} (b : Nat) (h : a < 2 ^ k) :
    BitVec.ofNat n (a + b * 2 ^ k) = BitVec.ofNat n a ||| (BitVec.ofNat n b <<< k) := by
  refine BitVec.eq_of_getLsbD_eq fun i hi => ?_
  have hbit := Nat.testBit_two_pow_mul_add b h i
  rw [Nat.mul_comm, Nat.add_comm] at hbit
  rw [BitVec.getLsbD_or, BitVec.getLsbD_shiftLeft, BitVec.getLsbD_ofNat, BitVec.getLsbD_ofNat, BitVec.getLsbD_ofNat, hbit]
  by_cases hk : i < k
  · simp [hk]
  · have ha : a.testBit i = false := Nat.testBit_lt_two_pow (h.trans_le (Nat.pow_le_pow_right (by decide) (by omega)))
    simp [hk, ha, hi, show i - k < n by omega]

/-- A number put together bit by bit. -/
theorem foldl_bits (b : Nat → Bool) (n : Nat) :
    let x := (List.range n).foldl (fun x p => x + (if b p then 2 ^ p else 0)) 0
    x < 2 ^ n ∧ ∀ p, x.testBit p = (decide (p < n) && b p) := by
  induction n with
  | zero => simp
  | succ n ih =>
    dsimp only at ih ⊢
    obtain ⟨hlt, hbit⟩ := ih
    rw [List.range_succ, List.foldl_append, List.foldl_cons, List.foldl_nil]
    set x := (List.range n).foldl (fun x p => x + (if b p then 2 ^ p else 0)) 0
    refine ⟨by rw [Nat.pow_succ]; split_ifs <;> omega, fun p => ?_⟩
    by_cases hb : b n = true
    · rw [if_pos hb, Nat.add_comm]
      by_cases hp : p = n
      · subst hp
        rw [Nat.testBit_two_pow_add_eq, Nat.testBit_lt_two_pow hlt]
        simp [hb]
      · by_cases hpn : p < n
        · rw [Nat.testBit_two_pow_add_gt hpn, hbit]
          simp [hpn, Nat.lt_succ_of_lt hpn]
        · have hbig : 2 ^ n + x < 2 ^ p := calc
            2 ^ n + x < 2 ^ (n + 1) := by rw [Nat.pow_succ]; omega
            _ ≤ 2 ^ p := Nat.pow_le_pow_right (by decide) (by omega)
          rw [Nat.testBit_lt_two_pow hbig]
          simp [show ¬ p < n + 1 by omega]
    · rw [if_neg hb, Nat.add_zero, hbit]
      by_cases hp : p = n
      · simp [hp, hb]
      · simp [show (p < n + 1) = (p < n) by simp; omega]

section
variable {x : Group} {idx u : Nat} {v : Word} (d : Nat)

theorem Group.undefV_eq_false (halloc : idx < x.valloc) (hdead : x.state = .preempted → x.dead idx = false) : x.undefV idx = false := by
  simp only [Group.undefV, Bool.or_eq_false_iff, decide_eq_false_iff_not, Bool.and_eq_false_iff, beq_eq_false_iff_ne]
  exact ⟨by omega, (em (x.state = .preempted)).symm.imp_right hdead⟩

theorem rdgWord_v (halloc : idx < x.valloc) (hidx : idx < 47) (hdead : x.state = .preempted → x.dead idx = false) :
    rdgWord x 0 idx u d = some (x.readV idx u) := by
  simp [rdgWord, hidx, Group.undefV_eq_false halloc hdead]

theorem rdgWord_tag (halloc : idx < x.valloc) (hidx : idx < 47) (hdead : x.state = .preempted → x.dead idx = false) :
    rdgWord x 3 idx u d = some ((x.tagV idx).setWidth 32) := by
  simp [rdgWord, hidx, Group.undefV_eq_false halloc hdead]

theorem rdgWord_k (hidx : idx < 16) : rdgWord x 1 idx u d = some (x.readK idx) := by simp [rdgWord, hidx]

theorem rdgWord_pred (hv : ∀ p, p < 32 → v.getLsbD p = (decide (p < 8) && x.pred p u)) : rdgWord x 2 0 u d = some v := by
  have hword : BitVec.ofNat 32 (x.predWord u) = v := BitVec.eq_of_getLsbD_eq fun p hp => by
    obtain ⟨-, hbit⟩ := foldl_bits (fun p => x.pred p u) 8
    rw [BitVec.getLsbD_ofNat, hv p hp, Group.predWord, hbit]
    simp [hp]
  simp [rdgWord, hword]

theorem rdgWord_span (hidx : idx < 128) (hword : idx % 8 < 6) :
    rdgWord x 4 idx u d = some ((x.span (idx / 8)).image.extractLsb' (32 * (idx % 8)) 32) := by
  simp [rdgWord, hidx, hword]

/-- The group part of a line register that no open has bound yet, or that has four ways: it holds no free value (R62). -/
theorem LineReg.groupPart_eq {r : LineReg} (h : r.lines = [] ∨ r.lines.length = 4) : r.groupPart d =
    r.state.num + (if r.w then 8 else 0) + (if r.spad then 16 else 0) + (r.lines.length - 1) * 2 ^ 5 +
      (r.lines.getD 0 0).toNat / 128 * 2 ^ 8 + (r.lines.getD 1 0).toNat / 128 * 2 ^ 57 + (r.lines.getD 2 0).toNat / 128 * 2 ^ 106 +
      (r.lines.getD 3 0).toNat / 128 * 2 ^ 155 + r.tag.toNat * 2 ^ 204 := by
  unfold LineReg.groupPart
  obtain hl | hl := h
  · simp [hl]
  · obtain ⟨a, b, c, e, hl⟩ : ∃ a b c e, r.lines = [a, b, c, e] := by
      match hr : r.lines, hl with
      | [a, b, c, e], _ => exact ⟨a, b, c, e, rfl⟩
    simp [hl]

theorem rdgWord_line (hidx : idx < 64) (hword : idx % 8 < 7) :
    rdgWord x 5 idx u d = some (BitVec.ofNat 32 ((x.line (idx / 8)).groupPart d / 2 ^ (32 * (idx % 8)) % 2 ^ 32)) := by
  have hne : idx % 8 ≠ 7 := by omega
  simp [rdgWord, hidx, hne, bitsOf, Nat.shiftRight_eq_div_pow]

theorem rdgWord_thread (hidx : idx < 64) (hword : idx % 8 = 7) : rdgWord x 5 idx u d =
    some (BitVec.ofNat 32 ((if (x.line (idx / 8)).bound.getLsbD u then 2 ^ 9 else 0) + ((x.line (idx / 8)).way.getD u 0).toNat * 2 ^ 7 +
      ((x.line (idx / 8)).off.getD u 0).toNat)) := by
  simp [rdgWord, hidx, hword, LineReg.threadPart]

theorem rdgWord_gang (hidx : idx < 2) : rdgWord x 6 idx u d = some (x.gang.extractLsb' (32 * idx) 32) := by simp [rdgWord, hidx]

theorem rdgWord_pcLow : rdgWord x 9 0 u d = some (x.pc.setWidth 32) := rfl

theorem rdgWord_pcHigh : rdgWord x 9 1 u d = some ((x.pc >>> 32).setWidth 32) := by
  refine congrArg some (BitVec.eq_of_toNat_eq ?_)
  simp only [vaWords, List.getD_cons_succ, List.getD_cons_zero, BitVec.toNat_setWidth, BitVec.extractLsb'_toNat, BitVec.toNat_ushiftRight,
    Nat.shiftRight_eq_div_pow]
  omega

theorem rdgWord_stack (hlow : 2 ≤ idx) (hidx : idx < 18) : rdgWord x 10 idx u d = some (x.stack.getD (idx - 2) 0) := by
  simp [rdgWord, hidx, show idx ≠ 0 by omega, show idx ≠ 1 by omega]

theorem Group.sbBits_eq (lo n : Nat) : x.sbBits lo n = x.sb.toNat / 2 ^ lo % 2 ^ n := by
  simp [Group.sbBits, bitsOf, Nat.shiftRight_eq_div_pow]

theorem rdgWord_sbV : rdgWord x 11 0 u d = some (x.sb.extractLsb' 0 32) := by
  refine congrArg some (BitVec.eq_of_toNat_eq ?_)
  rw [Group.sbBits_eq]
  simp

theorem rdgWord_sbHigh : rdgWord x 11 1 u d =
    some (BitVec.ofNat 32 (x.sb.toNat / 2 ^ 32 % 2 ^ 15) ||| (BitVec.ofNat 32 (x.sb.toNat / 2 ^ 48 % 2 ^ 16) <<< 16)) := by
  refine congrArg some ?_
  rw [Group.sbBits_eq, Group.sbBits_eq, ofNat_add_mul_two_pow _ (by omega)]

theorem rdgWord_sbItems : rdgWord x 11 2 u d =
    some (BitVec.ofNat 32 (x.sb.toNat / 2 ^ 64 % 2 ^ 8) ||| (BitVec.ofNat 32 (x.sb.toNat / 2 ^ 72 % 2 ^ 8) <<< 8) |||
      (BitVec.ofNat 32 (x.sb.toNat / 2 ^ 80 % 2 ^ 16) <<< 16)) := by
  refine congrArg some ?_
  rw [Group.sbBits_eq, Group.sbBits_eq, Group.sbBits_eq, ofNat_add_mul_two_pow _ (by omega),
    ofNat_add_mul_two_pow _ (by omega)]

/-- What the table of R309 does not hold. -/
theorem rdgWord_eq_none {cls : Nat}
    (h : (cls = 0 ∧ 47 ≤ idx) ∨ (cls = 1 ∧ 16 ≤ idx) ∨ (cls = 2 ∧ 0 < idx) ∨ (cls = 3 ∧ 47 ≤ idx) ∨
      (cls = 4 ∧ (128 ≤ idx ∨ 6 ≤ idx % 8)) ∨ (cls = 5 ∧ 64 ≤ idx) ∨ (cls = 6 ∧ 2 ≤ idx) ∨ ((cls = 7 ∨ cls = 8) ∧ 0 < idx) ∨
      (cls = 9 ∧ 2 ≤ idx) ∨ (cls = 10 ∧ 18 ≤ idx) ∨ (cls = 11 ∧ 3 ≤ idx) ∨ (cls = 12 ∧ 4 ≤ idx) ∨ 13 ≤ cls) :
    rdgWord x cls idx u d = none := by
  obtain ⟨rfl, h⟩ | ⟨rfl, h⟩ | ⟨rfl, h⟩ | ⟨rfl, h⟩ | ⟨rfl, h⟩ | ⟨rfl, h⟩ | ⟨rfl, h⟩ | ⟨rfl | rfl, h⟩ | ⟨rfl, h⟩ | ⟨rfl, h⟩ | ⟨rfl, h⟩ |
    ⟨rfl, h⟩ | h := h
  · exact if_neg (by omega)
  · exact if_neg (by omega)
  · exact if_neg (by omega)
  · exact if_neg (by omega)
  · exact if_neg (by simp only [Bool.and_eq_true, decide_eq_true_eq]; omega)
  · exact if_neg (by omega)
  · exact if_neg (by omega)
  · exact if_neg (by omega)
  · exact if_neg (by omega)
  · exact if_neg (by omega)
  · simp [rdgWord, show idx ≠ 0 by omega, show idx ≠ 1 by omega, show ¬ idx < 18 by omega]
  all_goals
    obtain ⟨n, rfl⟩ := Nat.exists_eq_add_of_le' h
    rfl

end

/-! ### The steps of RDG -/

theorem runBody_rdg_aimed {d : Device} {w : Who} {g x : Group} {m : Mach} {n cls idx u : Nat} {read : Option Word}
    (hp : g.participants w.f.g ≠ []) (hz : regIllegal (blockWord g w.f 1) = false)
    (haim : (m.retire w g).regAim w.core (blockWord g w.f 0) (blockWord g w.f 1) = some (n, x, cls, idx, u))
    (hbad : rdgBad x cls idx u = false) (hread : ∀ d, rdgWord x cls idx u d = read) : runBody bodyRdg d w g m =
      regAnswer w { m.retire w g with draws := (m.retire w g).draws + 8 } (g.retired w) read (if read.isSome then .ok else .mismatch) := by
  rw [bodyRdg, runBody_groupWide hp]
  simp only [blockWord_retired, hz, haim, hbad, hread]
  cases read <;> rfl

theorem runBody_rdg_unaimed {d : Device} {w : Who} {g : Group} {m : Mach}
    (hp : g.participants w.f.g ≠ []) (hz : regIllegal (blockWord g w.f 1) = false)
    (haim : (m.retire w g).regAim w.core (blockWord g w.f 0) (blockWord g w.f 1) = none) :
    runBody bodyRdg d w g m = regAnswer w (m.retire w g) (g.retired w) none .mismatch := by
  rw [bodyRdg, runBody_groupWide hp]
  simp only [blockWord_retired, hz, haim]
  rfl

section
variable {s : State} {slot : Nat} {g : Group} {w : WordA} {n cls idx u : Nat} {x : Group}
  (h : Issues s slot g (fieldsA 0xF2 w)) (hp : g.participants w.g ≠ []) (hz : regIllegal (blockWord g (fieldsA 0xF2 w) 1) = false)
include h hp hz

/-- RDG of a register that the table holds: its word is on its way. -/
theorem rdg_reads {v : Word}
    (haim : (s.issued slot g (fieldsA 0xF2 w) 4).regAim s.curCore (blockWord g (fieldsA 0xF2 w) 0) (blockWord g (fieldsA 0xF2 w) 1) =
      some (n, x, cls, idx, u))
    (hbad : rdgBad x cls idx u = false) (hv : ∀ d, rdgWord x cls idx u d = some v) :
    ∃ t g', exec (.rdg w) s = .next t ∧
      Sends s t slot g g' [.result (writeField w.d 0 v ++ statusWrites w.b .ok) (regItems w.b 1 ||| regItems w.d 1) false] :=
  have hb := runBody_rdg_aimed (d := s.dev) (w := s.who slot g (fieldsA 0xF2 w)) hp hz haim hbad hv
  issue_sends h hb (.draws ..) (group?_of_cores rfl)

/-- RDG of a register that the table does not hold. -/
theorem rdg_outside
    (haim : (s.issued slot g (fieldsA 0xF2 w) 4).regAim s.curCore (blockWord g (fieldsA 0xF2 w) 0) (blockWord g (fieldsA 0xF2 w) 1) =
      some (n, x, cls, idx, u))
    (hbad : rdgBad x cls idx u = false) (hv : ∀ d, rdgWord x cls idx u d = none) :
    ∃ t g', exec (.rdg w) s = .next t ∧
      Sends s t slot g g' [.result (statusWrites w.b .mismatch) (regItems w.b 1 ||| regItems w.d 1) false] :=
  have hb := runBody_rdg_aimed (d := s.dev) (w := s.who slot g (fieldsA 0xF2 w)) hp hz haim hbad hv
  issue_sends h hb (.draws ..) (group?_of_cores rfl)

/-- RDG that reaches no group. -/
theorem rdg_unaimed
    (haim : (s.issued slot g (fieldsA 0xF2 w) 4).regAim s.curCore (blockWord g (fieldsA 0xF2 w) 0) (blockWord g (fieldsA 0xF2 w) 1) =
      none) :
    ∃ t g', exec (.rdg w) s = .next t ∧
      Sends s t slot g g' [.result (statusWrites w.b .mismatch) (regItems w.b 1 ||| regItems w.d 1) false] :=
  issue_sends h (runBody_rdg_unaimed hp hz haim) (.refl ..) (group?_of_cores rfl)

end

/-! ### What WRG makes of a group -/

theorem getLsbD_itemBit {i b : Nat} (hb : b < 96) : (itemBit i).getLsbD b = decide (b = i) := by
  simp only [itemBit, BitVec.getLsbD_shiftLeft, hb, decide_true, Bool.true_and]
  by_cases hi : b < i
  · simp [hi, show b ≠ i by omega]
  · by_cases he : b = i
    · simp [he]
    · simp [hi, he, show b - i ≠ 0 by omega]

theorem and_itemBit_eq_zero_iff {sb : BitVec 96} {i : Nat} :
    sb &&& itemBit i = 0 ↔ ∀ b, i ≤ b → b < i + 1 → sb.getLsbD b = false := by
  refine ⟨fun h b hi hlt => ?_, fun h => BitVec.eq_of_getLsbD_eq fun b hb => ?_⟩
  · obtain rfl : b = i := by omega
    by_cases hb : b < 96
    · have hbit := congrArg (fun y : BitVec 96 => y.getLsbD b) h
      simpa [BitVec.getLsbD_and, getLsbD_itemBit hb] using hbit
    · exact BitVec.getLsbD_of_ge sb b (by omega)
  · rw [BitVec.getLsbD_and, getLsbD_itemBit hb]
    by_cases hbi : b = i
    · simp [h b (by omega) (by omega)]
    · simp [hbi]

theorem and_predItems_eq_zero_iff {sb : BitVec 96} :
    sb &&& (0xFF#96 <<< 64) = 0 ↔ ∀ b, 64 ≤ b → b < 64 + 8 → sb.getLsbD b = false := by
  have hbits : ∀ b < 96, (0xFF#96 <<< 64).getLsbD b = decide (64 ≤ b ∧ b < 64 + 8) := by decide
  refine ⟨fun h b hlow hlt => ?_, fun h => BitVec.eq_of_getLsbD_eq fun b hb => ?_⟩
  · have hbit : (sb &&& (0xFF#96 <<< 64)).getLsbD b = false := by rw [h]; exact BitVec.getLsbD_zero
    rw [BitVec.getLsbD_and, hbits b (by omega)] at hbit
    simpa [hlow, hlt] using hbit
  · rw [BitVec.getLsbD_and, hbits b hb]
    by_cases hc : 64 ≤ b ∧ b < 64 + 8
    · simp [h b hc.1 hc.2]
    · simp [hc]

section
variable {x : Group} {idx u : Nat} {val : Word}

theorem wrgGroup_v (hidx : idx < 47) (hc : x.sb &&& itemBit idx = 0) :
    wrgGroup x 0 idx u val = some (if idx < x.valloc then x.setV idx u val else x) := by
  simp [wrgGroup, hidx, hc]

theorem wrgGroup_k (hidx : idx < 16) (hc : x.sb &&& itemBit (48 + idx) = 0) : wrgGroup x 1 idx u val = some (x.setK idx val) := by
  simp [wrgGroup, hidx, hc]

theorem wrgGroup_pred (hc : x.sb &&& (0xFF#96 <<< 64) = 0) :
    wrgGroup x 2 0 u val = some ((List.range 8).foldl (fun y p => y.setPred p u (val.getLsbD p)) x) := by
  unfold wrgGroup
  simp only [if_true, hc, bne_self_eq_false, Bool.false_eq_true, if_false]

theorem wrgGroup_tag (hidx : idx < 47) (hval : val.toNat % 16 < 10) (hc : x.sb &&& itemBit idx = 0) :
    wrgGroup x 3 idx u val = some (if idx < x.valloc then x.setTag idx (val.setWidth 4) else x) := by
  simp [wrgGroup, hidx, hval, hc]

theorem wrgGroup_span (hidx : idx < 128) (hword : idx % 8 < 6) : wrgGroup x 4 idx u val =
    some (x.setSpan (idx / 8) (.ofImage (((x.span (idx / 8)).image &&& ~~~(0xFFFFFFFF#192 <<< (32 * (idx % 8)))) |||
      (val.setWidth 192 <<< (32 * (idx % 8)))))) := by
  simp [wrgGroup, hidx, hword]

theorem wrgGroup_gang (hidx : idx < 2) : wrgGroup x 6 idx u val =
    some { x with gang := ((x.gang &&& ~~~(0xFFFFFFFF#64 <<< (32 * idx))) ||| (val.setWidth 64 <<< (32 * idx))) &&& 0x00FFFFFFFFFFFF17 } := by
  simp [wrgGroup, hidx]

/-- What WRG does not write: registers outside the classes it writes, and those with a pending result (R309). -/
theorem wrgGroup_eq_none {cls : Nat}
    (h : cls = 5 ∨ 7 ≤ cls ∨ (cls = 0 ∧ 47 ≤ idx) ∨ (cls = 1 ∧ 16 ≤ idx) ∨ (cls = 2 ∧ 0 < idx) ∨
      (cls = 3 ∧ (47 ≤ idx ∨ 10 ≤ val.toNat % 16)) ∨ (cls = 4 ∧ (128 ≤ idx ∨ 6 ≤ idx % 8)) ∨ (cls = 6 ∧ 2 ≤ idx) ∨
      ((cls = 0 ∨ cls = 3) ∧ x.sb &&& itemBit idx ≠ 0) ∨ (cls = 1 ∧ x.sb &&& itemBit (48 + idx) ≠ 0) ∨
      (cls = 2 ∧ x.sb &&& (0xFF#96 <<< 64) ≠ 0)) : wrgGroup x cls idx u val = none := by
  obtain rfl | h | ⟨rfl, h⟩ | ⟨rfl, h⟩ | ⟨rfl, h⟩ | ⟨rfl, h⟩ | ⟨rfl, h⟩ | ⟨rfl, h⟩ | ⟨rfl | rfl, h⟩ | ⟨rfl, h⟩ | ⟨rfl, h⟩ := h
  · rfl
  · obtain ⟨n, rfl⟩ := Nat.exists_eq_add_of_le' h
    rfl
  · exact if_neg (by omega)
  · exact if_neg (by omega)
  · exact if_neg (by omega)
  · exact if_neg (by simp only [Bool.and_eq_true, decide_eq_true_eq]; omega)
  · exact if_neg (by simp only [Bool.and_eq_true, decide_eq_true_eq]; omega)
  · exact if_neg (by omega)
  all_goals
    simp only [wrgGroup, bne_iff_ne, ne_eq, h, not_false_eq_true, if_true, ite_self]

theorem pred_setPred (g : Group) {p t : Nat} (b : Bool) (q : Nat) {c : Nat} (hc : c < 32) :
    (g.setPred p t b).pred q c = if q = p ∧ c = t ∧ 0 < p then b else g.pred q c := by
  unfold Group.setPred
  by_cases hp : p = 0
  · simp [hp]
  · rw [if_neg hp]
    simp only [Group.pred, SMap.getD_set]
    by_cases hq : q = p
    · subst hq
      by_cases hct : c = t
      · subst hct
        cases b <;> simp [hp, hc, Nat.pos_of_ne_zero hp]
      · obtain hlt | hgt : c < t ∨ ¬c < t ∧ c - t ≠ 0 := by omega
        · cases b <;> simp [hct, hc, hlt]
        · cases b <;> simp [hct, hc, hgt]
    · simp [hq]

/-- The predicates of one thread are written one after another; p0 stays (R56). -/
theorem foldl_setPred (x : Group) (u : Nat) (val : Word) (n : Nat) :
    let y := (List.range n).foldl (fun y p => y.setPred p u (val.getLsbD p)) x
    y = { x with preds := y.preds } ∧
    ∀ p b, b < 32 → y.pred p b = if b = u ∧ 0 < p ∧ p < n then val.getLsbD p else x.pred p b := by
  induction n with
  | zero => simp
  | succ n ih =>
    dsimp only at ih ⊢
    obtain ⟨hrest, hpred⟩ := ih
    rw [List.range_succ, List.foldl_append, List.foldl_cons, List.foldl_nil]
    set y := (List.range n).foldl (fun y p => y.setPred p u (val.getLsbD p)) x
    refine ⟨?_, fun p b hb => ?_⟩
    · have hset : y.setPred n u (val.getLsbD n) = { y with preds := (y.setPred n u (val.getLsbD n)).preds } := by
        unfold Group.setPred
        split_ifs <;> rfl
      rw [hset, hrest]
    · rw [pred_setPred y _ p hb, hpred p b hb]
      by_cases hpn : p = n
      · subst hpn
        simp
      · simp only [hpn, false_and, if_false, show (p < n + 1) = (p < n) by simp; omega]

/-- Half a gang register is written, and of it only the bits of R66 stay. -/
theorem getLsbD_gangWrite (hidx : idx < 2) (b : Nat) (hb : b < 64) :
    (((x.gang &&& ~~~(0xFFFFFFFF#64 <<< (32 * idx))) ||| (val.setWidth 64 <<< (32 * idx))) &&& 0x00FFFFFFFFFFFF17#64).getLsbD b =
      (decide (b < 3 ∨ b = 4 ∨ (8 ≤ b ∧ b < 56)) && if b / 32 = idx then val.getLsbD (b % 32) else x.gang.getLsbD b) := by
  have hmask : ∀ b < 64, (0x00FFFFFFFFFFFF17#64).getLsbD b = decide (b < 3 ∨ b = 4 ∨ (8 ≤ b ∧ b < 56)) := by decide
  have hlow : ∀ b < 64, (0xFFFFFFFF#64).getLsbD b = decide (b < 32) := by decide
  rw [BitVec.getLsbD_and, BitVec.getLsbD_or, BitVec.getLsbD_and, BitVec.getLsbD_not, BitVec.getLsbD_shiftLeft, BitVec.getLsbD_shiftLeft,
    BitVec.getLsbD_setWidth, hmask b hb, hlow (b - 32 * idx) (by omega), Bool.and_comm]
  congr 1
  by_cases hq : b / 32 = idx
  · have hge : ¬ b < 32 * idx := by omega
    have hsub : b - 32 * idx = b % 32 := by omega
    have hlt : b % 32 < 32 := Nat.mod_lt _ (by decide)
    simp [hq, hge, hsub, hb, hlt, hlt.trans (show 32 < 64 by decide)]
  · rw [if_neg hq]
    obtain hlt | ⟨hge, hout⟩ : b < 32 * idx ∨ ¬ b < 32 * idx ∧ 32 ≤ b - 32 * idx := by omega
    · simp [hlt, hb]
    · simp [hge, hb, BitVec.getLsbD_of_ge val _ hout, Nat.not_lt.2 hout]

theorem span_setSpan (x : Group) (j i : Nat) (y : Span) : (x.setSpan j y).span i = if i = j then y else x.span i := by
  simp [Group.span, Group.setSpan, SMap.getD_set]

end

/-! ### The steps of WRG -/

theorem runBody_wrg_none {d : Device} {w : Who} {g x : Group} {m : Mach} {n cls idx u : Nat}
    (hp : g.participants w.f.g ≠ []) (hz : regIllegal (blockWord g w.f 1) = false)
    (haim : (m.retire w g).regAim w.core (blockWord g w.f 0) (blockWord g w.f 1) = some (n, x, cls, idx, u))
    (hnone : wrgGroup x cls idx u (g.reg w.f.fd ((g.participants w.f.g).head?.getD 0)) = none) :
    runBody bodyWrg d w g m = regAnswer w (m.retire w g) (g.retired w) none .mismatch := by
  have hnone' : wrgGroup x cls idx u (opD (g.retired w) w.f (((g.retired w).participants w.f.g).head?.getD 0)) = none := hnone
  rw [bodyWrg, runBody_groupWide hp]
  simp only [blockWord_retired, hz, haim, hnone']
  rfl

theorem runBody_wrg_some {d : Device} {w : Who} {g x y : Group} {m : Mach} {n cls idx u : Nat}
    (hp : g.participants w.f.g ≠ []) (hz : regIllegal (blockWord g w.f 1) = false)
    (haim : (m.retire w g).regAim w.core (blockWord g w.f 0) (blockWord g w.f 1) = some (n, x, cls, idx, u))
    (hx : (m.retire w g).group? w.core n = some x)
    (hy : wrgGroup x cls idx u (g.reg w.f.fd ((g.participants w.f.g).head?.getD 0)) = some y) :
    runBody bodyWrg d w g m =
      regAnswer w ((m.retire w g).setGroup w.core n (wrgGood y cls idx u)) (g.retired w) none .ok := by
  have hy' : wrgGroup x cls idx u (opD (g.retired w) w.f (((g.retired w).participants w.f.g).head?.getD 0)) = some y := hy
  rw [bodyWrg, runBody_groupWide hp]
  simp only [blockWord_retired, hz, haim, hy']
  rw [Mach.modUid_resident hx]
  rfl

section
variable {s : State} {slot : Nat} {g : Group} {w : WordA} {n cls idx u : Nat} {x : Group}
  (h : Issues s slot g (fieldsA 0xF3 w)) (hp : g.participants w.g ≠ []) (hz : regIllegal (blockWord g (fieldsA 0xF3 w) 1) = false)
  (haim : (s.issued slot g (fieldsA 0xF3 w) 4).regAim s.curCore (blockWord g (fieldsA 0xF3 w) 0) (blockWord g (fieldsA 0xF3 w) 1) =
    some (n, x, cls, idx, u))
include h hp hz haim

/-- WRG of a register that it does not write answers MISMATCH. -/
theorem wrg_mismatch (hnone : wrgGroup x cls idx u (g.reg w.d ((g.participants w.g).head?.getD 0)) = none) :
    ∃ t g', exec (.wrg w) s = .next t ∧ Sends s t slot g g' [.result (statusWrites w.b .mismatch) (regItems w.b 1) false] := by
  have hb := runBody_wrg_none (d := s.dev) (w := s.who slot g (fieldsA 0xF3 w)) hp hz haim hnone
  rw [← BitVec.or_zero (x := regItems w.b 1)]
  exact issue_sends h hb (.refl ..) (group?_of_cores rfl)

omit hz in
/-- The group that a register word reaches is not the one that issues it. -/
theorem regAim_ne_slot : n ≠ slot := by
  rintro rfl
  obtain ⟨hslot, hsup, -⟩ := Mach.regAim_spec haim
  have hg : (s.issued n g (fieldsA 0xF3 w) 4).group? s.curCore n = some (g.retired (s.who n g (fieldsA 0xF3 w))) :=
    group?_of_cores rfl
  have hself : g.id.sup = true := sup_of_issues h (show supOnly 0xF3 = true by decide) hp
  simp only [Mach.slotGroup?, hg, Option.some.injEq] at hslot
  subst hslot
  exact absurd (hsup.symm.trans hself) (by decide)

/-- WRG of a register of a resident group: the group takes the word, and nothing else of it changes. -/
theorem wrg_writes {y : Group} (hx : s.mach.group? s.curCore n = some x)
    (hy : wrgGroup x cls idx u (g.reg w.d ((g.participants w.g).head?.getD 0)) = some y) :
    ∃ t, exec (.wrg w) s = .next t ∧ t.mach.group? s.curCore n = some (wrgGood y cls idx u) ∧
      t.mach.msgs.map (·.body) = s.mach.msgs.map (·.body) ++ [answer w.b .ok] := by
  have hne : n ≠ slot := regAim_ne_slot h hp haim
  have hx' : (s.issued slot g (fieldsA 0xF3 w) 4).group? s.curCore n = some x :=
    (Mach.group?_retire_ne fun hc => hne hc.2).trans hx
  have hb := runBody_wrg_some (d := s.dev) (w := s.who slot g (fieldsA 0xF3 w)) hp hz haim hx' hy
  obtain ⟨t, g', hnext, hd⟩ := issue_defers (m1 := (s.issued slot g (fieldsA 0xF3 w) 4).setGroup s.curCore n (wrgGood y cls idx u)) h hb
    ((Mach.group?_setGroup_ne _ _ _ hne.symm).trans (group?_of_cores rfl))
  refine ⟨t, hnext, (hd.group?_ne fun hc => hne hc.2).trans (Mach.group?_setGroup_self ..), hd.bodies.trans ?_⟩
  show _ = s.mach.msgs.map (·.body) ++ [.result (statusWrites w.b .ok) (regItems w.b 1) false]
  rw [← BitVec.or_zero (x := regItems w.b 1)]
  rfl

end

/-! ### A register word with a bit that is zero by R309 -/

theorem runBody_rdg_illegal {d : Device} {w : Who} {g : Group} {m : Mach} (hp : g.participants w.f.g ≠ [])
    (hz : regIllegal (blockWord g w.f 1) = true) : runBody bodyRdg d w g m = .error (.fault .illegal 0) := by
  rw [bodyRdg, runBody_groupWide hp]
  simp only [blockWord_retired, hz, if_true]

theorem runBody_wrg_illegal {d : Device} {w : Who} {g : Group} {m : Mach} (hp : g.participants w.f.g ≠ [])
    (hz : regIllegal (blockWord g w.f 1) = true) : runBody bodyWrg d w g m = .error (.fault .illegal 0) := by
  rw [bodyWrg, runBody_groupWide hp]
  simp only [blockWord_retired, hz, if_true]

/-- RDG and WRG of such a word are ILLEGAL. -/
theorem registerWord_illegal {s : State} {slot : Nat} {g : Group} {w : WordA} {i : Instr}
    (hi : i = .rdg w ∧ Issues s slot g (fieldsA 0xF2 w) ∨ i = .wrg w ∧ Issues s slot g (fieldsA 0xF3 w))
    (hp : g.participants w.g ≠ []) (hz : regIllegal (blockWord g (fieldsA 0xF2 w) 1) = true) (hs : g.id.sup = true) :
    ∃ t, exec i s = .next t ∧ SameMemory s.mach t.mach ∧ t.mach.group? s.curCore slot =
      some { g with state := .stopped, cause := .fault, fcode := some .illegal, runCount := 0 } ∧
      Logged s t 1 s.curCore (g.pc.toNat + 2 ^ 120) := by
  have hdata : g.pc.toNat + (0 : Va).toNat * 2 ^ 64 + Code.illegal.num * 2 ^ 120 = g.pc.toNat + 2 ^ 120 := by simp [Code.num]
  rw [← hdata]
  obtain ⟨rfl, h⟩ | ⟨rfl, h⟩ := hi
  · exact issue_supervisorFault (len := 4) h hs (runBody_rdg_illegal hp hz)
  · exact issue_supervisorFault (len := 4) h hs (runBody_wrg_illegal hp hz)

/-! ### The table of R309 -/

/-- Every class of register that RDG reads, with what a register of it reads as. -/
theorem rdgWord_eq_some {x : Group} {cls idx u : Nat} {v : Word}
    (h : (cls = 0 ∧ (idx < x.valloc ∧ idx < 47 ∧ (x.state = .preempted → x.dead idx = false)) ∧ v = x.readV idx u) ∨
      (cls = 1 ∧ idx < 16 ∧ v = x.readK idx) ∨
      (cls = 2 ∧ idx = 0 ∧ ∀ p, p < 32 → v.getLsbD p = (decide (p < 8) && x.pred p u)) ∨
      (cls = 3 ∧ (idx < x.valloc ∧ idx < 47 ∧ (x.state = .preempted → x.dead idx = false)) ∧ v = (x.tagV idx).setWidth 32) ∨
      (cls = 4 ∧ idx < 128 ∧ idx % 8 < 6 ∧ v = (x.span (idx / 8)).image.extractLsb' (32 * (idx % 8)) 32) ∨
      (cls = 5 ∧ idx < 64 ∧ idx % 8 < 7 ∧ ((x.line (idx / 8)).lines = [] ∨ (x.line (idx / 8)).lines.length = 4) ∧
        v = BitVec.ofNat 32 (((x.line (idx / 8)).state.num + (if (x.line (idx / 8)).w then 8 else 0) +
          (if (x.line (idx / 8)).spad then 16 else 0) + ((x.line (idx / 8)).lines.length - 1) * 2 ^ 5 +
          ((x.line (idx / 8)).lines.getD 0 0).toNat / 128 * 2 ^ 8 + ((x.line (idx / 8)).lines.getD 1 0).toNat / 128 * 2 ^ 57 +
          ((x.line (idx / 8)).lines.getD 2 0).toNat / 128 * 2 ^ 106 + ((x.line (idx / 8)).lines.getD 3 0).toNat / 128 * 2 ^ 155 +
          (x.line (idx / 8)).tag.toNat * 2 ^ 204) / 2 ^ (32 * (idx % 8)) % 2 ^ 32)) ∨
      (cls = 5 ∧ idx < 64 ∧ idx % 8 = 7 ∧ v = BitVec.ofNat 32 ((if (x.line (idx / 8)).bound.getLsbD u then 2 ^ 9 else 0) +
        ((x.line (idx / 8)).way.getD u 0).toNat * 2 ^ 7 + ((x.line (idx / 8)).off.getD u 0).toNat)) ∨
      (cls = 6 ∧ idx < 2 ∧ v = x.gang.extractLsb' (32 * idx) 32) ∨ (cls = 7 ∧ idx = 0 ∧ v = x.statusWord x.state) ∨
      (cls = 8 ∧ idx = 0 ∧ v = x.bereave) ∨ (cls = 9 ∧ idx = 0 ∧ v = x.pc.setWidth 32) ∨
      (cls = 9 ∧ idx = 1 ∧ v = (x.pc >>> 32).setWidth 32) ∨ (cls = 10 ∧ idx = 0 ∧ v = x.amask) ∨
      (cls = 10 ∧ idx = 1 ∧ v = BitVec.ofNat 32 x.depth) ∨ (cls = 10 ∧ 2 ≤ idx ∧ idx < 18 ∧ v = x.stack.getD (idx - 2) 0) ∨
      (cls = 11 ∧ idx = 0 ∧ v = x.sb.extractLsb' 0 32) ∨
      (cls = 11 ∧ idx = 1 ∧ v = BitVec.ofNat 32 (x.sb.toNat / 2 ^ 32 % 2 ^ 15) ||| (BitVec.ofNat 32 (x.sb.toNat / 2 ^ 48 % 2 ^ 16) <<< 16)) ∨
      (cls = 11 ∧ idx = 2 ∧ v = BitVec.ofNat 32 (x.sb.toNat / 2 ^ 64 % 2 ^ 8) ||| (BitVec.ofNat 32 (x.sb.toNat / 2 ^ 72 % 2 ^ 8) <<< 8) |||
        (BitVec.ofNat 32 (x.sb.toNat / 2 ^ 80 % 2 ^ 16) <<< 16)) ∨
      (cls = 12 ∧ idx = 0 ∧ v = BitVec.ofNat 32 (x.batch.bseq.toNat * 2 ^ 24 + x.batch.bdone.toNat * 2 ^ 16 + x.batch.openn * 2 ^ 8)) ∨
      (cls = 12 ∧ idx = 1 ∧ v = x.tokens) ∨ (cls = 12 ∧ idx = 2 ∧ v = x.eseq) ∨
      (cls = 12 ∧ idx = 3 ∧ v = BitVec.ofNat 32 (x.dspec * 256 + x.didx))) (d : Nat) : rdgWord x cls idx u d = some v := by
  obtain ⟨rfl, ⟨halloc, hidx, hdead⟩, rfl⟩ | ⟨rfl, hidx, rfl⟩ | ⟨rfl, rfl, hv⟩ | ⟨rfl, ⟨halloc, hidx, hdead⟩, rfl⟩ | ⟨rfl, hidx, hword, rfl⟩ |
    ⟨rfl, hidx, hword, hlines, rfl⟩ | ⟨rfl, hidx, hword, rfl⟩ | ⟨rfl, hidx, rfl⟩ | ⟨rfl, rfl, rfl⟩ | ⟨rfl, rfl, rfl⟩ | ⟨rfl, rfl, rfl⟩ |
    ⟨rfl, rfl, rfl⟩ | ⟨rfl, rfl, rfl⟩ | ⟨rfl, rfl, rfl⟩ | ⟨rfl, hlow, hidx, rfl⟩ | ⟨rfl, rfl, rfl⟩ | ⟨rfl, rfl, rfl⟩ | ⟨rfl, rfl, rfl⟩ |
    ⟨rfl, rfl, rfl⟩ | ⟨rfl, rfl, rfl⟩ | ⟨rfl, rfl, rfl⟩ | ⟨rfl, rfl, rfl⟩ := h
  · exact rdgWord_v d halloc hidx hdead
  · exact rdgWord_k d hidx
  · exact rdgWord_pred d hv
  · exact rdgWord_tag d halloc hidx hdead
  · exact rdgWord_span d hidx hword
  · rw [rdgWord_line d hidx hword, LineReg.groupPart_eq d hlines]
  · exact rdgWord_thread d hidx hword
  · exact rdgWord_gang d hidx
  · rfl
  · rfl
  · exact rdgWord_pcLow d
  · exact rdgWord_pcHigh d
  · rfl
  · rfl
  · exact rdgWord_stack d hlow hidx
  · exact rdgWord_sbV d
  · exact rdgWord_sbHigh d
  · exact rdgWord_sbItems d
  all_goals rfl

end Sys2Proof.Machine
end

section
/-! PROOF. The supervisor's mailbox (R120, R307, R308), cached translations (R311) and the fault queue (R123, R312). -/

namespace Sys2Proof.Machine

/-! ### Per-thread words in D -/

/-- The writes of one word a thread in D, RAW as N32 (R307, R312). -/
def wordWrites (d : RegField) (ts : List Nat) (val : Nat → Word) : List RegWrite :=
  ts.flatMap (fun t => writeField d t (val t)) ++ resultTag ts d 1 2

theorem deferWords_eq (w : Who) (m : Mach) (g : Group) (ts : List Nat) (val : Nat → Word) (sts : List RegWrite) :
    deferWords w m g (ts.map (fun t => (t, val t))) sts =
      .ok (defer w m g 0 (wordWrites w.f.fd ts val ++ sts) (regItems w.f.fd 1)) := by
  simp only [deferWords, wordWrites, List.flatMap_map, List.map_map, Function.comp_def, List.map_id']

theorem holdsWide_wordWrites (g : Group) (d : RegField) {ts : List Nat} (hts : ∀ t ∈ ts, t < 32) (val : Nat → Word) :
    HoldsWide g (applyWrites g (wordWrites d ts val)) d 1 ts 2 (fun _ t => val t) := by
  have hregs := regsHold_flatMap g (fits_one d) hts (words := fun t => [val t]) fun _ => rfl
  simp only [writeWide_one] at hregs
  rw [wordWrites, applyWrites_append]
  refine (hregs.congr fun i hi t _ => ?_).tagged 2
  obtain rfl : i = 0 := by omega
  rfl

/-! ### The mailbox -/

theorem Core.posted_eq_none {c : Core} (h : ∀ e ∈ c.mbox, e.2.taken = true) : c.posted = none := by
  unfold Core.posted
  rw [List.filter_eq_nil_iff.2 fun e he => by simp [h e he]]

theorem Mach.posted_retire (m : Mach) (w : Who) (g : Group) : ((m.retire w g).core w.core).posted = (m.core w.core).posted := by
  unfold Core.posted
  rw [Mach.retire_mbox]

/-- MBOXRD takes entry i (R307). -/
def Core.takeRecord (i : Nat) (r : MboxRec) (c : Core) : Core := { c with mbox := c.mbox.set i { r with taken := true } }

theorem OneGroup.takeRecord (c : Core) (slot i : Nat) (r : MboxRec) : OneGroup c (c.takeRecord i r) slot := ⟨rfl, fun _ _ => rfl⟩

theorem runBody_mboxrd_empty {d : Device} {w : Who} {g : Group} {m : Mach} (hp : g.participants w.f.g ≠ [])
    (h : (m.core w.core).posted = none) : runBody bodyMboxrd d w g m =
      .ok (defer w (m.retire w g) (g.retired w) 0
        (wordWrites w.f.fd (g.participants w.f.g) (fun t => if t = 16 then 0xFFFFFFFF else 0) ++ []) (regItems w.f.fd 1)) := by
  rw [bodyMboxrd, runBody_groupWide hp, ← deferWords_eq]
  simp only [Mach.posted_retire, h]
  rfl

theorem runBody_mboxrd_record {d : Device} {w : Who} {g : Group} {m : Mach} {i : Nat} {r : MboxRec} (hp : g.participants w.f.g ≠ [])
    (h : (m.core w.core).posted = some (i, r)) : runBody bodyMboxrd d w g m =
      .ok (defer w ((m.retire w g).modCore w.core (·.takeRecord i r)) (g.retired w) 0
        (wordWrites w.f.fd (g.participants w.f.g) (fun t => if t = 16 then BitVec.ofNat 32 i else r.words.getD t 0) ++ [])
        (regItems w.f.fd 1)) := by
  rw [bodyMboxrd, runBody_groupWide hp, ← deferWords_eq]
  simp only [Mach.posted_retire, h]
  rfl

section
variable {s : State} {slot : Nat} {g : Group} {w : WordA} (hp : g.participants w.g ≠ [])
include hp

/-- MBOXRD with no POSTED record. -/
theorem mboxrd_empty (h : Issues s slot g (fieldsA 0xF0 w)) (hf : g.freeze = none) (hs : g.stopMark = false)
    (hall : ∀ e ∈ (s.mach.core s.curCore).mbox, e.2.taken = true) :
    ∃ t g' ws, exec (.mboxrd w) s = .next t ∧ Sends s t slot g g' [.result ws (regItems w.d 1) false] ∧
      g'.rest = ({ g with pc := g.pc + 4, sb := g.sb ||| regItems w.d 1 } : Group).rest ∧
      HoldsWide g (applyWrites g ws) w.d 1 (g.participants w.g) 2 (fun _ x => if x = 16 then 0xFFFFFFFF else 0) ∧
      (t.mach.core s.curCore).mbox = (s.mach.core s.curCore).mbox := by
  have hb := runBody_mboxrd_empty (d := s.dev) (w := s.who slot g (fieldsA 0xF0 w)) hp (Core.posted_eq_none hall)
  obtain ⟨t, g', hnext, hd⟩ := issue_defers h hb (group?_of_cores rfl)
  refine ⟨t, g', _, hnext, hd.sends (.refl ..), hd.rest, ?_, (hd.mbox hf hs).trans (Mach.retire_mbox ..)⟩
  rw [List.append_nil]
  exact holdsWide_wordWrites g w.d (fun _ => mem_participants_lt) _

/-- MBOXRD takes the POSTED record of the lowest sequence number. -/
theorem mboxrd_record {i : Nat} {r : MboxRec} (h : Issues s slot g (fieldsA 0xF0 w)) (hf : g.freeze = none) (hs : g.stopMark = false)
    (hr : (s.mach.core s.curCore).posted = some (i, r)) :
    ∃ t g' ws, exec (.mboxrd w) s = .next t ∧ Sends s t slot g g' [.result ws (regItems w.d 1) false] ∧
      g'.rest = ({ g with pc := g.pc + 4, sb := g.sb ||| regItems w.d 1 } : Group).rest ∧
      HoldsWide g (applyWrites g ws) w.d 1 (g.participants w.g) 2 (fun _ x => if x = 16 then BitVec.ofNat 32 i else r.words.getD x 0) ∧
      (t.mach.core s.curCore).mbox = (s.mach.core s.curCore).mbox.set i { r with taken := true } := by
  have hb := runBody_mboxrd_record (d := s.dev) (w := s.who slot g (fieldsA 0xF0 w)) hp hr
  obtain ⟨t, g', hnext, hd⟩ := issue_defers h hb ((Mach.group?_modCore rfl).trans (group?_of_cores rfl))
  refine ⟨t, g', _, hnext, hd.sends (.modCore (.takeRecord ..)), hd.rest, ?_, (hd.mbox hf hs).trans ?_⟩
  · rw [List.append_nil]
    exact holdsWide_wordWrites g w.d (fun _ => mem_participants_lt) _
  · rw [Mach.core_modCore_self]
    exact congrArg (fun b : SMap MboxRec => b.set i { r with taken := true }) (Mach.retire_mbox ..)

end

/-! ### MBOXWR -/

theorem Core.fillMailbox_of_nil {c : Core} (h : c.stopList = []) : c.fillMailbox = c := by
  unfold Core.fillMailbox
  rw [h]

/-- MBOXWR frees entry i, and the stop that has waited longest takes it (R121, R308). -/
def Core.freeRecord (i : Nat) (c : Core) : Core := Core.fillMailbox { c with mbox := c.mbox.erase i }

theorem OneGroup.freeRecord (c : Core) (slot i : Nat) : OneGroup c (c.freeRecord i) slot :=
  OneGroup.trans (b := { c with mbox := c.mbox.erase i }) ⟨rfl, fun _ _ => rfl⟩ (OneGroup.fillMailbox _ slot)

theorem Core.freeRecord_of_nil {c : Core} (h : c.stopList = []) (i : Nat) : c.freeRecord i = { c with mbox := c.mbox.erase i } :=
  Core.fillMailbox_of_nil (c := { c with mbox := c.mbox.erase i }) h

/-- What a group that is ready for its next word, and that nothing stops, does at a run boundary: nothing. -/
theorem Mach.atBoundary_unmarked {m : Mach} {core slot : Nat} {y : Group} (hg : m.group? core slot = some y) (hx : y.xlatFailed = none)
    (ho : y.owed = none) (hf : y.freeze = none) (hs : y.stopMark = false) : m.atBoundary core slot = m := by
  simp only [Mach.atBoundary, hg, hx, ho, hf, hs, Bool.false_eq_true, if_false, ite_self]

/-- A STOPPED group that resumes (R362, R375). -/
def Group.resumed (x : Group) : Group :=
  { x with state := .ready, cause := .none, runCount := 0, sb := x.sb &&& ~~~x.freezeBits, freezeBits := 0 }

theorem Group.recover_resume {x : Group} (hr : x.recovers = false) (hin : x.inReserve = false) (hpark : x.parking = false) :
    x.recover.resume = x.resumed := by
  have hrec : x.recover = x := if_neg (by rw [← Group.recovers, hr]; decide)
  have hstate : (if x.inReserve || x.parking then GState.parked else .ready) = .ready := by rw [hin, hpark]; rfl
  rw [hrec, Group.resume, hstate]
  rfl

@[simp] theorem Core.fillMailbox_groups (c : Core) : c.fillMailbox.groups = c.groups := by
  unfold Core.fillMailbox
  split
  · rfl
  · split <;> rfl

theorem OneGroup.freeMailbox (c : Core) (slot k : Nat) : OneGroup c (c.freeMailbox k) slot :=
  OneGroup.trans (b := { c with
      mbox := c.mbox.filter (fun e => !(e.2.slot == k)), stopList := c.stopList.filter (fun w => !(w.slot == k)) })
    ⟨rfl, fun _ _ => rfl⟩ (OneGroup.fillMailbox _ slot)

theorem Core.freeMailbox_mbox {c : Core} (h : c.stopList = []) (k : Nat) :
    (c.freeMailbox k).mbox = c.mbox.filter (fun e => !(e.2.slot == k)) := by
  rw [Core.freeMailbox, Core.fillMailbox_of_nil (by rw [h]; rfl)]

theorem Mach.group?_freeMailbox (m : Mach) (core k n : Nat) : (m.modCore core (·.freeMailbox k)).group? core n = m.group? core n :=
  Mach.group?_modCore (f := (·.freeMailbox k)) (Core.fillMailbox_groups _)

theorem Mach.group?_freeRecord (m : Mach) (core i n : Nat) : (m.modCore core (·.freeRecord i)).group? core n = m.group? core n :=
  Mach.group?_modCore (f := (·.freeRecord i)) (Core.fillMailbox_groups _)

theorem Mach.resumeGroup_unmarked {m : Mach} {core k : Nat} {x : Group} (hr : x.recovers = false) (hin : x.inReserve = false)
    (hpark : x.parking = false) (hx : x.xlatFailed = none) (ho : x.owed = none) (hf : x.freeze = none) (hs : x.stopMark = false) :
    m.resumeGroup core k x = (m.setGroup core k x.resumed).modCore core (·.freeMailbox k) := by
  rw [Mach.resumeGroup, Group.recover_resume hr hin hpark]
  refine Mach.atBoundary_unmarked (y := x.resumed) ?_ hx ho hf hs
  exact (Mach.group?_freeMailbox ..).trans (Mach.group?_setGroup_self ..)

/-- MBOXWR of an entry that is not TAKEN, or with a mode that R308 does not have. -/
theorem runBody_mboxwr_mismatch {d : Device} {w : Who} {g : Group} {m : Mach} (hp : g.participants w.f.g ≠ [])
    (h : ∀ r, (m.core w.core).mbox.get? (g.reg w.f.fa ((g.participants w.f.g).head?.getD 0)).toNat = some r →
      r.taken = false ∨ 1 < (g.reg w.f.fb ((g.participants w.f.g).head?.getD 0)).toNat) :
    runBody bodyMboxwr d w g m = answerD w (m.retire w g) (g.retired w) .mismatch := by
  rw [bodyMboxwr, runBody_groupWide hp]
  dsimp only
  rw [Mach.retire_mbox]
  split
  · rfl
  · next r hr =>
    refine if_pos ?_
    simp only [Bool.or_eq_true, Bool.not_eq_true', decide_eq_true_eq]
    exact h r hr

/-- MBOXWR of a TAKEN entry with mode 0. -/
theorem runBody_mboxwr_free {d : Device} {w : Who} {g : Group} {m : Mach} {r : MboxRec} (hp : g.participants w.f.g ≠ [])
    (hr : (m.core w.core).mbox.get? (g.reg w.f.fa ((g.participants w.f.g).head?.getD 0)).toNat = some r) (htaken : r.taken = true)
    (hmode : g.reg w.f.fb ((g.participants w.f.g).head?.getD 0) = 0) : runBody bodyMboxwr d w g m =
      answerD w ((m.retire w g).modCore w.core (·.freeRecord (g.reg w.f.fa ((g.participants w.f.g).head?.getD 0)).toNat))
        (g.retired w) .ok := by
  have hmode' : opB (g.retired w) w.f (((g.retired w).participants w.f.g).head?.getD 0) = 0 := hmode
  have hr' : (m.core w.core).mbox.get? (opA (g.retired w) w.f (((g.retired w).participants w.f.g).head?.getD 0)).toNat = some r := hr
  rw [bodyMboxwr, runBody_groupWide hp]
  simp only [Mach.retire_mbox, hr', htaken, hmode']
  rfl

/-- MBOXWR of a TAKEN entry of a STOPPED group with mode 1. -/
theorem runBody_mboxwr_resume {d : Device} {w : Who} {g x : Group} {m : Mach} {r : MboxRec} (hp : g.participants w.f.g ≠ [])
    (hr : (m.core w.core).mbox.get? (g.reg w.f.fa ((g.participants w.f.g).head?.getD 0)).toNat = some r) (htaken : r.taken = true)
    (hmode : g.reg w.f.fb ((g.participants w.f.g).head?.getD 0) = 1) (hx : (m.retire w g).group? w.core r.slot = some x)
    (hstopped : x.state = .stopped) : runBody bodyMboxwr d w g m =
      answerD w (((m.retire w g).modCore w.core (·.freeRecord (g.reg w.f.fa ((g.participants w.f.g).head?.getD 0)).toNat)).resumeGroup
        w.core r.slot x) (g.retired w) .ok := by
  have hmode' : opB (g.retired w) w.f (((g.retired w).participants w.f.g).head?.getD 0) = 1 := hmode
  have hr' : (m.core w.core).mbox.get? (opA (g.retired w) w.f (((g.retired w).participants w.f.g).head?.getD 0)).toNat = some r := hr
  have hx' : ((m.retire w g).modCore w.core
      (·.freeRecord (opA (g.retired w) w.f (((g.retired w).participants w.f.g).head?.getD 0)).toNat)).group? w.core r.slot = some x :=
    (Mach.group?_freeRecord ..).trans hx
  rw [bodyMboxwr, runBody_groupWide hp]
  simp only [Mach.retire_mbox, hr', htaken, hmode']
  unfold Core.freeRecord at hx'
  simp [hx', hstopped]
  rfl

section
variable {s : State} {slot : Nat} {g : Group} {w : WordA} (hp : g.participants w.g ≠ []) (h : Issues s slot g (fieldsA 0xF1 w))
include hp h

theorem mboxwr_mismatch
    (hbad : ∀ r, (s.mach.core s.curCore).mbox.get? (g.reg w.a ((g.participants w.g).head?.getD 0)).toNat = some r →
      r.taken = false ∨ 1 < (g.reg w.b ((g.participants w.g).head?.getD 0)).toNat) :
    ∃ t g', exec (.mboxwr w) s = .next t ∧ AnswersLater s t slot g g' w.d .mismatch := by
  have hb := runBody_mboxwr_mismatch (d := s.dev) (w := s.who slot g (fieldsA 0xF1 w)) hp hbad
  obtain ⟨t, g', hnext, hanswer, -⟩ := answersLater_of_answerD h hb rfl rfl (.refl _)
  exact ⟨t, g', hnext, hanswer⟩

/-- MBOXWR with mode 0 frees its entry. -/
theorem mboxwr_frees {r : MboxRec}
    (hr : (s.mach.core s.curCore).mbox.get? (g.reg w.a ((g.participants w.g).head?.getD 0)).toNat = some r) (htaken : r.taken = true)
    (hstops : (s.mach.core s.curCore).stopList = []) (hf : g.freeze = none) (hs : g.stopMark = false)
    (hmode : g.reg w.b ((g.participants w.g).head?.getD 0) = 0) :
    ∃ t g', exec (.mboxwr w) s = .next t ∧ AnswersLater s t slot g g' w.d .ok ∧ (t.mach.core s.curCore).mbox =
      (s.mach.core s.curCore).mbox.erase (g.reg w.a ((g.participants w.g).head?.getD 0)).toNat := by
  have hb := runBody_mboxwr_free (d := s.dev) (w := s.who slot g (fieldsA 0xF1 w)) hp hr htaken hmode
  obtain ⟨t, g', hnext, hd⟩ := issue_defers h hb ((Mach.group?_freeRecord ..).trans (group?_of_cores rfl))
  refine ⟨t, g', hnext, ⟨hd.sends (.modCore (.freeRecord ..)), hd.rest⟩, (hd.mbox hf hs).trans ?_⟩
  rw [Mach.core_modCore_self, Core.freeRecord_of_nil ((Mach.retire_stopList ..).trans hstops)]
  exact congrArg (fun b : SMap MboxRec => b.erase _) (Mach.retire_mbox ..)

/-- MBOXWR with mode 1 resumes the STOPPED group of its entry (log 42). -/
theorem mboxwr_resumes {r : MboxRec} {x : Group}
    (hr : (s.mach.core s.curCore).mbox.get? (g.reg w.a ((g.participants w.g).head?.getD 0)).toNat = some r) (htaken : r.taken = true)
    (hstops : (s.mach.core s.curCore).stopList = []) (hf : g.freeze = none) (hs : g.stopMark = false)
    (hmode : g.reg w.b ((g.participants w.g).head?.getD 0) = 1) (hx : s.mach.group? s.curCore r.slot = some x) (hne : r.slot ≠ slot)
    (hstopped : x.state = .stopped) (hxf : x.freeze = none) (hxs : x.stopMark = false) (hin : x.inReserve = false)
    (hpark : x.parking = false) (hrec : x.recovers = false) (hxlat : x.xlatFailed = none) (howed : x.owed = none) :
    ∃ t, exec (.mboxwr w) s = .next t ∧ t.mach.group? s.curCore r.slot = some x.resumed ∧
      (∀ e ∈ (t.mach.core s.curCore).mbox, e.2.slot ≠ r.slot) ∧
      t.mach.msgs.map (·.body) = s.mach.msgs.map (·.body) ++ [answer w.d .ok] := by
  have hx1 : (s.issued slot g (fieldsA 0xF1 w) 4).group? s.curCore r.slot = some x :=
    (Mach.group?_retire_ne fun hc => hne hc.2).trans hx
  have hb := runBody_mboxwr_resume (d := s.dev) (w := s.who slot g (fieldsA 0xF1 w)) hp hr htaken hmode hx1 hstopped
  rw [Mach.resumeGroup_unmarked hrec hin hpark hxlat howed hxf hxs] at hb
  set m1 := (s.issued slot g (fieldsA 0xF1 w) 4).modCore s.curCore
    (·.freeRecord (g.reg w.a ((g.participants w.g).head?.getD 0)).toNat) with hm1
  obtain ⟨t, g', hnext, hd⟩ := issue_defers (m1 := (m1.setGroup s.curCore r.slot x.resumed).modCore s.curCore (·.freeMailbox r.slot)) h hb (by
    rw [Mach.group?_freeMailbox, Mach.group?_setGroup_ne _ _ _ hne.symm, hm1, Mach.group?_freeRecord]
    exact group?_of_cores rfl)
  refine ⟨t, hnext, ?_, ?_, hd.bodies⟩
  · rw [hd.group?_ne fun hc => hne hc.2, Mach.group?_freeMailbox, Mach.group?_setGroup_self]
  · have hempty : (m1.core s.curCore).stopList = [] := by
      have hissued : ((s.issued slot g (fieldsA 0xF1 w) 4).core s.curCore).stopList = [] :=
        (Mach.retire_stopList s.mach (s.who slot g (fieldsA 0xF1 w)) g).trans hstops
      rw [hm1, Mach.core_modCore_self, Core.freeRecord_of_nil hissued]
      exact hissued
    rw [hd.mbox hf hs, Mach.core_modCore_self, Core.freeMailbox_mbox (by rw [Mach.core_setGroup_self]; exact hempty)]
    intro e he
    simpa using List.of_mem_filter he

end

/-! ### XLINV -/

/-- With no step of the device's own and no launch queue, nothing waits for a page that migrates. -/
theorem Mach.serveOwn_idle {m : Mach} (hj : m.jobs = []) (hq : m.queues = []) : m.serveOwn = m := by
  have hserve : m.serveJobs = m := by
    have hsame : ({ m with jobs := [] } : Mach) = m := by rw [← hj]
    simpa [Mach.serveJobs, hj] using hsame
  rw [Mach.serveOwn, hserve, Mach.resumeQueues, hq]
  rfl

/-- The layout records of a context leave every cluster's cache (R141). -/
def Mach.dropLayouts (m : Mach) (ctx : Nat) : Mach :=
  { m with clusters := m.clusters.mapVals (fun _ k => { k with layouts := k.layouts.filter (fun e => e.ctx != ctx) }) }

theorem SameMemory.dropLayouts (m : Mach) (ctx : Nat) : SameMemory m (m.dropLayouts ctx) where
  dram _ := rfl
  host _ := rfl
  fabric _ := rfl
  peers _ _ := rfl
  tags := rfl
  ecc := rfl
  spad c a := by
    unfold Mach.cluster Mach.dropLayouts
    simp only [SMap.getD, SMap.get?_mapVals]
    cases m.clusters.get? c <;> rfl
  frames _ _ := rfl

/-- The cached translations of a range of a context's pages are dropped (R311). -/
def Mach.dropWalked (m : Mach) (ctx : Nat) (start : Va) (pages : Nat) : Mach :=
  { m with walker := m.walker.filter (fun e => !(e.ctx == ctx && inRange start pages e.page)) }

theorem SameMemory.dropWalked (m : Mach) (ctx : Nat) (start : Va) (pages : Nat) : SameMemory m (m.dropWalked ctx start pages) :=
  .of_fields rfl rfl rfl rfl rfl rfl rfl rfl

/-- XLINV while nothing waits drops the translations of its range, and the layouts of the context where the range meets them. -/
theorem Mach.xlinv_idle {m : Mach} (hj : m.jobs = []) (hq : m.queues = []) (ctx : Nat) (start : Va) (pages : Nat) :
    m.xlinv ctx start pages = (m.dropWalked ctx start pages).dropLayouts ctx ∨
    m.xlinv ctx start pages = m.dropWalked ctx start pages := by
  rw [← Mach.serveOwn_idle (m := (m.dropWalked ctx start pages).dropLayouts ctx) hj hq]
  rw [← Mach.serveOwn_idle (m := m.dropWalked ctx start pages) hj hq, Mach.serveOwn_idle (m := m.dropWalked ctx start pages) hj hq]
  unfold Mach.xlinv
  dsimp only
  split_ifs
  · exact .inl rfl
  · exact .inr (Mach.serveOwn_idle (m := m.dropWalked ctx start pages) hj hq)

/-- XLINV while nothing waits changes no core, no message and no byte. -/
theorem Mach.xlinv_frame {m : Mach} (hj : m.jobs = []) (hq : m.queues = []) (ctx : Nat) (start : Va) (pages : Nat) :
    (m.xlinv ctx start pages).cores = m.cores ∧ (m.xlinv ctx start pages).msgs = m.msgs ∧ SameMemory m (m.xlinv ctx start pages) ∧
    (m.xlinv ctx start pages).walker = m.walker.filter (fun e => !(e.ctx == ctx && inRange start pages e.page)) := by
  obtain heq | heq := Mach.xlinv_idle hj hq ctx start pages
  · rw [heq]
    exact ⟨rfl, rfl, (SameMemory.dropWalked ..).trans (.dropLayouts ..), rfl⟩
  · rw [heq]
    exact ⟨rfl, rfl, .dropWalked .., rfl⟩

theorem xlinv_drops {s : State} {slot : Nat} {g : Group} {w : WordA} (hp : g.participants w.g ≠ [])
    (h : Issues s slot g (fieldsA 0xF7 w)) (hj : s.mach.jobs = []) (hq : s.mach.queues = []) :
    let k := blockWord g (fieldsA 0xF7 w)
    ∃ t g', exec (.xlinv w) s = .next t ∧ AnswersLater s t slot g g' w.d .ok ∧ t.mach.walker =
      s.mach.walker.filter (fun e => !(e.ctx == (k 0).toNat % 65536 && inRange (vaOfWords (k 1) (k 2)) (k 3).toNat e.page)) := by
  intro k
  obtain ⟨hcores, hmsgs, hmem, hwalker⟩ := Mach.xlinv_frame (m := s.issued slot g (fieldsA 0xF7 w) 4) hj hq ((k 0).toNat % 65536)
    (vaOfWords (k 1) (k 2)) (k 3).toNat
  have hb : runBody bodyXlinv s.dev (s.who slot g (fieldsA 0xF7 w)) g s.mach =
      answerD (s.who slot g (fieldsA 0xF7 w)) ((s.issued slot g (fieldsA 0xF7 w) 4).xlinv ((k 0).toNat % 65536)
        (vaOfWords (k 1) (k 2)) (k 3).toNat) (g.retired (s.who slot g (fieldsA 0xF7 w))) .ok := by
    rw [bodyXlinv, runBody_groupWide hp]
    rfl
  obtain ⟨t, g', hnext, hd⟩ := issue_defers h hb (group?_of_cores hcores)
  refine ⟨t, g', hnext, ⟨hd.sends (.of_cores _ _ hcores hmsgs hmem), hd.rest⟩, ?_⟩
  rw [hd.mach]
  exact hwalker

/-! ### FQPOP -/

theorem Ctx.post_keeps (c : Ctx) (n : FqEntry) : (c.post n).fqhead = c.fqhead ∧ (c.post n).popped = c.popped := by
  unfold Ctx.post
  split
  · exact ⟨rfl, rfl⟩
  · split_ifs <;> exact ⟨rfl, rfl⟩

/-- Unposted faults that post move neither HEAD nor what is popped (R123). -/
theorem Ctx.postWaiting_keeps (c : Ctx) : c.postWaiting.fqhead = c.fqhead ∧ c.postWaiting.popped = c.popped :=
  foldl_keeps (fun x : Ctx => x.fqhead = c.fqhead ∧ x.popped = c.popped) (fun x n => x.post n)
    (fun x n hx => ⟨(x.post_keeps n).1.trans hx.1, (x.post_keeps n).2.trans hx.2⟩) c.unposted { c with unposted := [] } ⟨rfl, rfl⟩

theorem Ctx.postWaiting_fq {c : Ctx} (h : c.unposted = []) : c.postWaiting.fq = c.fq := by
  rw [Ctx.postWaiting, h]
  rfl

/-- A context whose oldest entry has left its fault queue. -/
def Ctx.afterPop (c : Ctx) (e : FqEntry) (es : List FqEntry) : Ctx := Ctx.postWaiting { c with
  fq := es, fqhead := c.fqhead + 1, popped := if e.kind = 1 then c.popped ++ [e] else c.popped }

theorem Ctx.afterPop_fqhead (c : Ctx) (e : FqEntry) (es : List FqEntry) : (c.afterPop e es).fqhead = c.fqhead + 1 :=
  (Ctx.postWaiting_keeps _).1

theorem Ctx.afterPop_fq {c : Ctx} (h : c.unposted = []) (e : FqEntry) (es : List FqEntry) : (c.afterPop e es).fq = es :=
  Ctx.postWaiting_fq h

theorem Ctx.afterPop_popped {e : FqEntry} (he : e.kind = 1) (c : Ctx) (es : List FqEntry) :
    (c.afterPop e es).popped = c.popped ++ [e] :=
  (Ctx.postWaiting_keeps _).2.trans (if_pos he)

section
variable {m : Mach} {a : Word} {x : Ctx} (hx : m.ctxs.get? a.toNat = some x) (hlive : x.state ≠ .free) (hcons : x.fqcons = false)
include hx hlive hcons

theorem Mach.fqpop_empty (hq : x.fq = []) : m.fqpop a =
    ({ m with draws := m.draws + 8 }, (List.range 8).map (fun i => Config.freeWord (m.draws + i)), .empty) := by
  simp [Mach.fqpop, hx, hlive, hcons, Ctx.popFq, hq, Mach.drawMany]

theorem Mach.fqpop_entry {e : FqEntry} {es : List FqEntry} (hq : x.fq = e :: es) :
    m.fqpop a = ({ m with ctxs := m.ctxs.set a.toNat (x.afterPop e es) }, e.words, .ok) := by
  simp [Mach.fqpop, hx, hlive, hcons, Ctx.popFq, hq, Ctx.afterPop]

end

theorem runBody_fqpop {d : Device} {w : Who} {g : Group} {m m1 : Mach} {ws : List Word} {st : Status}
    (hp : g.participants w.f.g ≠ [])
    (h : (m.retire w g).fqpop (g.reg w.f.fa ((g.participants w.f.g).head?.getD 0)) = (m1, ws, st)) : runBody bodyFqpop d w g m =
      .ok (defer w m1 (g.retired w) 0 (wordWrites w.f.fd ((g.participants w.f.g).filter (· < 9))
        (fun t => if t = 8 then st.word else ws.getD t 0) ++ [.lsts st]) (regItems w.f.fd 1)) := by
  have h' : (m.retire w g).fqpop (opA (g.retired w) w.f (((g.retired w).participants w.f.g).head?.getD 0)) = (m1, ws, st) := h
  rw [bodyFqpop, runBody_groupWide hp, ← deferWords_eq]
  simp only [h']
  rfl

/-- FQPOP whose machine is known: its words and its status are on their way. -/
theorem fqpop_sends {s : State} {slot : Nat} {g : Group} {w : WordA} {m1 : Mach} {ws : List Word} {st : Status}
    (hp : g.participants w.g ≠ []) (h : Issues s slot g (fieldsA 0xF8 w))
    (hpop : (s.issued slot g (fieldsA 0xF8 w) 4).fqpop (g.reg w.a ((g.participants w.g).head?.getD 0)) = (m1, ws, st))
    (hcores : m1.cores = (s.issued slot g (fieldsA 0xF8 w) 4).cores) (hmsgs : m1.msgs = s.mach.msgs)
    (hmem : SameMemory (s.issued slot g (fieldsA 0xF8 w) 4) m1) :
    ∃ t g' ws', exec (.fqpop w) s = .next t ∧ Sends s t slot g g' [.result ws' (regItems w.d 1) false] ∧
      g'.rest = ({ g with pc := g.pc + 4, sb := g.sb ||| regItems w.d 1 } : Group).rest ∧
      HoldsWide g (applyWrites g ws') w.d 1 ((g.participants w.g).filter (· < 9)) 2 (fun _ y => if y = 8 then st.word else ws.getD y 0) ∧
      (applyWrites g ws').lsts = st ∧ ∀ n, t.mach.ctx n = m1.ctx n := by
  have hb := runBody_fqpop (d := s.dev) (w := s.who slot g (fieldsA 0xF8 w)) hp hpop
  obtain ⟨t, g', hnext, hd⟩ := issue_defers h hb (group?_of_cores hcores)
  refine ⟨t, g', _, hnext, hd.sends (.of_cores _ _ hcores hmsgs hmem), hd.rest, ?_, ?_, hd.ctx⟩
  · rw [applyWrites_append]
    exact (holdsWide_wordWrites g w.d (fun t ht => mem_participants_lt (List.mem_of_mem_filter ht)) _).lsts st
  · rw [applyWrites_append]
    rfl

section
variable {s : State} {slot : Nat} {g : Group} {w : WordA} {x : Ctx} (hp : g.participants w.g ≠ [])
  (h : Issues s slot g (fieldsA 0xF8 w)) (hx : s.mach.ctxs.get? (g.reg w.a ((g.participants w.g).head?.getD 0)).toNat = some x)
  (hlive : x.state ≠ .free) (hcons : x.fqcons = false)
include hp h hx hlive hcons

/-- FQPOP of a queue without an entry: the spec gives its words no value. -/
theorem fqpop_reads_empty (hq : x.fq = []) : ∃ f : Nat → Word, ∃ t g' ws, exec (.fqpop w) s = .next t ∧
    Sends s t slot g g' [.result ws (regItems w.d 1) false] ∧
    g'.rest = ({ g with pc := g.pc + 4, sb := g.sb ||| regItems w.d 1 } : Group).rest ∧
    HoldsWide g (applyWrites g ws) w.d 1 ((g.participants w.g).filter (· < 9)) 2 (fun _ y => if y = 8 then Status.empty.word else f y) ∧
    (applyWrites g ws).lsts = .empty := by
  obtain ⟨t, g', ws, hnext, hsends, hrest, hholds, hlsts, -⟩ := fqpop_sends hp h
    (Mach.fqpop_empty (m := s.issued slot g (fieldsA 0xF8 w) 4) hx hlive hcons hq) rfl rfl (.of_fields rfl rfl rfl rfl rfl rfl rfl rfl)
  exact ⟨_, t, g', ws, hnext, hsends, hrest, hholds, hlsts⟩

/-- FQPOP takes the oldest entry. -/
theorem fqpop_reads_entry {e : FqEntry} {es : List FqEntry} (hq : x.fq = e :: es) : ∃ t g' ws, exec (.fqpop w) s = .next t ∧
    Sends s t slot g g' [.result ws (regItems w.d 1) false] ∧
    g'.rest = ({ g with pc := g.pc + 4, sb := g.sb ||| regItems w.d 1 } : Group).rest ∧
    HoldsWide g (applyWrites g ws) w.d 1 ((g.participants w.g).filter (· < 9)) 2 (fun _ y => if y = 8 then 0 else e.words.getD y 0) ∧
    (applyWrites g ws).lsts = .ok ∧
    t.mach.ctx (g.reg w.a ((g.participants w.g).head?.getD 0)).toNat = x.afterPop e es := by
  obtain ⟨t, g', ws, hnext, hsends, hrest, hholds, hlsts, hctx⟩ := fqpop_sends hp h
    (Mach.fqpop_entry (m := s.issued slot g (fieldsA 0xF8 w) 4) hx hlive hcons hq) rfl rfl (.of_fields rfl rfl rfl rfl rfl rfl rfl rfl)
  exact ⟨t, g', ws, hnext, hsends, hrest, hholds, hlsts, (hctx _).trans (SMap.getD_set_self ..)⟩

end

/-! ### FQREPLAY -/

theorem Group.replay_of_wait {g : Group} (h : g.wait = none) (ks : List Nat) (fail : Bool) : g.replay ks fail = g := by
  simp only [Group.replay, h]

theorem Group.replay_waiting {y : Group} {j : Nat} {va : Va} {b i : Bool} {ks : List Nat} (hw : y.wait = some (.xlat j va b i))
    (hj : j ∈ ks) : y.replay ks false = { y with wait := none } := by
  simp [Group.replay, hw, hj]

/-- The accesses of a core that wait on these tokens are replayed (R123, R312). -/
def Core.replay (ks : List Nat) (c : Core) : Core := { c with
  groups := c.groups.mapVals (fun _ g => g.replay ks false)
  saved := c.saved.mapVals (fun _ g => g.replay ks false)
  chans := c.chans.mapVals (fun _ ch => { ch with entries := ch.entries.map (fun x => CopyEntry.replay x ks false) })
  engine := c.engine.map (fun o => EngineOp.replay o ks false) }

/-- An open in flight that waits on one of these tokens (R64). -/
def Msg.waitsFor (ks : List Nat) (x : Msg) : Bool := match x.body with
  | .openWait o => o.token.any ks.contains
  | _ => false

/-- An open in flight that waits on these tokens is replayed (R64, R312). -/
def Msg.replay (ks : List Nat) (x : Msg) : Msg := match x.body with
  | .openWait o => if x.waitsFor ks then { x with body := .openWait { o with token := none } } else x
  | _ => x

theorem any_contains_eq_false {o : Option Nat} {ks : List Nat} (h : ∀ j, o = some j → j ∉ ks) : o.any ks.contains = false := by
  cases o with
  | none => rfl
  | some j => simpa using h j rfl

theorem Mach.queueReplay_idle {m : Mach} {ks : List Nat} (h : ∀ q ∈ m.queues, ∀ j, q.2.token = some j → j ∉ ks) :
    m.queueReplay ks false = m := by
  unfold Mach.queueReplay
  rw [List.filter_eq_nil_iff.2 fun q hq => by simp [any_contains_eq_false (h q hq)]]
  rfl

theorem Mach.replayJobs_idle {m : Mach} {ks : List Nat} (h : ∀ q ∈ m.jobs, ∀ j, q.token = some j → j ∉ ks) :
    m.replayJobs ks false = m := by
  have hkeep : m.jobs.filter (fun j => !(j.token.any ks.contains)) = m.jobs :=
    List.filter_eq_self.2 fun q hq => by simp only [any_contains_eq_false (h q hq), Bool.not_false]
  have hhit : m.jobs.filter (fun j => j.token.any ks.contains) = [] :=
    List.filter_eq_nil_iff.2 fun q hq => by simp only [any_contains_eq_false (h q hq), Bool.false_eq_true, not_false_eq_true]
  unfold Mach.replayJobs
  dsimp only
  rw [hhit, hkeep]
  rfl

/-- A replay on which neither a launch queue nor a step of the device's own waits. -/
theorem Mach.fqreplay_eq {m : Mach} {e : FqEntry} (hq : ∀ q ∈ m.queues, ∀ j, q.2.token = some j → j ∉ e.tokens)
    (hj : ∀ q ∈ m.jobs, ∀ j, q.token = some j → j ∉ e.tokens) : m.fqreplay e false =
      { m with cores := m.cores.mapVals (fun _ c => c.replay e.tokens), msgs := m.msgs.map (Msg.replay e.tokens) } := by
  set m1 : Mach := { m with cores := m.cores.mapVals (fun _ c => c.replay e.tokens), msgs := m.msgs.map (Msg.replay e.tokens) }
  have heq : m.fqreplay e false = (m1.queueReplay e.tokens false).replayJobs e.tokens false := by
    unfold Mach.fqreplay
    simp only [Bool.not_false, Bool.false_eq_true, if_false, if_true]
    rfl
  rw [heq, Mach.queueReplay_idle (m := m1) hq, Mach.replayJobs_idle (m := m1) hj]

theorem Mach.group?_fqreplay {m : Mach} {e : FqEntry} (hq : ∀ q ∈ m.queues, ∀ j, q.2.token = some j → j ∉ e.tokens)
    (hj : ∀ q ∈ m.jobs, ∀ j, q.token = some j → j ∉ e.tokens) (o n : Nat) :
    (m.fqreplay e false).group? o n = (m.group? o n).map (fun y => y.replay e.tokens false) := by
  rw [Mach.fqreplay_eq hq hj]
  unfold Mach.group? Mach.core
  simp only [SMap.getD, SMap.get?_mapVals]
  cases m.cores.get? o with
  | none =>
    simp only [Option.map_none, Option.getD_none, Core.reset, SMap.get?_cons]
    split_ifs <;> rfl
  | some c => exact SMap.get?_mapVals (fun _ g => g.replay e.tokens false) c.groups n

/-- The entry leaves the popped ones of its context. -/
def Mach.unpop (m : Mach) (n : Nat) (e : FqEntry) : Mach := m.modCtx n (fun c => { c with popped := c.popped.erase e })

theorem Mach.ctx_of_get? {m : Mach} {n : Nat} {x : Ctx} (h : m.ctxs.get? n = some x) : m.ctx n = x := by
  simp [Mach.ctx, SMap.getD, h]

theorem runBody_fqreplay_mismatch {d : Device} {w : Who} {g : Group} {m : Mach} (hp : g.participants w.f.g ≠ [])
    (h : ∀ x, m.ctxs.get? ((g.reg w.f.fb ((g.participants w.f.g).head?.getD 0)).toNat % 65536) = some x →
      ∀ e ∈ x.popped, e.seq ≠ g.reg w.f.fa ((g.participants w.f.g).head?.getD 0)) :
    runBody bodyFqreplay d w g m = answerD w (m.retire w g) (g.retired w) .mismatch := by
  rw [bodyFqreplay, runBody_groupWide hp]
  dsimp only
  split
  · rfl
  · next x hx =>
    have hnone : x.popped.find? (fun e => e.seq == opA (g.retired w) w.f (((g.retired w).participants w.f.g).head?.getD 0)) = none :=
      List.find?_eq_none.2 fun e he hseq => h x hx e he (eq_of_beq hseq)
    rw [hnone]

theorem runBody_fqreplay_replays {d : Device} {w : Who} {g : Group} {m : Mach} {x : Ctx} {e : FqEntry} {n : Nat}
    (hp : g.participants w.f.g ≠ []) (hn : (g.reg w.f.fb ((g.participants w.f.g).head?.getD 0)).toNat = n) (hlt : n < 65536)
    (hx : m.ctxs.get? n = some x)
    (he : x.popped.find? (fun e => e.seq == g.reg w.f.fa ((g.participants w.f.g).head?.getD 0)) = some e) :
    runBody bodyFqreplay d w g m = answerD w (((m.retire w g).unpop n e).fqreplay e false) (g.retired w) .ok := by
  have hn' : (opB (g.retired w) w.f (((g.retired w).participants w.f.g).head?.getD 0)).toNat = n := hn
  have hx' : (m.retire w g).ctxs.get? n = some x := hx
  have he' : x.popped.find? (fun e => e.seq == opA (g.retired w) w.f (((g.retired w).participants w.f.g).head?.getD 0)) = some e := he
  have hhigh : bitsOf n 16 15 = 0 := by
    rw [bitsOf, Nat.shiftRight_eq_div_pow]
    omega
  have hfail : n.testBit 31 = false := Nat.testBit_lt_two_pow (by omega)
  rw [bodyFqreplay, runBody_groupWide hp]
  simp only [hn', Nat.mod_eq_of_lt hlt, hx', he', hhigh, hfail]
  rfl

section
variable {s : State} {slot : Nat} {g : Group} {w : WordA} (hp : g.participants w.g ≠ []) (h : Issues s slot g (fieldsA 0xF9 w))
include hp h

theorem fqreplay_mismatch
    (hbad : ∀ x, s.mach.ctxs.get? ((g.reg w.b ((g.participants w.g).head?.getD 0)).toNat % 65536) = some x →
      ∀ e ∈ x.popped, e.seq ≠ g.reg w.a ((g.participants w.g).head?.getD 0)) :
    ∃ t g', exec (.fqreplay w) s = .next t ∧ AnswersLater s t slot g g' w.d .mismatch := by
  have hb := runBody_fqreplay_mismatch (d := s.dev) (w := s.who slot g (fieldsA 0xF9 w)) hp hbad
  obtain ⟨t, g', hnext, hanswer, -⟩ := answersLater_of_answerD h hb rfl rfl (.refl _)
  exact ⟨t, g', hnext, hanswer⟩

/-- FQREPLAY of a popped entry on which groups alone wait: they go on. -/
theorem fqreplay_replays {x : Ctx} {e : FqEntry} {n : Nat} (hn : (g.reg w.b ((g.participants w.g).head?.getD 0)).toNat = n)
    (hlt : n < 65536) (hx : s.mach.ctxs.get? n = some x)
    (he : x.popped.find? (fun e => e.seq == g.reg w.a ((g.participants w.g).head?.getD 0)) = some e)
    (hq : ∀ q ∈ s.mach.queues, ∀ j, q.2.token = some j → j ∉ e.tokens) (hj : ∀ q ∈ s.mach.jobs, ∀ j, q.token = some j → j ∉ e.tokens) :
    ∃ t, exec (.fqreplay w) s = .next t ∧ (t.mach.ctx n).popped = x.popped.erase e ∧
      t.mach.msgs.getLast?.map (·.body) = some (answer w.d .ok) ∧
      ∀ o n' y j va b i, s.mach.group? o n' = some y → ¬(o = s.curCore ∧ n' = slot) → y.wait = some (.xlat j va b i) → j ∈ e.tokens →
        t.mach.group? o n' = some { y with wait := none } := by
  set m1 := (s.issued slot g (fieldsA 0xF9 w) 4).unpop n e with hm1
  have hb : runBody bodyFqreplay s.dev (s.who slot g (fieldsA 0xF9 w)) g s.mach =
      answerD (s.who slot g (fieldsA 0xF9 w)) (m1.fqreplay e false) (g.retired (s.who slot g (fieldsA 0xF9 w))) .ok :=
    runBody_fqreplay_replays hp hn hlt hx he
  have hgroup : ∀ o k, (m1.fqreplay e false).group? o k =
      ((s.issued slot g (fieldsA 0xF9 w) 4).group? o k).map (fun y => y.replay e.tokens false) :=
    Mach.group?_fqreplay (m := m1) hq hj
  have hself : (m1.fqreplay e false).group? s.curCore slot = some (g.retired (s.who slot g (fieldsA 0xF9 w))) := by
    rw [hgroup, group?_of_cores rfl, Option.map_some, Group.replay_of_wait rfl]
  obtain ⟨t, g', hnext, hd⟩ := issue_defers (m1 := m1.fqreplay e false) h hb hself
  refine ⟨t, hnext, ?_, ?_, fun o n' y j va b i hy hne hwait hmem => ?_⟩
  · have hctx : (m1.fqreplay e false).ctx n = m1.ctx n := by rw [Mach.fqreplay_eq (m := m1) hq hj]; rfl
    rw [hd.ctx, hctx, hm1, Mach.unpop, Mach.ctx_modCtx_self]
    exact congrArg (fun c : Ctx => c.popped.erase e) (Mach.ctx_of_get? (m := s.issued slot g (fieldsA 0xF9 w) 4) hx)
  · obtain ⟨y, hmsgs, hbody, -⟩ := hd.msgs
    rw [hmsgs, List.getLast?_concat, Option.map_some, hbody]
    rfl
  · have hissued : (s.issued slot g (fieldsA 0xF9 w) 4).group? o n' = some y := (Mach.group?_retire_ne hne).trans hy
    rw [hd.group?_ne hne, hgroup, hissued, Option.map_some, Group.replay_waiting hwait hmem]

end

end Sys2Proof.Machine
end

section
/-! PROOF. Counters and BRK (R49, R159, R313, R316). -/

namespace Sys2Proof.Machine

/-! ### Pairs of registers (R53) -/

theorem kindsOk_of_illFormed {f : Fields} (h : illFormed f = none) : kindsOk f (usesOf f.op) = true := by
  unfold illFormed at h
  simp only [ite_eq_iff, reduceCtorEq, and_false, false_or, Bool.not_eq_true', Bool.not_eq_false, and_true, Bool.and_eq_true] at h
  obtain ⟨-, -, ⟨-, hkinds⟩, -⟩ := h
  exact hkinds

/-- The pair that D names consists of registers of one kind. -/
theorem fits_pair {s : State} {slot : Nat} {g : Group} {f : Fields} {kd : Kind} (h : Issues s slot g f) (hd : .dst .D 2 kd ∈ usesOf f.op) :
    Fits f.fd 2 := by
  obtain ⟨-, hword, -⟩ := h
  have hwidth : wideOk 2 f.fd = true := List.all_eq_true.1 (widthsOk_of_illFormed (illFormed_of_wordFault hword)) _ hd
  exact fits_of_wideOk rfl hwidth

/-- A field of an entry that names k registers alone is no v register. -/
theorem not_isV_of_issues {s : State} {slot : Nat} {g : Group} {f : Fields} (h : Issues s slot g f) (hd : .dst .D 2 .k ∈ usesOf f.op) :
    isV f.fd = false := by
  obtain ⟨-, hword, -⟩ := h
  have hkind : isK f.fd = true := List.all_eq_true.1 (kindsOk_of_illFormed (illFormed_of_wordFault hword)) _ hd
  rw [isK_iff] at hkind
  exact isV_eq_false (by omega)

theorem getD_words64 (x : Dword) {i : Nat} (hi : i < 2) : (words64 x).getD i 0 = x.extractLsb' (32 * i) 32 := by
  obtain rfl | rfl : i = 0 ∨ i = 1 := by omega
  all_goals rfl

/-- A pair that D holds in v registers, or z's, is 64 bits in each listed thread. -/
theorem HoldsWide.holds64 {g h : Group} {d : RegField} {ts : List Nat} {tag : FTag} {val : Nat → Dword}
    (hw : HoldsWide g h d 2 ts tag (fun i t => (val t).extractLsb' (32 * i) 32)) (hd : isK d = false) :
    Holds64 g h d ts tag (fun _ => val) := by
  obtain ⟨hv, htag, hk, hpreds⟩ := hw
  refine ⟨fun r t ht => ?_, fun r => ?_, fun j => ?_, hpreds⟩
  · rw [hv r t ht]
    by_cases h0 : r = d.toNat
    · simp [h0]
    · by_cases h1 : r = d.toNat + 1
      · simp [h1]
      · rw [if_neg (by rintro ⟨-, hlow, hhigh, -⟩; omega), if_neg (by tauto), if_neg (by tauto)]
  · have hrange : (r = d.toNat ∨ r = d.toNat + 1) ↔ d.toNat ≤ r ∧ r < d.toNat + 2 := by omega
    rw [htag r]
    simp only [hrange, and_assoc]
  · rw [hk j]
    simp [hd]

/-- A pair of k registers holds the 64 bits of the one thread that writes it. -/
theorem HoldsWide.holds64_k {g h : Group} {d : RegField} {t : Nat} {tag : FTag} {x : Dword}
    (hw : HoldsWide g h d 2 [t] tag (fun i _ => x.extractLsb' (32 * i) 32)) (hd : isK d = true) :
    Holds64 g h d [t] tag (fun _ _ => x) := by
  obtain ⟨hv, htag, hk, hpreds⟩ := hw
  have hd' := (isK_iff d).1 hd
  have hnv : isV d = false := isV_eq_false (by omega)
  refine ⟨fun r u hu => ?_, fun r => ?_, fun j => ?_, hpreds⟩
  · rw [hv r u hu]
    simp [hnv]
  · rw [htag r]
    simp [hnv]
  · rw [hk j]
    simp only [hd, true_and, if_true, List.getLast?_singleton, List.foldl_cons, List.foldl_nil, readK_setK]
    by_cases h1 : j = d.toNat - 47
    · rw [if_pos h1, if_pos (by omega), show j + 48 - d.toNat = 1 by omega]
    · rw [if_neg h1]
      by_cases h0 : j = d.toNat - 48
      · rw [if_pos h0, if_pos (by omega), show j + 48 - d.toNat = 0 by omega]
      · rw [if_neg h0, if_neg (by omega)]

theorem Holds64.congr {g g' g'' : Group} {d : RegField} {ts : List Nat} {tag : FTag} {val : Group → Nat → Dword}
    (h : Holds64 g g' d ts tag val) (hr : g''.v = g'.v ∧ g''.vtag = g'.vtag ∧ g''.k = g'.k ∧ g''.preds = g'.preds) :
    Holds64 g g'' d ts tag val := by
  obtain ⟨hv, htag, hk, hpreds⟩ := h
  obtain ⟨ev, etag, ek, epreds⟩ := hr
  refine ⟨fun r t ht => ?_, fun r => ?_, fun j => ?_, epreds.trans hpreds⟩
  · rw [← hv r t ht]; simp only [Group.readV, ev]
  · rw [← htag r]; simp only [Group.tagV, etag]
  · rw [← hk j]; simp only [Group.readK, ek]

/-! ### CYCLES -/

/-- The clock as CYCLES samples it when it passes thread t. -/
def Group.sampled (g : Group) (now t : Nat) : Dword := BitVec.ofNat 64 (now + (g.active.takeWhile (· != t)).length)

/-- The writes of CYCLES: a v pair is sampled as each participant passes, a k pair once. -/
def Group.cycleWrites (g : Group) (f : Fields) (now : Nat) : List RegWrite :=
  if isV f.fd then (g.participants f.g).flatMap (fun t => writeWide f.fd t 0 (words64 (g.sampled now t))) ++
    resultTag (g.participants f.g) f.fd 2 2
  else writeWide f.fd 0 0 (words64 (BitVec.ofNat 64 now))

theorem runBody_cycles {d : Device} {w : Who} {g : Group} {m : Mach} (hp : g.participants w.f.g ≠ []) :
    runBody bodyCycles d w g m =
      .ok (commit w (m.retire w g) (g.cycleWrites w.f ((m.retire w g).core w.core).cycle)) := by
  have hp' : (g.retired w).participants w.f.g ≠ [] := hp
  rw [runBody_acts (acts_of_participants hp), bodyCycles, withGroup_retire]
  dsimp only
  rw [if_neg hp']
  rfl

/-- Writes that leave all but registers and tags. -/
theorem onlyRegs_of_rest {g h g' : Group} {len : Nat} (hregs : h = { g with v := h.v, vtag := h.vtag, k := h.k })
    (hrest : g'.rest = ({ h with pc := g.pc + BitVec.ofNat 56 len } : Group).rest) : OnlyRegs g g' len := by
  obtain ⟨hv, htag, hk, hpreds⟩ := Group.rest_regs hrest
  have hp : h.preds = g.preds := by rw [hregs]
  unfold OnlyRegs
  rw [hrest, hv, htag, hk, hpreds]
  dsimp only
  rw [hp, hregs]

/-- What CYCLES writes: registers and tags. -/
theorem cycleWrites_regs (g : Group) (f : Fields) (now : Nat) (hfit : Fits f.fd 2) :
    let h := applyWrites g (g.cycleWrites f now)
    h = { g with v := h.v, vtag := h.vtag, k := h.k } ∧
    (isK f.fd = false → Holds64 g h f.fd (g.participants f.g) 2 (fun _ => g.sampled now)) ∧
    (isK f.fd = true → Holds64 g h f.fd [0] 2 (fun _ _ => BitVec.ofNat 64 now)) := by
  have hts : ∀ t ∈ g.participants f.g, t < 32 := fun _ => mem_participants_lt
  dsimp only [Group.cycleWrites]
  by_cases hv : isV f.fd = true
  · rw [if_pos hv, applyWrites_append]
    have hregs := (regsHold_flatMap g hfit hts (words := fun t => words64 (g.sampled now t)) fun _ => rfl).congr
      fun i hi t _ => getD_words64 (g.sampled now t) hi
    have hlt := (isV_iff f.fd).1 hv
    refine ⟨?_, fun hk => (hregs.tagged 2).holds64 hk, fun hk => ?_⟩
    · unfold resultTag
      split_ifs
      · rw [applyWrites_nil, hregs.only]
      · rw [applyWrites_writeTag_regs, hregs.only]
    · rw [isK_iff] at hk
      omega
  · rw [if_neg hv]
    have hv' : isV f.fd = false := by simpa using hv
    have hregs := (regsHold_writeWide g (d := f.fd) (t := 0) (by decide) (xs := words64 (BitVec.ofNat 64 now)) hfit).congr
      fun i hi t _ => getD_words64 (BitVec.ofNat 64 now) hi
    refine ⟨by rw [hregs.only], fun hk => ?_, fun hk => (hregs.untagged hv' 2).holds64_k hk⟩
    have hz : f.fd.toNat = 47 := by
      rw [isV_iff] at hv
      rw [Bool.eq_false_iff, ne_eq, isK_iff] at hk
      omega
    rw [writeWide_of_isZ hz, applyWrites_nil]
    exact ((RegsHold.of_isZ hz g 2 _ _).untagged hv' 2).holds64 hk

theorem cycles_reads {s : State} {slot : Nat} {g : Group} {w : WordA} (hp : g.participants w.g ≠ [])
    (h : Issues s slot g (fieldsA 0xFA w)) :
    let now := ((s.issued slot g (fieldsA 0xFA w) 4).core s.curCore).cycle
    ∃ t g', exec (.cycles w) s = .next t ∧ Stepped s t slot (fieldsA 0xFA w) g g' ∧ OnlyRegs g g' 4 ∧
      (isK w.d = false → Holds64 g g' w.d (g.participants w.g) 2 (fun _ => g.sampled now)) ∧
      (isK w.d = true → Holds64 g g' w.d [0] 2 (fun _ _ => BitVec.ofNat 64 now)) := by
  intro now
  have hfit : Fits w.d 2 := fits_pair (kd := .any) h (by simp [fieldsA, usesOf, usesRowF])
  obtain ⟨hregs, hv, hk⟩ := cycleWrites_regs g (fieldsA 0xFA w) now hfit
  obtain ⟨t, g', hnext, hstep, hrest⟩ := issue_commit (len := 4) h (runBody_cycles hp)
  have hsame := Group.rest_regs hrest
  exact ⟨t, g', hnext, hstep, onlyRegs_of_rest hregs hrest, fun hd => (hv hd).congr hsame, fun hd => (hk hd).congr hsame⟩

/-! ### PERFRD -/

/-- The counter that the operand of a thread names, or 0 (R159, R313). -/
def Core.counter (c : Core) (i : Nat) : Dword := if i < 16 then (c.perf.getD i 0).setWidth 64 else 0#64

theorem runBody_perfrd {d : Device} {w : Who} {g : Group} {m : Mach} (hp : g.participants w.f.g ≠ []) : runBody bodyPerfrd d w g m =
    .ok (defer w (m.retire w g) (g.retired w) 0 ((g.participants w.f.g).flatMap (fun t =>
      writeWide w.f.fd t 0 (words64 (((m.retire w g).core w.core).counter (g.reg w.f.fa t).toNat)))) (regItems w.f.fd 2)) := by
  have hp' : (g.retired w).participants w.f.g ≠ [] := hp
  rw [runBody_acts (acts_of_participants hp), bodyPerfrd, withGroup_retire]
  dsimp only
  rw [if_neg hp']
  rfl

theorem perfrd_reads {s : State} {slot : Nat} {g : Group} {w : WordA} (hp : g.participants w.g ≠ [])
    (h : Issues s slot g (fieldsA 0xFC w)) :
    let c := (s.issued slot g (fieldsA 0xFC w) 4).core s.curCore
    ∃ t g' ws, exec (.perfrd w) s = .next t ∧ Sends s t slot g g' [.result ws (regItems w.d 2) false] ∧
      g'.rest = ({ g with pc := g.pc + 4, sb := g.sb ||| regItems w.d 2 } : Group).rest ∧
      HoldsWide g (applyWrites g ws) w.d 2 (g.participants w.g) 0 (fun i x => (c.counter (g.reg w.a x).toNat).extractLsb' (32 * i) 32) := by
  intro c
  have hk : Use.dst .D 2 .k ∈ usesOf (fieldsA 0xFC w).op := by simp [fieldsA, usesOf, usesRowF]
  have hb := runBody_perfrd (d := s.dev) (w := s.who slot g (fieldsA 0xFC w)) (m := s.mach) hp
  obtain ⟨t, g', hnext, hd⟩ := issue_defers h hb (group?_of_cores rfl)
  have hregs := regsHold_flatMap g (fits_pair h hk) (fun _ => mem_participants_lt)
    (words := fun t => words64 (c.counter (g.reg w.a t).toNat)) (fun _ => rfl) (ts := g.participants w.g)
  exact ⟨t, g', _, hnext, hd.sends (.refl ..), hd.rest,
    (hregs.congr fun i hi x _ => getD_words64 _ hi).untagged (not_isV_of_issues h hk) 0⟩

/-! ### SIGRD -/

/-- Another slot than its own names the same group before a word has issued and after. -/
theorem Mach.slotGroup?_retire_ne {m : Mach} {w : Who} {g : Group} {n : Nat} (hn : n ≠ w.slot) :
    (m.retire w g).slotGroup? w.core n = m.slotGroup? w.core n := by
  have hsaved : ((m.retire w g).core w.core).saved = (m.core w.core).saved := by rw [(OneGroup.retire m w g).core]
  unfold Mach.slotGroup?
  rw [Mach.group?_retire_ne fun hc => hn hc.2, hsaved]

/-- What SIGRD reads of a group that it reaches: 0 outside a duplex launch, else its signature or its store count (R313). -/
theorem Mach.sigrd_eq {m : Mach} {core : Nat} {a sel : Word} {free sig : Dword} {x : Group} (hx : m.slotGroup? core a.toNat = some x)
    (ha : a.toNat < 2048) (hsig : (x.id.duplex = false ∧ sig = 0) ∨ (x.id.duplex = true ∧ sel = 0 ∧ sig = x.dup.sig) ∨
      (x.id.duplex = true ∧ sel = 2 ∧ sig = BitVec.ofNat 64 x.dup.nst)) : m.sigrd core a sel free = sig := by
  have hslot : (slotOperand a).bind (m.slotGroup? core) = some x := by
    rw [slotOperand, if_pos ha, Option.bind_some, hx]
  unfold Mach.sigrd
  rw [hslot]
  obtain ⟨hdup, rfl⟩ | ⟨hdup, rfl, rfl⟩ | ⟨hdup, rfl, rfl⟩ := hsig
  · simp [hdup]
  · simp [hdup]
  · simp [hdup]

theorem runBody_sigrd {d : Device} {w : Who} {g : Group} {m : Mach} {sig : Dword} (hp : g.participants w.f.g ≠ [])
    (hsig : ∀ free, Mach.sigrd { m.retire w g with draws := (m.retire w g).draws + 2 } w.core
      (g.reg w.f.fa ((g.participants w.f.g).head?.getD 0)) (g.reg w.f.fb ((g.participants w.f.g).head?.getD 0)) free = sig) :
    runBody bodySigrd d w g m = .ok (defer w { m.retire w g with draws := (m.retire w g).draws + 2 } (g.retired w) 0
      (writeWide w.f.fd 0 0 (words64 sig)) (regItems w.f.fd 2)) := by
  rw [bodySigrd, runBody_groupWide hp, ← hsig]
  rfl

theorem sigrd_reads {s : State} {slot : Nat} {g : Group} {w : WordA} {x : Group} {sig : Dword} (hp : g.participants w.g ≠ [])
    (h : Issues s slot g (fieldsA 0xFD w))
    (hx : s.mach.slotGroup? s.curCore (g.reg w.a ((g.participants w.g).head?.getD 0)).toNat = some x)
    (hne : (g.reg w.a ((g.participants w.g).head?.getD 0)).toNat ≠ slot)
    (hlt : (g.reg w.a ((g.participants w.g).head?.getD 0)).toNat < 2048)
    (hsig : (x.id.duplex = false ∧ sig = 0) ∨
      (x.id.duplex = true ∧ g.reg w.b ((g.participants w.g).head?.getD 0) = 0 ∧ sig = x.dup.sig) ∨
      (x.id.duplex = true ∧ g.reg w.b ((g.participants w.g).head?.getD 0) = 2 ∧ sig = BitVec.ofNat 64 x.dup.nst)) :
    ∃ t g' ws, exec (.sigrd w) s = .next t ∧ Sends s t slot g g' [.result ws (regItems w.d 2) false] ∧
      g'.rest = ({ g with pc := g.pc + 4, sb := g.sb ||| regItems w.d 2 } : Group).rest ∧
      HoldsWide g (applyWrites g ws) w.d 2 [0] 0 (fun i _ => sig.extractLsb' (32 * i) 32) := by
  have hk : Use.dst .D 2 .k ∈ usesOf (fieldsA 0xFD w).op := by simp [fieldsA, usesOf, usesRowF]
  set m1 := s.issued slot g (fieldsA 0xFD w) 4
  have hx1 : Mach.slotGroup? { m1 with draws := m1.draws + 2 } s.curCore (g.reg w.a ((g.participants w.g).head?.getD 0)).toNat = some x :=
    (Mach.slotGroup?_retire_ne (w := s.who slot g (fieldsA 0xFD w)) hne).trans hx
  have hb := runBody_sigrd (d := s.dev) (w := s.who slot g (fieldsA 0xFD w)) hp fun _ => Mach.sigrd_eq hx1 hlt hsig
  obtain ⟨t, g', hnext, hd⟩ := issue_defers h hb (group?_of_cores rfl)
  have hregs := regsHold_writeWide g (t := 0) (by decide) (d := w.d) (xs := words64 sig) (fits_pair h hk)
  exact ⟨t, g', _, hnext, hd.sends (.draws ..), hd.rest,
    (hregs.congr fun i hi _ _ => getD_words64 _ hi).untagged (not_isV_of_issues h hk) 0⟩

/-! ### BRK -/

/-- A stop is recorded in the first FREE entry at once when no stop waits for one (R121). -/
theorem records_postStop (c : Core) (r : MboxRec) : Records c (c.postStop r) r := by
  intro hstops e he hfree hfirst
  have hkey : SMap.freeKey c.mbox 16 = some e := by
    refine List.find?_range_eq_some.2 ⟨by rw [hfree]; rfl, List.mem_range.2 he, fun k hk => ?_⟩
    simpa [Option.ne_none_iff_isSome] using hfirst k hk
  have hpost : c.postStop r = { c with mbox := c.mbox.set e { r with seq := c.mseq }, mseq := c.mseq + 1, stopList := [] } := by
    simp [Core.postStop, Core.fillMailbox, hstops, hkey]
  rw [hpost]
  exact ⟨rfl, rfl, rfl⟩

theorem Mach.takeFault_group {m : Mach} {core slot : Nat} {g : Group} (hg : m.group? core slot = some g) (hs : g.id.sup = false)
    (c : Code) (a : Va) : m.takeFault core slot c a =
      ((m.setCore core ((m.core core).releaseLane slot)).setGroup core slot (g.stop .fault (some c))).modCore core
        (·.postStop (stopRecord g slot 1 c.num g.pc a 0 0)) := by
  simp only [Mach.takeFault, hg, hs, Bool.false_eq_true, if_false]

/-- A precise fault of a group other than the supervisor group (R31, R361). -/
theorem faults_of_runBody {s : State} {slot : Nat} {g : Group} {f : Fields} {len : Nat} {b : Body} {c : Code} {a : Va} {i : Instr}
    (hi : exec i s = issue len f b s) (h : Issues s slot g f) (hs : g.id.sup = false)
    (hb : runBody b s.dev ⟨s.curCore, slot, f, g.pc, len⟩ g s.mach = .error (.fault c a)) : Faults i s slot g c a := by
  have hg : s.mach.group? s.curCore slot = some g := State.issuer_group h.1
  refine ⟨_, hi.trans (issue_fault h hb), ?_⟩
  rw [Mach.takeFault_group hg hs]
  set r := stopRecord g slot 1 c.num g.pc a 0 0
  set c1 : Core := { (s.mach.core s.curCore).releaseLane slot with
    groups := (s.mach.core s.curCore).groups.set slot (g.stop .fault (some c)) }
  set m1 := ((s.mach.setCore s.curCore ((s.mach.core s.curCore).releaseLane slot)).setGroup s.curCore slot
    (g.stop .fault (some c))).modCore s.curCore (·.postStop r)
  have hcore : m1.core s.curCore = c1.postStop r := by
    rw [Mach.core_modCore_self, Mach.core_setGroup_self, Mach.core_setCore_self]
    rfl
  have hone : OneCore s.mach m1 s.curCore := (OneCore.setCore ..).trans ((OneCore.setGroup ..).trans (.modCore ..))
  have hgroup : OneGroup (s.mach.core s.curCore) (m1.core s.curCore) slot := by
    rw [hcore]
    exact ((OneGroup.releaseLane _ slot slot).thenGroups _).trans (.postStop ..)
  have hself : m1.group? s.curCore slot = some (g.stop .fault (some c)) := by
    rw [Mach.group?, hcore, Core.postStop_groups]
    exact SMap.get?_set_self ..
  refine ⟨⟨⟨rfl, rfl, rfl, rfl⟩, hone, hgroup, hone.sameMemory hgroup, hself, rfl, rfl, rfl, rfl, ?_⟩, rfl⟩
  show Records _ (m1.core s.curCore) r
  rw [hcore]
  exact records_postStop c1 r

theorem brk_faults {s : State} {slot : Nat} {g : Group} {v : WordI} (hp : g.participants v.g ≠ []) (h : Issues s slot g (fieldsI 0xFB v))
    (hs : g.id.sup = false) : Faults (.brk v) s slot g .brk 0 := by
  refine faults_of_runBody (len := 4) (b := bodyBrk) rfl h hs ?_
  rw [runBody_acts (acts_of_participants hp), bodyBrk, withGroup_retire]
  exact if_neg hp

end Sys2Proof.Machine
end

section
/-! PROOF. What WRG does to a register of each class (R309), and the supervisor's readers together. -/

namespace Sys2Proof.Machine

/-! ### WRG by class -/

section
variable {s : State} {slot : Nat} {g : Group} {w : WordA} {n cls idx u : Nat} {x : Group}
  (h : Issues s slot g (fieldsA 0xF3 w)) (hp : g.participants w.g ≠ []) (hz : regIllegal (blockWord g (fieldsA 0xF3 w) 1) = false)
  (haim : (s.issued slot g (fieldsA 0xF3 w) 4).regAim s.curCore (blockWord g (fieldsA 0xF3 w) 0) (blockWord g (fieldsA 0xF3 w) 1) =
    some (n, x, cls, idx, u))
include h hp hz haim

/-- WRG with a word that makes the group x' of x. -/
theorem wrg_leaves {y x' : Group} {P : Group → Prop} (hx : s.mach.group? s.curCore n = some x)
    (hy : wrgGroup x cls idx u (g.reg w.d ((g.participants w.g).head?.getD 0)) = some y) (hgood : wrgGood y cls idx u = x')
    (hP : P x') : ∃ t x', exec (.wrg w) s = .next t ∧ t.mach.group? s.curCore n = some x' ∧ P x' ∧
      t.mach.msgs.map (·.body) = s.mach.msgs.map (·.body) ++ [answer w.b .ok] := by
  subst hgood
  obtain ⟨t, hnext, hgroup, hmsgs⟩ := wrg_writes h hp hz haim hx hy
  exact ⟨t, _, hnext, hgroup, hP, hmsgs⟩

/-- WRG of a class, an index or a word that it does not write, or of a register with a pending result. -/
theorem wrg_refused
    (hbad : let val := g.reg w.d ((g.participants w.g).head?.getD 0)
      let clear := fun lo k => ∀ b, lo ≤ b → b < lo + k → x.sb.getLsbD b = false
      cls = 5 ∨ 7 ≤ cls ∨ (cls = 0 ∧ 47 ≤ idx) ∨ (cls = 1 ∧ 16 ≤ idx) ∨ (cls = 2 ∧ 0 < idx) ∨ (cls = 3 ∧ (47 ≤ idx ∨ 10 ≤ val.toNat % 16)) ∨
        (cls = 4 ∧ (128 ≤ idx ∨ 6 ≤ idx % 8)) ∨ (cls = 6 ∧ 2 ≤ idx) ∨ ((cls = 0 ∨ cls = 3) ∧ ¬ clear idx 1) ∨
        (cls = 1 ∧ ¬ clear (48 + idx) 1) ∨ (cls = 2 ∧ ¬ clear 64 8)) :
    ∃ t g', exec (.wrg w) s = .next t ∧ Sends s t slot g g' [.result (statusWrites w.b .mismatch) (regItems w.b 1) false] := by
  refine wrg_mismatch h hp hz haim (wrgGroup_eq_none ?_)
  dsimp only at hbad
  rwa [← and_itemBit_eq_zero_iff, ← and_itemBit_eq_zero_iff, ← and_predItems_eq_zero_iff] at hbad

end

/-- Settles O48: each word's body is evaluated on the issued machine, and the step leaves that machine with the word's result on its way
(`Defers`); the tables of R309 are `rdgWord_eq_some`, `rdgWord_eq_none` and the lemmas about `wrgGroup`. -/
theorem supervisorReaders : Obligations.SupervisorReaders := by
  unfold Obligations.SupervisorReaders
  intro w s slot g hp
  have hzeros : regIllegal (blockWord g (fieldsA 0xF2 w) 1) = false ↔ _ := regIllegal_eq_false_iff
  refine ⟨fun h hf hs => ⟨fun hall => mboxrd_empty hp h hf hs hall, fun n r hr => mboxrd_record hp h hf hs hr⟩,
    fun h => ⟨fun hbad => mboxwr_mismatch hp h hbad, fun r hr htaken hstops hf hs =>
      ⟨fun hmode => mboxwr_frees hp h hr htaken hstops hf hs hmode, fun x hmode hx hne hst hxf hxs hin hpark _ hrec hxlat howed => ?_⟩⟩,
    fun h n x cls idx u v hz hbad haim =>
      ⟨fun hv => rdg_reads h hp (hzeros.2 hz) haim hbad (rdgWord_eq_some hv),
        fun hv => rdg_outside h hp (hzeros.2 hz) haim hbad fun d => rdgWord_eq_none d hv⟩,
    fun i hi hz hsup => registerWord_illegal hi hp (by simpa using fun hf => hz (hzeros.1 hf)) hsup,
    fun h hz haim => rdg_unaimed h hp (hzeros.2 hz) haim,
    fun h n x cls idx u hz haim => ⟨fun hx => ⟨?_, ?_, ?_, ?_, ?_, ?_⟩, fun hbad => wrg_refused h hp (hzeros.2 hz) haim hbad⟩,
    fun h hj hq => xlinv_drops hp h hj hq,
    fun h x hx hlive hcons => ⟨fun hq => fqpop_reads_empty hp h hx hlive hcons hq, fun e es hq => ?_⟩,
    fun h => ⟨fun hbad => fqreplay_mismatch hp h hbad, fun x e hx he hlt hq hj => ?_⟩,
    fun h => cycles_reads hp h,
    fun v hv h hs => brk_faults (hv ▸ hp) h hs,
    fun h => ?_,
    fun h x hx hne hlt sig hsig => ?_⟩
  · -- MBOXWR with mode 1
    obtain ⟨t, hnext, hgroup, hmbox, hmsgs⟩ := mboxwr_resumes hp h hr htaken hstops hf hs hmode hx hne hst hxf hxs hin hpark hrec hxlat howed
    exact ⟨t, x.resumed, hnext, hgroup, hmbox, rfl, hmsgs⟩
  · -- WRG of a v register
    rintro rfl hidx hclear
    exact wrg_leaves h hp (hzeros.2 hz) haim hx (wrgGroup_v hidx (and_itemBit_eq_zero_iff.2 hclear)) rfl (by split_ifs <;> rfl)
  · -- WRG of a k register
    rintro rfl hidx hclear
    exact wrg_leaves h hp (hzeros.2 hz) haim hx (wrgGroup_k hidx (and_itemBit_eq_zero_iff.2 hclear)) rfl rfl
  · -- WRG of a thread's predicates
    rintro rfl rfl hclear
    obtain ⟨hrest, hpred⟩ := foldl_setPred x u (g.reg w.d ((g.participants w.g).head?.getD 0)) 8
    refine wrg_leaves h hp (hzeros.2 hz) haim hx (wrgGroup_pred (and_predItems_eq_zero_iff.2 hclear)) rfl ⟨?_, hpred⟩
    exact congrArg (fun y : Group => { y with bad := y.bad.filter (fun b => b / 32 < 64) }) hrest
  · -- WRG of a tag
    rintro rfl hidx hclear hval
    exact wrg_leaves h hp (hzeros.2 hz) haim hx (wrgGroup_tag hidx hval (and_itemBit_eq_zero_iff.2 hclear)) rfl (by split_ifs <;> rfl)
  · -- WRG of a word of a span register
    rintro rfl hidx hword
    refine wrg_leaves h hp (hzeros.2 hz) haim hx (wrgGroup_span hidx hword) rfl ⟨rfl, fun i => ?_⟩
    refine (span_setSpan ..).trans ?_
    split_ifs with hi
    · rw [hi]
    · rfl
  · -- WRG of a half of the gang register
    rintro rfl hidx
    exact wrg_leaves h hp (hzeros.2 hz) haim hx (wrgGroup_gang hidx) rfl ⟨rfl, getLsbD_gangWrite hidx⟩
  · -- FQPOP of a queue that holds an entry
    obtain ⟨t, g', ws, hnext, hsends, hrest, hholds, hlsts, hctx⟩ := fqpop_reads_entry hp h hx hlive hcons hq
    refine ⟨t, g', ws, hnext, hsends, hrest, hholds, hlsts, ?_⟩
    rw [hctx]
    exact ⟨x.afterPop_fqhead e es, fun hun => Ctx.afterPop_fq hun e es, fun hkind => Ctx.afterPop_popped hkind x es⟩
  · -- FQREPLAY of a popped entry
    rw [Nat.mod_eq_of_lt hlt] at hx
    exact fqreplay_replays hp h rfl hlt hx he hq hj
  · -- PERFRD
    obtain ⟨t, g', ws, hnext, hsends, hrest, hholds⟩ := perfrd_reads hp h
    exact ⟨t, g', ws, hnext, hsends, hrest, hholds, trivial⟩
  · -- SIGRD
    obtain ⟨t, g', ws, hnext, hsends, hrest, hholds⟩ := sigrd_reads hp h hx hne hlt hsig
    exact ⟨t, g', ws, hnext, hsends, hrest, hholds, trivial⟩

end Sys2Proof.Machine
end

section
/-! PROOF. O46 fails: of a group with copy index 1 the statement has ESTAT read the holdings of its keeper (R376), which is the member of
the partner block at its own index. Where no group on that core has the keeper's name, `bodyEstat` falls back on the holdings of the
group itself, and an entry that the keeper still has in the table is not read. -/

namespace Sys2Proof.Machine

/-- The word ESTAT v0, v4: every thread reads the entry whose index its v4 holds. -/
def readEstate : WordA := { b := 0, a := 4, d := 0, g := 0, u := false, e := false }

/-- A group of copy index 1 in slot 0 of core 0, with nothing in its registers. -/
def secondCopy : Group := { uid := 1, id := { ctx := 0, duplex := true, copyIndex := true }, valloc := 8, pc := 0x1000 }

/-- The keeper of its pair, as the partner block names it. -/
def firstCopy : Member := { core := 0, slot := 1, uid := 2, role := .general }

/-- What the keeper holds: a claim on the line at 0. -/
def keptClaim : Estate := { kind := 4, hmem := 0, hslot := 1, uid := 2, heir := 0, hidx := 0, brv := false, order := 0, key := 0 }

/-- The block with this partner and these members. -/
def pairBlock (partner : Nat) (members : SMap Member) (copyIndex : Bool) : Block :=
  { ctx := 0, launch := 0, ordinal := 0, unit := 0, inUnit := 0, pages := [], spadBytes := 0, rings := [], bars := [], members
    partner := some partner, copyIndex }

/-- The second copy issues, and of the first copy only its member and its holding are there. -/
def lostKeeperState : State :=
  { turns := [], curCore := 0, curLane := 0, dev := {}
    mach := { cores := [(0, { groups := [(0, secondCopy)], lanes := [(0, { issuing := some 0 })], estate := [(0, keptClaim)] })]
              clusters := [(0, { blocks := [(0, pairBlock 1 [] true), (1, pairBlock 0 [(0, firstCopy)] false)] })] } }

theorem lostKeeperState_issues : Issues lostKeeperState 0 secondCopy (fieldsA 0xE9 readEstate) := by decide +kernel

/-- Register v3 of thread 0 of the group in slot 0 of core 0, in the state that a step answers. -/
def v3After : Host.Outcome State Fault Refusal → Option Word
  | .next t => (t.mach.group? 0 0).map (·.readV 3 0)
  | _ => none

/-- ESTAT reads no entry. -/
theorem v3After_estat : v3After (exec (.estat readEstate) lostKeeperState) = some 0 := by decide +kernel

/-- The one holding of the keeper. -/
theorem lostKeeperState_holdings : lostKeeperState.mach.holdings (lostKeeperState.mach.keeper 0 secondCopy).1
    (lostKeeperState.mach.keeper 0 secondCopy).2 = [(0, 0, keptClaim)] := by decide +kernel

/-- Refutes O46: in `lostKeeperState` ESTAT leaves 0 in v3, where the statement has it read the VALID bit of the keeper's holding. -/
theorem not_estateWords : ¬ Obligations.EstateWords := by
  unfold Obligations.EstateWords
  intro h
  obtain ⟨-, -, -, hestat⟩ := h readEstate lostKeeperState 0 secondCopy (by decide)
  obtain ⟨t, g', hs, hstep, hstepped, -, hperm, -, hread, -⟩ := hestat lostKeeperState_issues
  have hone : hs = [(0, 0, keptClaim)] := List.perm_singleton.1 (lostKeeperState_holdings ▸ hperm)
  subst hone
  obtain ⟨hv, -⟩ := hread (by decide)
  have hnew : g'.readV 3 0 = keptClaim.bits.extractLsb' 96 32 := hv 3 0 (by decide)
  have hgroup : t.mach.group? 0 0 = some g' := hstepped.group
  have hold : g'.readV 3 0 = 0 := by simpa [hstep, v3After, hgroup] using v3After_estat
  exact absurd (hold.symm.trans hnew) (by decide)

end Sys2Proof.Machine
end

section
/-! PROOF. The dictionary form (R142, R189, R192): the step of every word is the issue of its opcode's effect, and the word that a form
names differs from the dictionary's in its B and its guard alone. -/

namespace Sys2Proof.Machine

/-- The fields of a word under the format and the opcode given. -/
def fieldsIn (fmt : Format) (op : Nat) (x : BitVec 32) : Fields :=
  match fmt with
  | .A => fieldsA op (.ofBits x)
  | .I => fieldsI op (.ofBits x)
  | .J => fieldsJ op (.ofBits x)
  | .M => fieldsM op (.ofBits x)
  | .O => fieldsO op (.ofBits x)
  | .C => fieldsC op (.ofBits x)

theorem fieldsOfWord_eq (x : BitVec 32) : fieldsOfWord x = fieldsIn (formatOf (opOf x)) (opOf x) x := rfl

theorem exec_decodeWord_row {x : BitVec 32} (s : State) {row pos : Nat} (hrow : (x.extractLsb' 7 4).toNat = row)
    (hpos : (x.extractLsb' 3 4).toNat = pos) : exec (decodeWord x) s =
      issue 4 (fieldsIn (formatOf (16 * row + pos)) (16 * row + pos) x) (bodyOf (16 * row + pos)) s := by
  have hr : row < 16 := hrow ▸ BitVec.isLt _
  have hp : pos < 16 := hpos ▸ BitVec.isLt _
  unfold decodeWord
  rw [hrow, hpos]
  clear hrow hpos
  interval_cases row <;> interval_cases pos <;> rfl

theorem opOf_of_decodeWord_iadd {x : BitVec 32} {v : WordA} (h : decodeWord x = .iadd v) :
    (x.extractLsb' 7 4).toNat = 1 ∧ (x.extractLsb' 3 4).toNat = 0 ∧ v = .ofBits x := by
  have hr : (x.extractLsb' 7 4).toNat < 16 := BitVec.isLt _
  have hp : (x.extractLsb' 3 4).toNat < 16 := BitVec.isLt _
  unfold decodeWord at h
  generalize (x.extractLsb' 7 4).toNat = row at *
  generalize (x.extractLsb' 3 4).toNat = pos at *
  interval_cases row <;> interval_cases pos <;> cases h
  exact ⟨rfl, rfl, rfl⟩

theorem opOf_eq (x : BitVec 32) : opOf x = 16 * (x.extractLsb' 7 4).toNat + (x.extractLsb' 3 4).toNat := by
  simp only [opOf, BitVec.extractLsb'_toNat, Nat.shiftRight_eq_div_pow]
  omega

/-- The step of a word is the issue, at length 4, of the effect of its opcode. -/
theorem exec_decodeWord (x : BitVec 32) (s : State) : exec (decodeWord x) s = issue 4 (fieldsOfWord x) (bodyOf (opOf x)) s := by
  rw [fieldsOfWord_eq, opOf_eq]
  exact exec_decodeWord_row s rfl rfl

theorem fieldsOfWord_iadd {x : BitVec 32} (h : opOf x = 0x10) : fieldsOfWord x = fieldsA 0x10 (.ofBits x) := by
  rw [fieldsOfWord_eq, h]
  rfl

/-! ### The word a dictionary form names -/

/-- The word y with this B and, unless it is 0, this guard (R142, R189). -/
def namedWord (w : WordD) (y : BitVec 32) : BitVec 32 :=
  let x := (y &&& ~~~2#32) ||| (if w.e then 2#32 else 0)
  if w.go = 0 then x else (x &&& ~~~(7#32 <<< 11)) ||| (w.go.setWidth 32 <<< 11)

theorem dictWord_of_dsize_le {c : Core} {id : Ident} {w : WordD} (h : id.dsize ≤ w.idx.toNat) : dictWord c id w = none := if_pos h

theorem dictWord_eq_some {c : Core} {id : Ident} {w : WordD} {d : Dict} {y : BitVec 32} (h : w.idx.toNat < id.dsize)
    (hd : c.dict id = some d) (hy : d.words[w.idx.toNat]? = some y) : dictWord c id w = some (namedWord w y) := by
  simp only [dictWord, if_neg (Nat.not_le.2 h), hd, hy]
  rfl

theorem getLsbD_two (i : Nat) : (2#32).getLsbD i = decide (i = 1) := by
  rcases Nat.lt_or_ge i 32 with h | h
  · interval_cases i <;> rfl
  · simp [BitVec.getLsbD_of_ge _ _ h]; omega

theorem getLsbD_seven {i : Nat} : (7#32).getLsbD i = decide (i < 3) := by
  rcases Nat.lt_or_ge i 32 with h | h
  · interval_cases i <;> rfl
  · simp [BitVec.getLsbD_of_ge _ _ h]; omega

/-- Bit by bit: B is the form's, the guard is the form's where it has one, and every other bit is the dictionary's. -/
theorem getLsbD_namedWord (w : WordD) (y : BitVec 32) {i : Nat} (hi : i < 32) : (namedWord w y).getLsbD i =
    if i = 1 then w.e else if w.go ≠ 0 ∧ 11 ≤ i ∧ i < 14 then w.go.getLsbD (i - 11) else y.getLsbD i := by
  have hx : ((y &&& ~~~2#32) ||| (if w.e then 2#32 else 0)).getLsbD i = if i = 1 then w.e else y.getLsbD i := by
    have he : (if w.e then 2#32 else 0).getLsbD i = (w.e && decide (i = 1)) := by
      cases w.e
      · exact BitVec.getLsbD_zero
      · exact getLsbD_two i
    rw [BitVec.getLsbD_or, BitVec.getLsbD_and, BitVec.getLsbD_not, getLsbD_two, he]
    by_cases h1 : i = 1 <;> simp [h1, hi]
  unfold namedWord
  by_cases hgo : w.go = 0
  · simpa [hgo] using hx
  · rw [if_neg hgo, BitVec.getLsbD_or, BitVec.getLsbD_and, BitVec.getLsbD_not, BitVec.getLsbD_shiftLeft, BitVec.getLsbD_shiftLeft,
      BitVec.getLsbD_setWidth, hx, getLsbD_seven]
    by_cases h11 : i < 11
    · simp [hi, h11, Nat.not_le.2 h11]
    · by_cases h14 : i < 14
      · have h1 : i ≠ 1 := by omega
        have h3 : i - 11 < 3 := by omega
        have hne : w.go ≠ 0#3 := hgo
        simp [hne, hi, h11, h14, h1, h3, Nat.not_lt.1 h11, Nat.lt_of_le_of_lt (Nat.sub_le i 11) hi]
      · have h3 : 3 ≤ i - 11 := by omega
        simp [hi, h14, Nat.not_lt.2 h3, BitVec.getLsbD_of_ge _ _ h3]

theorem extractLsb'_namedWord (w : WordD) (y : BitVec 32) {lo n : Nat} (hn : lo + n ≤ 32) (h : 2 ≤ lo ∧ lo + n ≤ 11 ∨ 14 ≤ lo) :
    (namedWord w y).extractLsb' lo n = y.extractLsb' lo n := by
  ext i hi
  have hbit := getLsbD_namedWord w y (i := lo + i) (by omega)
  rw [if_neg (by omega), if_neg (by omega)] at hbit
  simpa [hi] using hbit

theorem opOf_namedWord (w : WordD) (y : BitVec 32) : opOf (namedWord w y) = opOf y :=
  congrArg BitVec.toNat (extractLsb'_namedWord w y (by decide) (by decide))

theorem guard_namedWord (w : WordD) (y : BitVec 32) : (namedWord w y).extractLsb' 11 3 = if w.go = 0 then y.extractLsb' 11 3 else w.go := by
  ext i hi
  have hbit := getLsbD_namedWord w y (i := 11 + i) (by omega)
  rw [if_neg (by omega)] at hbit
  by_cases hgo : w.go = 0
  · rw [if_neg (fun h => h.1 hgo)] at hbit
    rw [if_pos hgo]
    simpa [hi] using hbit
  · rw [if_pos ⟨hgo, by omega, by omega⟩, Nat.add_sub_cancel_left] at hbit
    rw [if_neg hgo]
    simpa [hi] using hbit

/-- What the fields of a word show of its bits whatever its format. -/
theorem fieldsIn_guard (fmt : Format) (op : Nat) (x : BitVec 32) : (fieldsIn fmt op x).g = x.extractLsb' 11 3 := by cases fmt <;> rfl

theorem fieldsIn_e (fmt : Format) (op : Nat) (x : BitVec 32) : (fieldsIn fmt op x).e = x.getLsbD 1 := by cases fmt <;> rfl

/-- The register fields of a word lie above its guard. -/
theorem fieldsIn_registers {x y : BitVec 32} (fmt : Format) (op : Nat)
    (h : ∀ lo n, 14 ≤ lo → lo + n ≤ 32 → x.extractLsb' lo n = y.extractLsb' lo n) :
    (fieldsIn fmt op x).fa = (fieldsIn fmt op y).fa ∧ (fieldsIn fmt op x).fb = (fieldsIn fmt op y).fb ∧
      (fieldsIn fmt op x).fd = (fieldsIn fmt op y).fd := by
  have ha := h 20 6 (by decide) (by decide)
  have hb := h 26 6 (by decide) (by decide)
  have hd := h 14 6 (by decide) (by decide)
  cases fmt <;> simp [fieldsIn, fieldsA, fieldsI, fieldsJ, fieldsM, fieldsO, fieldsC, WordA.ofBits, WordI.ofBits, WordM.ofBits,
    WordO.ofBits, WordC.ofBits, ha, hb, hd]

theorem fieldsOfWord_namedWord (w : WordD) (y : BitVec 32) :
    (fieldsOfWord (namedWord w y)).e = w.e ∧
    (fieldsOfWord (namedWord w y)).g = (if w.go = 0 then (fieldsOfWord y).g else w.go) ∧
    (fieldsOfWord (namedWord w y)).fa = (fieldsOfWord y).fa ∧ (fieldsOfWord (namedWord w y)).fb = (fieldsOfWord y).fb ∧
    (fieldsOfWord (namedWord w y)).fd = (fieldsOfWord y).fd := by
  simp only [fieldsOfWord_eq, opOf_namedWord, fieldsIn_guard, fieldsIn_e]
  exact ⟨getLsbD_namedWord w y (by decide), guard_namedWord w y,
    fieldsIn_registers _ _ fun lo n hlo hn => extractLsb'_namedWord w y hn (.inr hlo)⟩

/-! ### The step of a dictionary form -/

section
variable {w : WordD} {s : State} {slot : Nat} {g : Group}

theorem exec_dictionaryForm_named {x : BitVec 32} (h : s.issuer = some (slot, g)) (hgood : dictBad (s.mach.core s.curCore) g.id w = false)
    (hx : dictWord (s.mach.core s.curCore) g.id w = some x) :
    exec (.dictionaryForm w) s = issue 2 (fieldsOfWord x) (bodyOf (opOf x)) s := by
  show execDictionaryForm w s = _
  simp [execDictionaryForm, h, hgood, hx]

theorem exec_dictionaryForm_beyond (h : s.issuer = some (slot, g)) (hidx : g.id.dsize ≤ w.idx.toNat) (hrun : g.runCount < 24) :
    exec (.dictionaryForm w) s = .next { s with mach := s.mach.takeFault s.curCore slot .illegal 0 } := by
  have hgood : dictBad (s.mach.core s.curCore) g.id w = false := by simp [dictBad, Nat.not_lt.2 hidx]
  have hlen : ¬ Config.runLength ≤ g.runCount := Nat.not_le.2 hrun
  show execDictionaryForm w s = _
  simp [execDictionaryForm, h, hgood, dictWord_of_dsize_le hidx, hlen]

end

/-- The machine after a precise fault of a group that is not the supervisor group (R31, R361). -/
theorem faults_of_takeFault {i : Instr} {s : State} {slot : Nat} {g : Group} {c : Code} {a : Va} (h : s.issuer = some (slot, g))
    (hs : g.id.sup = false) (hi : exec i s = .next { s with mach := s.mach.takeFault s.curCore slot c a }) : Faults i s slot g c a := by
  have hg : s.mach.group? s.curCore slot = some g := State.issuer_group h
  refine ⟨_, hi, ?_⟩
  rw [Mach.takeFault_group hg hs]
  set r := stopRecord g slot 1 c.num g.pc a 0 0
  set c0 := (s.mach.core s.curCore).releaseLane slot
  set m1 := ((s.mach.setCore s.curCore c0).setGroup s.curCore slot (g.stop .fault (some c))).modCore s.curCore (·.postStop r) with hm1
  have hcore : m1.core s.curCore = Core.postStop { c0 with groups := c0.groups.set slot (g.stop .fault (some c)) } r := by
    rw [hm1, Mach.core_modCore_self, Mach.core_setGroup_self, Mach.core_setCore_self]
  have houtside : OneCore s.mach m1 s.curCore := (OneCore.setCore ..).trans ((OneCore.setGroup ..).trans (.modCore ..))
  have hinside : OneGroup (s.mach.core s.curCore) (m1.core s.curCore) slot := by
    rw [hcore]
    exact ((OneGroup.releaseLane _ slot slot).thenGroups _).trans (.postStop ..)
  have hgroup : m1.group? s.curCore slot = some (g.stop .fault (some c)) := by
    rw [Mach.group?, hcore, Core.postStop_groups]
    exact SMap.get?_set_self ..
  have hrecord : Records (s.mach.core s.curCore) (m1.core s.curCore) r := by
    rw [hcore]
    exact records_postStop { c0 with groups := c0.groups.set slot (g.stop .fault (some c)) } r
  exact ⟨⟨⟨rfl, rfl, rfl, rfl⟩, houtside, hinside, houtside.sameMemory hinside, hgroup, rfl, rfl, rfl, rfl, hrecord⟩, rfl⟩

/-- A write in one thread is not read in another. -/
theorem reg_setV_ne (g : Group) (d : RegField) {r t t' : Nat} {x : Word} (hne : t ≠ t') (ht : t < 32) (ht' : t' < 32) :
    (g.setV r t x).reg d t' = g.reg d t' := by
  have hv : (g.setV r t x).readV d.toNat t' = g.readV d.toNat t' := by
    rw [readV_setV g r t x ht d.toNat t' ht', if_neg]
    exact fun h => hne h.2.symm
  rw [Group.reg, hv]
  rfl

/-- IADD at any length (R208): D takes A + B. -/
theorem iadd_steps {s : State} {slot : Nat} {g : Group} {f : Fields} (len : Nat) (h : Issues s slot g f) :
    ∃ t g', issue len f bodyIadd s = .next t ∧ Stepped s t slot f g g' ∧ OnlyRegs g g' len ∧
      Holds g g' f.fd (g.actors f) (mixAB g f) (fun h t => h.reg f.fa t + h.reg f.fb t) :=
  alu_steps h (fun g _ _ _ hne ht ht' => congrArg₂ (· + ·) (reg_setV_ne g f.fa hne ht ht') (reg_setV_ne g f.fb hne ht ht'))
    (fun _ _ _ _ _ _ _ => rfl) (fun _ _ _ _ _ _ => rfl)

/-- Settles O26: the word that the form names has the effect of its opcode, and the form issues it with the length 2. -/
theorem dictionaryForms : Obligations.DictionaryForms := by
  unfold Obligations.DictionaryForms
  intro w s slot g hissuer
  refine ⟨fun x hgood hx => ⟨bodyOf (opOf x), exec_dictionaryForm_named hissuer hgood hx, exec_decodeWord x⟩,
    fun d y hidx hd hy => ?_, fun x v hgood hx hv hissues => ?_, fun hidx hsup hrun => ?_⟩
  · obtain ⟨he, hg, hregs⟩ := fieldsOfWord_namedWord w y
    exact ⟨namedWord w y, dictWord_eq_some hidx hd hy, he, opOf_namedWord w y, hg, hregs⟩
  · obtain ⟨hrow, hpos, rfl⟩ := opOf_of_decodeWord_iadd hv
    have hop : opOf x = 0x10 := by rw [opOf_eq, hrow, hpos]
    have hf := fieldsOfWord_iadd hop
    rw [exec_dictionaryForm_named hissuer hgood hx, hop]
    have hsteps := iadd_steps 2 hissues
    rw [hf] at hsteps ⊢
    exact hsteps
  · exact faults_of_takeFault hissuer hsup (exec_dictionaryForm_beyond hissuer hidx hrun)

end Sys2Proof.Machine
end

section
/-! PROOF. Conveyance (R127, R129, R131, R372): what becomes of the holdings of a group that has ended. One relation per
kind of step says what the step leaves alone; the steps of Mach.convey are then followed one after another. -/

namespace Sys2Proof.Machine

/-! ### The holdings of a group, and their order -/

theorem Mach.mem_holdings {m : Mach} {core uid : Nat} (hu : uid ≠ 0) (k i : Nat) (e : Estate) :
    (k, i, e) ∈ m.holdings core uid ↔ clusterOf k = clusterOf core ∧ (i, e) ∈ (m.core k).estate ∧ e.uid = uid := by
  simp only [Mach.holdings, hu, false_and, if_false, List.mem_flatMap, List.mem_range, List.mem_map, List.mem_filter, beq_iff_eq,
    Prod.mk.injEq, Prod.exists]
  constructor
  · rintro ⟨n, hn, i', e', ⟨hmem, huid⟩, rfl, rfl, rfl⟩
    refine ⟨?_, hmem, huid⟩
    unfold clusterOf
    omega
  · rintro ⟨hcl, hmem, huid⟩
    have hk : 8 * clusterOf core + k % 8 = k := by
      rw [← hcl]
      unfold clusterOf
      omega
    exact ⟨k % 8, Nat.mod_lt _ (by decide), i, e, ⟨by rwa [hk], huid⟩, hk, rfl, rfl⟩

theorem Mach.mem_estateOrder {m : Mach} {core : Nat} {g : Group} (hu : g.uid ≠ 0) (k i : Nat) (e : Estate) :
    (k, i, e) ∈ m.estateOrder core g ↔ clusterOf k = clusterOf core ∧ (i, e) ∈ (m.core k).estate ∧ e.uid = g.uid := by
  rw [Mach.estateOrder, List.mem_mergeSort, Mach.mem_holdings hu]

theorem Mach.pairwise_estateOrder (m : Mach) (core : Nat) (g : Group) : (m.estateOrder core g).Pairwise
    (fun x y => (g.eseq - x.2.2.order).toNat ≤ (g.eseq - y.2.2.order).toNat) := by
  have h := List.pairwise_mergeSort (le := fun a b : Nat × Nat × Estate =>
      decide ((g.eseq - a.2.2.order).toNat ≤ (g.eseq - b.2.2.order).toNat))
    (fun a b c hab hbc => by simp only [decide_eq_true_eq] at *; exact hab.trans hbc)
    (fun a b => by simpa using Nat.le_total _ _) (m.holdings core g.uid)
  exact h.imp of_decide_eq_true

/-! ### Steps that change groups alone -/

/-- The machine is as before but for groups, resident and saved. -/
structure GroupsOnly (m m1 : Mach) : Prop where
  mach : m1 = { m with cores := m1.cores }
  cores : ∀ c, m1.core c = { m.core c with groups := (m1.core c).groups, saved := (m1.core c).saved }

namespace GroupsOnly

theorem refl (m : Mach) : GroupsOnly m m := ⟨rfl, fun _ => rfl⟩

theorem trans {a b c : Mach} (h : GroupsOnly a b) (h' : GroupsOnly b c) : GroupsOnly a c :=
  ⟨by rw [h'.mach, h.mach], fun k => by rw [h'.cores, h.cores]⟩

theorem modCore (m : Mach) (core : Nat) {f : Core → Core}
    (hf : f (m.core core) = { m.core core with groups := (f (m.core core)).groups, saved := (f (m.core core)).saved }) :
    GroupsOnly m (m.modCore core f) := by
  refine ⟨rfl, fun c => ?_⟩
  by_cases hc : c = core
  · subst hc
    rw [Mach.core_modCore_self]
    exact hf
  · rw [Mach.core_modCore_ne _ _ hc]

theorem setGroup (m : Mach) (core slot : Nat) (g : Group) : GroupsOnly m (m.setGroup core slot g) := modCore m core rfl

theorem modGroup (m : Mach) (core slot : Nat) (f : Group → Group) : GroupsOnly m (m.modGroup core slot f) := by
  unfold Mach.modGroup
  split
  · exact setGroup ..
  · exact refl m

theorem modUid (m : Mach) (core slot uid : Nat) (f : Group → Group) : GroupsOnly m (m.modUid core slot uid f) := by
  unfold Mach.modUid
  split
  · exact modGroup ..
  · split
    · exact modCore m core rfl
    · exact refl m

theorem foldl {β : Type} {step : Mach → β → Mach} (hs : ∀ m b, GroupsOnly m (step m b)) (l : List β) (m : Mach) :
    GroupsOnly m (l.foldl step m) :=
  foldl_keeps (GroupsOnly m) step (fun a b h => h.trans (hs a b)) l m (refl m)

theorem cluster {m m1 : Mach} (h : GroupsOnly m m1) (cl : Nat) : m1.cluster cl = m.cluster cl := by
  rw [h.mach]
  rfl

theorem memory {m m1 : Mach} (h : GroupsOnly m m1) : SameMemory m m1 := by
  have e := h.mach
  refine ⟨fun a => by rw [e], fun a => by rw [e], fun a => by rw [e], fun d a => by rw [e], by rw [e], by rw [e],
    fun c a => by rw [h.cluster], fun c f => by rw [h.cores]; rfl⟩

end GroupsOnly

/-! ### What the conveyance of one holding keeps -/

/-- What the steps of a conveyance keep until the group leaves its core: the jobs of the device, the contexts, the blocks, the operations
of the cores, the seats, and that no group of a core waits. -/
structure Conveys (m m1 : Mach) : Prop where
  jobs : m1.jobs = m.jobs
  ctxs : m1.ctxs = m.ctxs
  blocks : ∀ cl, (m1.cluster cl).blocks = (m.cluster cl).blocks
  ops : ∀ c, (m1.core c).ops = (m.core c).ops
  uids : ∀ c k, (m1.group? c k).map (·.uid) = (m.group? c k).map (·.uid)
  waits : ∀ c, (∀ e ∈ (m.core c).groups, e.2.wait = none) → ∀ e ∈ (m1.core c).groups, e.2.wait = none

namespace Conveys

theorem refl (m : Mach) : Conveys m m := ⟨rfl, rfl, fun _ => rfl, fun _ => rfl, fun _ _ => rfl, fun _ h => h⟩

theorem trans {a b c : Mach} (h : Conveys a b) (h' : Conveys b c) : Conveys a c where
  jobs := h'.jobs.trans h.jobs
  ctxs := h'.ctxs.trans h.ctxs
  blocks cl := (h'.blocks cl).trans (h.blocks cl)
  ops c := (h'.ops c).trans (h.ops c)
  uids c k := (h'.uids c k).trans (h.uids c k)
  waits c hw := h'.waits c (h.waits c hw)

/-- A step that leaves the groups of every core alone. -/
theorem of_groups {m m1 : Mach} (hjobs : m1.jobs = m.jobs) (hctxs : m1.ctxs = m.ctxs)
    (hblocks : ∀ cl, (m1.cluster cl).blocks = (m.cluster cl).blocks)
    (hcore : ∀ c, (m1.core c).ops = (m.core c).ops ∧ (m1.core c).groups = (m.core c).groups) : Conveys m m1 where
  jobs := hjobs
  ctxs := hctxs
  blocks := hblocks
  ops c := (hcore c).1
  uids c k := by rw [Mach.group?, (hcore c).2]; rfl
  waits c hw := by rw [(hcore c).2]; exact hw

theorem modCore (m : Mach) (core : Nat) {f : Core → Core} (hops : (f (m.core core)).ops = (m.core core).ops)
    (hgroups : (f (m.core core)).groups = (m.core core).groups) : Conveys m (m.modCore core f) := by
  refine of_groups rfl rfl (fun _ => rfl) fun c => ?_
  by_cases hc : c = core
  · subst hc
    rw [Mach.core_modCore_self]
    exact ⟨hops, hgroups⟩
  · rw [Mach.core_modCore_ne _ _ hc]
    exact ⟨rfl, rfl⟩

theorem modCluster (m : Mach) (cl : Nat) {f : Cluster → Cluster} (h : (f (m.cluster cl)).blocks = (m.cluster cl).blocks) :
    Conveys m (m.modCluster cl f) := by
  refine of_groups rfl rfl (fun c => ?_) fun _ => ⟨rfl, rfl⟩
  by_cases hc : c = cl
  · subst hc
    rw [Mach.modCluster, Mach.cluster_setCluster_self]
    exact h
  · rw [Mach.modCluster, Mach.cluster_setCluster_ne _ _ hc]

theorem setGroup {m : Mach} {core slot : Nat} {g g1 : Group} (hg : m.group? core slot = some g) (hu : g1.uid = g.uid)
    (hw : g1.wait = g.wait) : Conveys m (m.setGroup core slot g1) where
  jobs := rfl
  ctxs := rfl
  blocks _ := rfl
  ops c := by
    by_cases hc : c = core
    · subst hc
      rw [Mach.core_setGroup_self]
    · rw [Mach.core_setGroup_ne _ _ _ hc]
  uids c k := by
    by_cases hc : c = core
    · subst hc
      by_cases hk : k = slot
      · subst hk
        simp [hg, hu]
      · rw [Mach.group?_setGroup_ne _ _ _ hk]
    · rw [Mach.group?, Mach.core_setGroup_ne _ _ _ hc]
      rfl
  waits c hall e he := by
    by_cases hc : c = core
    · subst hc
      rw [Mach.core_setGroup_self] at he
      obtain rfl | hold := SMap.key_mem_set _ _ _ he
      · exact hw.trans (hall _ (SMap.mem_of_get? hg))
      · exact hall e hold
    · rw [Mach.core_setGroup_ne _ _ _ hc] at he
      exact hall e he

theorem modUid (m : Mach) (core slot uid : Nat) {f : Group → Group} (hu : ∀ g, (f g).uid = g.uid) (hw : ∀ g, (f g).wait = g.wait) :
    Conveys m (m.modUid core slot uid f) := by
  unfold Mach.modUid
  split
  · next k _ =>
    unfold Mach.modGroup
    split
    · next g hg => exact setGroup hg (hu g) (hw g)
    · exact refl m
  · split
    · exact modCore m core rfl rfl
    · exact refl m

theorem foldl {β : Type} {step : Mach → β → Mach} (hs : ∀ m b, Conveys m (step m b)) (l : List β) (m : Mach) :
    Conveys m (l.foldl step m) :=
  foldl_keeps (Conveys m) step (fun a b h => h.trans (hs a b)) l m (refl m)

theorem block? {m m1 : Mach} (h : Conveys m m1) (core : Nat) (g : Group) : m1.block? core g = m.block? core g := by
  unfold Mach.block?
  rw [h.blocks]

theorem settling {m m1 : Mach} (h : Conveys m m1) (core uid : Nat) : m1.settling core uid = m.settling core uid := by
  unfold Mach.settling
  rw [h.jobs]

theorem ctx {m m1 : Mach} (h : Conveys m m1) (n : Nat) : m1.ctx n = m.ctx n := by
  unfold Mach.ctx
  rw [h.ctxs]

/-- The group of a seat keeps its name. -/
theorem seated {m m1 : Mach} (h : Conveys m m1) {c k : Nat} {g : Group} (hg : m.group? c k = some g) :
    ∃ g1, m1.group? c k = some g1 ∧ g1.uid = g.uid := by
  have hu := h.uids c k
  rw [hg] at hu
  exact Option.map_eq_some_iff.1 hu

end Conveys

/-! ### A holding passes to a group of the block (R131, R372) -/

/-- The heir once it has received a holding of this kind, in a context whose critical groups are allowed this much (R45, R71). -/
def Group.inherit (g : Group) (allow : BitVec 16) (kind : Nat) : Group :=
  let g := { g with eseq := g.eseq + 1, bereave := bereaved g.bereave kind }
  if kind = 0 then g.lockTaken allow else g

theorem Group.inherit_eq (g : Group) (allow : BitVec 16) (kind : Nat) : g.inherit allow kind = { g with
    eseq := g.eseq + 1, bereave := bereaved g.bereave kind, crit := g.crit || kind == 0
    callow := if g.crit = false ∧ kind = 0 then allow else g.callow } := by
  unfold Group.inherit
  by_cases hk : kind = 0
  · cases hc : g.crit <;> simp [hk, Group.lockTaken]
  · simp [hk]

/-- The entry of a holding that member x has received as its holding number `order`. -/
def Estate.inherited (e : Estate) (x : Member) (order : Word) : Estate :=
  { e with hmem := memberOf x.core, hslot := x.slot, uid := x.uid, order, brv := true }

/-- A claim passes to member x (R372). -/
def Claim.passTo (x : Member) (cl : Claim) : Claim := { cl with holder := x.slot, uid := x.uid }

/-- A share passes to member x, in the tickets of its COPY.MC (R372). -/
def Ticket.passShare (e : Estate) (x : Member) (t : Ticket) : Ticket :=
  if t.num == e.aux then { t with owners := t.owners.set (e.key.toNat / 64) x.uid } else t

/-- What a claim and a wharf share change beside the estate (R372). -/
def Mach.passObject (m : Mach) (c : Nat) (e : Estate) (x : Member) : Mach :=
  match e.kind with
  | 4 => m.modCore c (fun k => { k with claims := match k.claims.get? e.key.toNat with
      | some cl => k.claims.set e.key.toNat (cl.passTo x)
      | none => k.claims })
  | 5 => m.modCluster (clusterOf c) (fun k => { k with tickets := k.tickets.map (·.passShare e x) })
  | _ => m

def Mach.setEstate (m : Mach) (c i : Nat) (e : Estate) : Mach := m.modCore c (fun k => { k with estate := k.estate.set i e })

theorem Mach.passOn_eq {m : Mach} {x : Member} {h : Group} (hh : m.group? x.core x.slot = some h) (hu : h.uid = x.uid) (c i : Nat)
    (e : Estate) : m.passOn c i e x =
      ((m.setEstate c i (e.inherited x h.eseq)).setGroup x.core x.slot (h.inherit (m.ctx h.id.ctx).callow e.kind)).passObject c e x := by
  have hfind : m.findGroup x.core x.slot x.uid = some h := by simp [Mach.findGroup, Mach.seat, hh, hu]
  have hh1 : (m.setEstate c i (e.inherited x h.eseq)).group? x.core x.slot = some h := by
    unfold Mach.setEstate
    by_cases hc : x.core = c
    · subst hc
      rwa [Mach.group?_modCore rfl]
    · rwa [Mach.group?, Mach.core_modCore_ne _ _ hc]
  have hmod := Mach.modUid_resident hh1 (fun g => g.inherit (m.ctx h.id.ctx).callow e.kind)
  rw [hu] at hmod
  unfold Mach.passOn
  rw [hfind, ← hmod]
  rfl

theorem Mach.passObject_claim {e : Estate} (he : e.kind = 4) (m : Mach) (c : Nat) (x : Member) : m.passObject c e x =
    m.modCore c (fun k => { k with claims := match k.claims.get? e.key.toNat with
      | some cl => k.claims.set e.key.toNat (cl.passTo x)
      | none => k.claims }) := by
  unfold Mach.passObject
  rw [he]
  rfl

theorem Mach.passObject_share {e : Estate} (he : e.kind = 5) (m : Mach) (c : Nat) (x : Member) : m.passObject c e x =
    m.modCluster (clusterOf c) (fun k => { k with tickets := k.tickets.map (·.passShare e x) }) := by
  unfold Mach.passObject
  rw [he]
  rfl

theorem Mach.passObject_other {e : Estate} (h4 : e.kind ≠ 4) (h5 : e.kind ≠ 5) (m : Mach) (c : Nat) (x : Member) :
    m.passObject c e x = m := by
  unfold Mach.passObject
  split
  · contradiction
  · contradiction
  · rfl

theorem Mach.cases_passObject (e : Estate) (m : Mach) (c : Nat) (x : Member) {P : Mach → Prop} (hother : P m)
    (hclaim : ∀ f : Core → SMap Claim, P (m.modCore c (fun k => { k with claims := f k })))
    (hshare : ∀ f : Cluster → List Ticket, P (m.modCluster (clusterOf c) (fun k => { k with tickets := f k }))) :
    P (m.passObject c e x) := by
  by_cases h4 : e.kind = 4
  · rw [Mach.passObject_claim h4]
    exact hclaim _
  · by_cases h5 : e.kind = 5
    · rw [Mach.passObject_share h5]
      exact hshare _
    · rwa [Mach.passObject_other h4 h5]

theorem Conveys.passObject (m : Mach) (c : Nat) (e : Estate) (x : Member) : Conveys m (m.passObject c e x) :=
  Mach.cases_passObject e m c x (.refl m) (fun _ => .modCore m c rfl rfl) (fun _ => .modCluster m (clusterOf c) rfl)

theorem SameMemory.modCore {m : Mach} {c : Nat} {f : Core → Core} (h : (f (m.core c)).frames = (m.core c).frames) :
    SameMemory m (m.modCore c f) where
  dram _ := rfl
  host _ := rfl
  fabric _ := rfl
  peers _ _ := rfl
  tags := rfl
  ecc := rfl
  spad _ _ := rfl
  frames k n := by
    by_cases hk : k = c
    · subst hk
      rw [Mach.core_modCore_self, Core.frame, h]
      rfl
    · rw [Mach.core_modCore_ne _ _ hk]

theorem SameMemory.passObject (m : Mach) (c : Nat) (e : Estate) (x : Member) : SameMemory m (m.passObject c e x) :=
  Mach.cases_passObject e m c x (.refl m) (fun _ => .modCore rfl) (fun _ => .modCluster fun _ => rfl)

theorem Mach.group?_passObject (m : Mach) (c : Nat) (e : Estate) (x : Member) (k n : Nat) :
    (m.passObject c e x).group? k n = m.group? k n := by
  refine Mach.cases_passObject e m c x (P := fun m1 => m1.group? k n = m.group? k n) rfl (fun f => ?_) (fun f => rfl)
  by_cases hk : k = c
  · subst hk
    exact Mach.group?_modCore rfl
  · rw [Mach.group?, Mach.core_modCore_ne _ _ hk]
    rfl

theorem Mach.estate_passObject (m : Mach) (c : Nat) (e : Estate) (x : Member) (k : Nat) :
    ((m.passObject c e x).core k).estate = (m.core k).estate := by
  refine Mach.cases_passObject e m c x (P := fun m1 => (m1.core k).estate = (m.core k).estate) rfl (fun f => ?_) (fun f => rfl)
  by_cases hk : k = c
  · subst hk
    rw [Mach.core_modCore_self]
  · rw [Mach.core_modCore_ne _ _ hk]

theorem Mach.claims_passObject (m : Mach) (c : Nat) (e : Estate) (x : Member) (k key : Nat) :
    ((m.passObject c e x).core k).claims.get? key = if e.kind = 4 ∧ k = c ∧ key = e.key.toNat then
      ((m.core k).claims.get? key).map (·.passTo x) else (m.core k).claims.get? key := by
  by_cases h4 : e.kind = 4
  · rw [Mach.passObject_claim h4]
    by_cases hk : k = c
    · subst hk
      rw [Mach.core_modCore_self]
      by_cases hkey : key = e.key.toNat
      · subst hkey
        cases hcl : (m.core k).claims.get? e.key.toNat <;> simp [h4, hcl]
      · cases hcl : (m.core k).claims.get? e.key.toNat <;> simp [hkey, SMap.get?_set]
    · simp [Mach.core_modCore_ne _ _ hk, hk]
  · rw [if_neg fun h => h4 h.1]
    by_cases h5 : e.kind = 5
    · rw [Mach.passObject_share h5]
      rfl
    · rw [Mach.passObject_other h4 h5]

theorem Mach.tickets_passObject (m : Mach) (c : Nat) (e : Estate) (x : Member) (cl : Nat) :
    ((m.passObject c e x).cluster cl).tickets = if e.kind = 5 ∧ cl = clusterOf c then
      (m.cluster cl).tickets.map (·.passShare e x) else (m.cluster cl).tickets := by
  by_cases h5 : e.kind = 5
  · rw [Mach.passObject_share h5, Mach.modCluster]
    by_cases hcl : cl = clusterOf c
    · subst hcl
      simp [h5]
    · simp [Mach.cluster_setCluster_ne _ _ hcl, hcl]
  · rw [if_neg fun h => h5 h.1]
    by_cases h4 : e.kind = 4
    · rw [Mach.passObject_claim h4]
      rfl
    · rw [Mach.passObject_other h4 h5]

/-- What a holding's passing to the group h in the seat of member x does, and what it keeps. -/
structure PassesOn (m m1 : Mach) (c i : Nat) (e : Estate) (x : Member) (h : Group) : Prop where
  keeps : Conveys m m1
  memory : SameMemory m m1
  heir : m1.group? x.core x.slot = some (h.inherit (m.ctx h.id.ctx).callow e.kind)
  estate : ∀ k n, (m1.core k).estate.get? n = if k = c ∧ n = i then some (e.inherited x h.eseq) else (m.core k).estate.get? n
  claims : ∀ k key, (m1.core k).claims.get? key = if e.kind = 4 ∧ k = c ∧ key = e.key.toNat then
    ((m.core k).claims.get? key).map (·.passTo x) else (m.core k).claims.get? key
  tickets : ∀ cl, (m1.cluster cl).tickets = if e.kind = 5 ∧ cl = clusterOf c then
    (m.cluster cl).tickets.map (·.passShare e x) else (m.cluster cl).tickets

theorem Mach.estate_setEstate (m : Mach) (c i : Nat) (e : Estate) (k n : Nat) : ((m.setEstate c i e).core k).estate.get? n =
    if k = c ∧ n = i then some e else (m.core k).estate.get? n := by
  unfold Mach.setEstate
  by_cases hk : k = c
  · subst hk
    simp [SMap.get?_set]
  · simp [Mach.core_modCore_ne _ _ hk, hk]

theorem Mach.group?_setEstate (m : Mach) (c i : Nat) (e : Estate) (k n : Nat) : (m.setEstate c i e).group? k n = m.group? k n := by
  unfold Mach.setEstate
  by_cases hk : k = c
  · subst hk
    exact Mach.group?_modCore rfl
  · rw [Mach.group?, Mach.core_modCore_ne _ _ hk]
    rfl

theorem Mach.claims_setEstate (m : Mach) (c i : Nat) (e : Estate) (k : Nat) : ((m.setEstate c i e).core k).claims = (m.core k).claims := by
  unfold Mach.setEstate
  by_cases hk : k = c
  · subst hk
    rw [Mach.core_modCore_self]
  · rw [Mach.core_modCore_ne _ _ hk]

theorem Mach.passesOn {m : Mach} {x : Member} {h : Group} (hh : m.group? x.core x.slot = some h) (hu : h.uid = x.uid) (c i : Nat)
    (e : Estate) : PassesOn m (m.passOn c i e x) c i e x h := by
  rw [Mach.passOn_eq hh hu]
  set h1 := h.inherit (m.ctx h.id.ctx).callow e.kind with hh1
  set m0 := m.setEstate c i (e.inherited x h.eseq) with hm0
  set m1 := m0.setGroup x.core x.slot h1 with hm1
  have hg0 : m0.group? x.core x.slot = some h := (Mach.group?_setEstate ..).trans hh
  have hstep : GroupsOnly m0 m1 := .setGroup ..
  exact
    { keeps := (Conveys.modCore m c rfl rfl).trans ((Conveys.setGroup hg0 (by rw [hh1, Group.inherit_eq])
        (by rw [hh1, Group.inherit_eq])).trans (.passObject ..))
      memory := (SameMemory.modCore rfl).trans (hstep.memory.trans (.passObject ..))
      heir := by rw [Mach.group?_passObject, hm1, Mach.group?_setGroup_self]
      estate := fun k n => by rw [Mach.estate_passObject, hstep.cores k, hm0, Mach.estate_setEstate]
      claims := fun k key => by rw [Mach.claims_passObject, hstep.cores k, hm0, Mach.claims_setEstate]
      tickets := fun cl => by rw [Mach.tickets_passObject, hstep.cluster cl]; rfl }

/-! ### Every holding passes to one heir -/

def Mach.passAll (m : Mach) (hs : List (Nat × Nat × Estate)) (x : Member) : Mach :=
  hs.foldl (fun m e => m.passOn e.1 e.2.1 e.2.2 x) m

section
variable {x : Member}

/-- What every step keeps, the whole keeps. -/
theorem Mach.passAll_keeps {P : Mach → Prop} (hs : List (Nat × Nat × Estate))
    (hstep : ∀ m m1 h, ∀ e ∈ hs, PassesOn m m1 e.1 e.2.1 e.2.2 x h → P m → P m1) {m : Mach} {h : Group}
    (hh : m.group? x.core x.slot = some h) (hu : h.uid = x.uid) (hP : P m) : P (m.passAll hs x) := by
  induction hs generalizing m h with
  | nil => exact hP
  | cons e hs ih =>
    have hfirst := Mach.passesOn hh hu e.1 e.2.1 e.2.2
    exact ih (fun m m1 h e' he' => hstep m m1 h e' (List.mem_cons_of_mem _ he')) hfirst.heir (by rw [Group.inherit_eq]; exact hu)
      (hstep _ _ _ _ (List.mem_cons_self ..) hfirst hP)

/-- What the step of one holding brings about, and every step keeps, the whole brings about. -/
theorem Mach.passAll_brings {P Q : Mach → Prop} {hs : List (Nat × Nat × Estate)} {e : Nat × Nat × Estate} (he : e ∈ hs)
    (hP : ∀ m m1 h (e : Nat × Nat × Estate), PassesOn m m1 e.1 e.2.1 e.2.2 x h → P m → P m1) (hQ : ∀ m m1 h (e : Nat × Nat × Estate), PassesOn m m1 e.1 e.2.1 e.2.2 x h → Q m → Q m1)
    (hstep : ∀ m m1 h, PassesOn m m1 e.1 e.2.1 e.2.2 x h → P m → Q m1) {m : Mach} {h : Group}
    (hh : m.group? x.core x.slot = some h) (hu : h.uid = x.uid) (hm : P m) : Q (m.passAll hs x) := by
  induction hs generalizing m h with
  | nil => cases he
  | cons e0 hs ih =>
    have hfirst := Mach.passesOn hh hu e0.1 e0.2.1 e0.2.2
    have hu1 : (h.inherit (m.ctx h.id.ctx).callow e0.2.2.kind).uid = x.uid := by rw [Group.inherit_eq]; exact hu
    obtain rfl | he := List.mem_cons.1 he
    · exact Mach.passAll_keeps hs (fun m m1 h e _ => hQ m m1 h e) hfirst.heir hu1 (hstep _ _ _ hfirst hm)
    · exact ih he hfirst.heir hu1 (hP _ _ _ _ hfirst hm)

theorem Conveys.passAll (hs : List (Nat × Nat × Estate)) {m : Mach} {h : Group} (hh : m.group? x.core x.slot = some h)
    (hu : h.uid = x.uid) : Conveys m (m.passAll hs x) :=
  Mach.passAll_keeps (P := Conveys m) hs (fun _ _ _ _ _ hstep hm => hm.trans hstep.keeps) hh hu (.refl m)

theorem SameMemory.passAll (hs : List (Nat × Nat × Estate)) {m : Mach} {h : Group} (hh : m.group? x.core x.slot = some h)
    (hu : h.uid = x.uid) : SameMemory m (m.passAll hs x) :=
  Mach.passAll_keeps (P := SameMemory m) hs (fun _ _ _ _ _ hstep hm => hm.trans hstep.memory) hh hu (.refl m)

theorem Mach.passAll_heir (hs : List (Nat × Nat × Estate)) {m : Mach} {h : Group} (hh : m.group? x.core x.slot = some h)
    (hu : h.uid = x.uid) : (m.passAll hs x).group? x.core x.slot =
      some ((hs.map (·.2.2.kind)).foldl (·.inherit (m.ctx h.id.ctx).callow) h) := by
  induction hs generalizing m h with
  | nil => exact hh
  | cons e hs ih =>
    have hfirst := Mach.passesOn hh hu e.1 e.2.1 e.2.2
    have hrest := ih hfirst.heir (by rw [Group.inherit_eq]; exact hu)
    rwa [hfirst.keeps.ctx, show (h.inherit (m.ctx h.id.ctx).callow e.2.2.kind).id = h.id by rw [Group.inherit_eq]] at hrest

theorem Mach.passAll_estate_of_notMem {hs : List (Nat × Nat × Estate)} {k n : Nat} (hn : ∀ e ∈ hs, ¬(k = e.1 ∧ n = e.2.1)) {m : Mach}
    {h : Group} (hh : m.group? x.core x.slot = some h) (hu : h.uid = x.uid) :
    ((m.passAll hs x).core k).estate.get? n = (m.core k).estate.get? n :=
  Mach.passAll_keeps (P := fun m1 => (m1.core k).estate.get? n = (m.core k).estate.get? n) hs
    (fun m0 m1 h e he hstep hm => by rw [hstep.estate, if_neg (hn e he), hm]) hh hu rfl

theorem Mach.passAll_estate {hs : List (Nat × Nat × Estate)} (hnodup : (hs.map (fun e => (e.1, e.2.1))).Nodup) {m : Mach} {h : Group}
    (hh : m.group? x.core x.slot = some h) (hu : h.uid = x.uid) {n : Nat} {e : Nat × Nat × Estate} (he : hs[n]? = some e) :
    ((m.passAll hs x).core e.1).estate.get? e.2.1 = some (e.2.2.inherited x (h.eseq + BitVec.ofNat 32 n)) := by
  induction hs generalizing m h n with
  | nil => simp at he
  | cons e0 hs ih =>
    rw [List.map_cons, List.nodup_cons] at hnodup
    obtain ⟨hnot, hnodup⟩ := hnodup
    have hfirst := Mach.passesOn hh hu e0.1 e0.2.1 e0.2.2
    have hu1 : (h.inherit (m.ctx h.id.ctx).callow e0.2.2.kind).uid = x.uid := by rw [Group.inherit_eq]; exact hu
    cases n with
    | zero =>
      obtain rfl : e0 = e := by simpa using he
      have hlast := Mach.passAll_estate_of_notMem (x := x) (hs := hs) (k := e0.1) (n := e0.2.1)
        (fun e he heq => hnot (List.mem_map.2 ⟨e, he, Prod.ext heq.1.symm heq.2.symm⟩)) hfirst.heir hu1
      exact hlast.trans (by rw [hfirst.estate, if_pos ⟨rfl, rfl⟩, BitVec.add_zero])
    | succ n =>
      have hlater := ih hnodup hfirst.heir hu1 (by simpa using he)
      refine hlater.trans (congrArg (fun o => some (e.2.2.inherited x o)) ?_)
      rw [Group.inherit_eq, BitVec.ofNat_add, BitVec.add_comm (BitVec.ofNat 32 n), ← BitVec.add_assoc]
      rfl

theorem Mach.passAll_claims {hs : List (Nat × Nat × Estate)} {e : Nat × Nat × Estate} (he : e ∈ hs) (hkind : e.2.2.kind = 4) {m : Mach}
    {h : Group} (hh : m.group? x.core x.slot = some h) (hu : h.uid = x.uid) {cl : Claim}
    (hcl : (m.core e.1).claims.get? e.2.2.key.toNat = some cl) :
    ((m.passAll hs x).core e.1).claims.get? e.2.2.key.toNat = some (cl.passTo x) := by
  refine Mach.passAll_brings (P := fun m => ((m.core e.1).claims.get? e.2.2.key.toNat) = some cl ∨
    ((m.core e.1).claims.get? e.2.2.key.toNat) = some (cl.passTo x))
    (Q := fun m => ((m.core e.1).claims.get? e.2.2.key.toNat) = some (cl.passTo x)) he
    (fun m m1 h e' hstep hm => ?_) (fun m m1 h e' hstep hm => ?_) (fun m m1 h hstep hm => ?_) hh hu (.inl hcl)
  · rw [hstep.claims]
    split
    · obtain hm | hm := hm <;> exact .inr (by rw [hm]; rfl)
    · exact hm
  · rw [hstep.claims]
    split
    · rw [hm]
      rfl
    · exact hm
  · rw [hstep.claims, if_pos ⟨hkind, rfl, rfl⟩]
    obtain hm | hm := hm <;> rw [hm] <;> rfl

@[simp] theorem Ticket.passShare_num (e : Estate) (t : Ticket) : (t.passShare e x).num = t.num := by
  unfold Ticket.passShare
  split <;> rfl

/-- The share of receiver bit `bit` is the member's, in every ticket of COPY.MC number num on the cluster. -/
def SharePassed (x : Member) (cl num bit : Nat) (m : Mach) : Prop :=
  ∀ t ∈ (m.cluster cl).tickets, t.num = num → t.owners.get? bit = some x.uid

theorem SharePassed.step {cl num bit : Nat} {m m1 : Mach} {h : Group} {e : Nat × Nat × Estate}
    (hstep : PassesOn m m1 e.1 e.2.1 e.2.2 x h) (hm : SharePassed x cl num bit m) : SharePassed x cl num bit m1 := by
  unfold SharePassed
  rw [hstep.tickets]
  split
  · intro t ht hnum
    obtain ⟨t0, ht0, rfl⟩ := List.mem_map.1 ht
    rw [Ticket.passShare_num] at hnum
    have hold := hm t0 ht0 hnum
    unfold Ticket.passShare
    split
    · rw [SMap.get?_set]
      split
      · rfl
      · exact hold
    · exact hold
  · exact hm

theorem Mach.passAll_shares {hs : List (Nat × Nat × Estate)} {e : Nat × Nat × Estate} (he : e ∈ hs) (hkind : e.2.2.kind = 5) {m : Mach}
    {h : Group} (hh : m.group? x.core x.slot = some h) (hu : h.uid = x.uid) :
    SharePassed x (clusterOf e.1) e.2.2.aux (e.2.2.key.toNat / 64) (m.passAll hs x) := by
  refine Mach.passAll_brings (P := fun _ => True) he (fun _ _ _ _ _ _ => trivial) (fun _ _ _ _ hstep hm => hm.step hstep)
    (fun m m1 h hstep _ t ht hnum => ?_) hh hu trivial
  rw [hstep.tickets, if_pos ⟨hkind, rfl⟩] at ht
  obtain ⟨t0, -, rfl⟩ := List.mem_map.1 ht
  rw [Ticket.passShare_num] at hnum
  simp [Ticket.passShare, hnum]

end

/-! ### What an heir of several holdings has become -/

theorem Group.inheritAll_eq (kinds : List Nat) (g : Group) (allow : BitVec 16) : kinds.foldl (·.inherit allow) g = { g with
    eseq := g.eseq + BitVec.ofNat 32 kinds.length, bereave := kinds.foldl bereaved g.bereave, crit := g.crit || kinds.any (· == 0)
    callow := if g.crit = false ∧ 0 ∈ kinds then allow else g.callow } := by
  induction kinds generalizing g with
  | nil => simp
  | cons kind kinds ih =>
    have hseq : g.eseq + 1#32 + BitVec.ofNat 32 kinds.length = g.eseq + BitVec.ofNat 32 (kinds.length + 1) := by
      rw [BitVec.ofNat_add, BitVec.add_comm (BitVec.ofNat 32 kinds.length), ← BitVec.add_assoc]
    rw [List.foldl_cons, ih, Group.inherit_eq]
    cases hc : g.crit <;> by_cases hk : kind = 0 <;> simp [hseq, hk, @eq_comm Nat 0 kind]

/-- BEREAVE's bit of a kind (R71). -/
theorem getLsbD_bereaved (b : BitVec 32) {kind k : Nat} (hk : k < 16) :
    (bereaved b kind).getLsbD k = (b.getLsbD k || kind == k) := by
  have hk32 : k < 32 := by omega
  have hone : (1#32 <<< kind).getLsbD k = (kind == k) := by
    rw [BitVec.getLsbD_shiftLeft, BitVec.getLsbD_one]
    by_cases h : kind = k
    · simp [h, hk32]
    · by_cases hlt : k < kind
      · simp [h, hlt]
      · have : k - kind ≠ 0 := by omega
        simp [h, this]
  rw [bereaved, BitVec.getLsbD_or, hone, BitVec.getLsbD_append, if_pos hk, BitVec.getLsbD_extractLsb']
  simp [hk]

theorem getLsbD_bereavedAll (kinds : List Nat) (b : BitVec 32) {k : Nat} (hk : k < 16) :
    (kinds.foldl bereaved b).getLsbD k = (b.getLsbD k || kinds.any (· == k)) := by
  induction kinds generalizing b with
  | nil => simp
  | cons kind kinds ih =>
    rw [List.foldl_cons, ih, getLsbD_bereaved b hk, List.any_cons, Bool.or_assoc]

/-- BEREAVE's count, which stays at its highest value (R71). -/
theorem count_bereaved (b : BitVec 32) {kind : Nat} (hkind : kind < 16) :
    ((bereaved b kind).extractLsb' 16 16).toNat = min 65535 ((b.extractLsb' 16 16).toNat + 1) := by
  set n := b.extractLsb' 16 16 with hn
  have hlow : (1#32 <<< kind).extractLsb' 16 16 = 0#16 := by
    ext i hi
    have hlt : ¬ 16 + i < kind := by omega
    have hne : 16 + i - kind ≠ 0 := by omega
    simp [hlt, hne, BitVec.getLsbD_one]
  have hcount : (bereaved b kind).extractLsb' 16 16 = if n = BitVec.allOnes 16 then n else n + 1 := by
    rw [bereaved, BitVec.extractLsb'_or, hlow, BitVec.or_zero]
    generalize (if n = BitVec.allOnes 16 then n else n + 1) = z
    ext i hi
    rw [BitVec.getElem_extractLsb', BitVec.getLsbD_append, if_neg (Nat.not_lt.2 (Nat.le_add_right 16 i)), Nat.add_sub_cancel_left,
      BitVec.getLsbD_eq_getElem hi]
  rw [hcount]
  have hlt := n.isLt
  split
  · next h => rw [h]; decide
  · next h =>
    have hne : n.toNat ≠ 65535 := fun h' => h (BitVec.eq_of_toNat_eq (by simpa using h'))
    rw [BitVec.toNat_add]
    simp
    omega

theorem count_bereavedAll {kinds : List Nat} (h16 : ∀ k ∈ kinds, k < 16) (b : BitVec 32) :
    ((kinds.foldl bereaved b).extractLsb' 16 16).toNat = min 65535 ((b.extractLsb' 16 16).toNat + kinds.length) := by
  induction kinds generalizing b with
  | nil =>
    have hlt := (b.extractLsb' 16 16).isLt
    simp
    omega
  | cons kind kinds ih =>
    rw [List.foldl_cons, ih (fun k hk => h16 k (List.mem_cons_of_mem _ hk)), count_bereaved b (h16 kind (List.mem_cons_self ..)),
      List.length_cons]
    omega

/-! ### The gang is broken, and the end of the group is marked -/

theorem Mach.group?_modUid (m : Mach) (core slot uid : Nat) (f : Group → Group) (c k : Nat) :
    (m.modUid core slot uid f).group? c k = m.group? c k ∨
      ∃ g, m.group? c k = some g ∧ (m.modUid core slot uid f).group? c k = some (f g) := by
  unfold Mach.modUid
  split
  · next n _ =>
    unfold Mach.modGroup
    split
    · next g hg =>
      by_cases hc : c = core
      · subst hc
        by_cases hk : k = n
        · subst hk
          exact .inr ⟨g, hg, Mach.group?_setGroup_self ..⟩
        · exact .inl (Mach.group?_setGroup_ne _ _ _ hk)
      · exact .inl (by rw [Mach.group?, Mach.core_setGroup_ne _ _ _ hc]; rfl)
    · exact .inl rfl
  · split
    · by_cases hc : c = core
      · subst hc
        exact .inl (Mach.group?_modCore rfl)
      · exact .inl (by rw [Mach.group?, Mach.core_modCore_ne _ _ hc]; rfl)
    · exact .inl rfl

/-- Of the groups in the seats only the gang registers have changed. -/
def GangsOnly (m m1 : Mach) : Prop := ∀ c k g, m.group? c k = some g → ∃ gang, m1.group? c k = some { g with gang }

theorem GangsOnly.refl (m : Mach) : GangsOnly m m := fun _ _ g hg => ⟨g.gang, hg⟩

theorem GangsOnly.trans {a b c : Mach} (h : GangsOnly a b) (h' : GangsOnly b c) : GangsOnly a c := by
  intro k n g hg
  obtain ⟨_, hg1⟩ := h k n g hg
  obtain ⟨gang, hg2⟩ := h' k n _ hg1
  exact ⟨gang, hg2⟩

theorem GangsOnly.modUid (m : Mach) (core slot uid : Nat) {f : Group → Group} (hf : ∀ g, ∃ gang, f g = { g with gang }) :
    GangsOnly m (m.modUid core slot uid f) := by
  intro c k g hg
  obtain hsame | ⟨g0, hg0, hnew⟩ := Mach.group?_modUid m core slot uid f c k
  · exact ⟨g.gang, hsame.trans hg⟩
  · obtain rfl : g0 = g := Option.some.inj (hg0.symm.trans hg)
    obtain ⟨gang, hgang⟩ := hf g0
    exact ⟨gang, hgang ▸ hnew⟩

/-- Where no latch is there, the gangs of the group's block break and nothing else changes (R66). -/
theorem Mach.breakGang_changes (m : Mach) (core bid gi : Nat) (hlatches : (m.core core).latches = []) :
    GroupsOnly m (m.breakGang core bid gi) ∧ Conveys m (m.breakGang core bid gi) ∧ GangsOnly m (m.breakGang core bid gi) := by
  unfold Mach.breakGang
  dsimp only
  split
  · exact ⟨.refl m, .refl m, .refl m⟩
  · next b _ =>
    set brk : Group → Group := fun g => if (List.range (g.gang.toNat % 8)).any (fun j => (g.gang.toNat >>> (8 + 8 * j)) % 256 == gi)
      then { g with gang := g.gang ||| 16 } else g with hbrk
    have hgang : ∀ g, ∃ gang, brk g = { g with gang } := fun g => by
      rw [hbrk]
      dsimp only
      split
      · exact ⟨_, rfl⟩
      · exact ⟨_, rfl⟩
    have huid : ∀ g, (brk g).uid = g.uid := fun g => by obtain ⟨_, h⟩ := hgang g; rw [h]
    have hwait : ∀ g, (brk g).wait = g.wait := fun g => by obtain ⟨_, h⟩ := hgang g; rw [h]
    set m1 := b.members.foldl (fun m e => if e.1 = gi then m else m.modUid e.2.core e.2.slot e.2.uid brk) m with hm1
    have hall : GroupsOnly m m1 ∧ Conveys m m1 ∧ GangsOnly m m1 :=
      foldl_keeps (fun m1 => GroupsOnly m m1 ∧ Conveys m m1 ∧ GangsOnly m m1) _ (fun m1 e ⟨h1, h2, h3⟩ => by
        split
        · exact ⟨h1, h2, h3⟩
        · exact ⟨h1.trans (.modUid ..), h2.trans (.modUid _ _ _ _ huid hwait), h3.trans (.modUid _ _ _ _ hgang)⟩) _ m
        ⟨.refl m, .refl m, .refl m⟩
    have hnone : (m1.core core).latches = [] := by rw [hall.1.cores core]; exact hlatches
    rw [hnone]
    exact hall

theorem GroupsOnly.modEnding (m : Mach) (core slot uid : Nat) (f : Ending → Ending) : GroupsOnly m (m.modEnding core slot uid f) :=
  .modUid ..

theorem Conveys.modEnding (m : Mach) (core slot uid : Nat) (f : Ending → Ending) : Conveys m (m.modEnding core slot uid f) :=
  .modUid _ _ _ _ (fun _ => rfl) (fun _ => rfl)

/-- The mark is made in the seat of the group that has ended, and nowhere else. -/
theorem Mach.group?_modEnding {m : Mach} {core slot : Nat} {g : Group} (hg : m.group? core slot = some g) (f : Ending → Ending)
    {c k : Nat} (hck : ¬(c = core ∧ k = slot)) : (m.modEnding core slot g.uid f).group? c k = m.group? c k := by
  rw [Mach.modEnding, Mach.modUid_resident hg]
  by_cases hc : c = core
  · subst hc
    exact Mach.group?_setGroup_ne _ _ _ fun hk => hck ⟨rfl, hk⟩
  · rw [Mach.group?, Mach.core_setGroup_ne _ _ _ hc]
    rfl

/-! ### The group leaves its core, and its block goes on -/

theorem Mach.growServe_of_waitless {m : Mach} {core : Nat} (h : ∀ e ∈ (m.core core).groups, e.2.wait = none) (lane n : Nat) :
    m.growServe core lane n = m := by
  have hnone : (m.core core).growers lane = [] := by
    refine List.eq_nil_iff_forall_not_mem.2 fun x hx => ?_
    rw [Core.growers, List.mem_mergeSort, List.mem_filterMap] at hx
    obtain ⟨e, he, hsome⟩ := hx
    rw [h e he] at hsome
    cases hsome
  cases n with
  | zero => rfl
  | succ n => simp only [Mach.growServe, hnone]

/-- A core without the group of a slot: its lane and its mailbox entries are free too (R340). -/
def Core.withoutSeat (c : Core) (slot : Nat) : Core := { c.releaseLane slot with groups := c.groups.erase slot }.freeMailbox slot

/-- What freeing a seat changes beside groups, lanes and records: nothing. -/
theorem Core.withoutSeat_eq (c : Core) (slot : Nat) : c.withoutSeat slot = { c with
    groups := c.groups.erase slot, lanes := (c.releaseLane slot).lanes, mbox := (c.withoutSeat slot).mbox
    mseq := (c.withoutSeat slot).mseq, stopList := (c.withoutSeat slot).stopList } := by
  unfold Core.withoutSeat Core.freeMailbox Core.fillMailbox
  split
  · rfl
  · split <;> rfl

theorem Mach.freeSeat_eq {m : Mach} {core slot : Nat} {g g1 : Group} (hg : m.group? core slot = some g1) (hu : g1.uid = g.uid)
    (hw : ∀ e ∈ (m.core core).groups, e.2.wait = none) : m.freeSeat core slot g = (m.modCore core (·.withoutSeat slot)).opportunity := by
  have hseat : m.seat core slot g.uid = some slot := by simp [Mach.seat, hg, hu]
  have hleft : ∀ e ∈ ((m.modCore core (·.withoutSeat slot)).core core).groups, e.2.wait = none := by
    rw [Mach.core_modCore_self, Core.withoutSeat_eq]
    exact fun e he => hw e (List.mem_filter.1 he).1
  unfold Mach.freeSeat
  rw [hseat]
  exact congrArg Mach.opportunity (Mach.growServe_of_waitless hleft (laneOf slot) 16)

theorem Mach.servePages_of_idle {m : Mach} {cl : Nat} (h : ∀ i < 8, (m.core (8 * cl + i)).ops = []) : m.servePages cl = m := by
  rw [Mach.servePages_eq]
  exact foldl_fixed_of_mem _ fun i hi => by rw [h i (List.mem_range.1 hi)]; rfl

theorem Mach.serveOps_of_idle {m : Mach} {core : Nat} (h : (m.core core).ops = []) : m.serveOps core = m := by
  rw [Mach.serveOps, h]
  rfl

/-- With no operation of a core of the cluster under way there is nothing to serve. -/
theorem Mach.serveCore_of_idle {m : Mach} {core : Nat} (h : ∀ i < 8, (m.core (8 * clusterOf core + i)).ops = []) :
    m.serveCore core = m := by
  have hcore : 8 * clusterOf core + core % 8 = core := by unfold clusterOf; omega
  have hown := h (core % 8) (Nat.mod_lt _ (by decide))
  rw [hcore] at hown
  rw [Mach.serveCore, Mach.servePages_of_idle h, Mach.serveOps_of_idle hown]

/-- Of the clusters only blocks have changed. -/
structure BlocksOnly (m m1 : Mach) : Prop where
  mach : m1 = { m with clusters := m1.clusters }
  clusters : ∀ cl, m1.cluster cl = { m.cluster cl with blocks := (m1.cluster cl).blocks }

namespace BlocksOnly

theorem refl (m : Mach) : BlocksOnly m m := ⟨rfl, fun _ => rfl⟩

theorem trans {a b c : Mach} (h : BlocksOnly a b) (h' : BlocksOnly b c) : BlocksOnly a c :=
  ⟨by rw [h'.mach, h.mach], fun k => by rw [h'.clusters, h.clusters]⟩

theorem modBlock (m : Mach) (cl bid : Nat) (f : Block → Block) : BlocksOnly m (m.modBlock cl bid f) := by
  refine ⟨rfl, fun k => ?_⟩
  unfold Mach.modBlock Mach.modCluster
  by_cases hk : k = cl
  · subst hk
    rw [Mach.cluster_setCluster_self]
    dsimp only
    split <;> rfl
  · rw [Mach.cluster_setCluster_ne _ _ hk]

theorem core {m m1 : Mach} (h : BlocksOnly m m1) (c : Nat) : m1.core c = m.core c := by
  rw [h.mach]
  rfl

theorem memory {m m1 : Mach} (h : BlocksOnly m m1) : SameMemory m m1 := by
  have e := h.mach
  refine ⟨fun a => by rw [e], fun a => by rw [e], fun a => by rw [e], fun d a => by rw [e], by rw [e], by rw [e],
    fun c a => by rw [h.clusters]; rfl, fun c f => by rw [h.core]⟩

end BlocksOnly

theorem Mach.block_modBlock {m : Mach} {cl bid : Nat} {b : Block} (hb : (m.cluster cl).blocks.get? bid = some b) (f : Block → Block) :
    ((m.modBlock cl bid f).cluster cl).blocks.get? bid = some (f b) := by
  simp [Mach.modBlock, Mach.modCluster, hb]

/-- Where the hub holds no answers, and another member has not ended, the block only marks its member. -/
theorem Mach.memberEnd_changes {m : Mach} {core : Nat} {g : Group} {b : Block} {j : Nat} {x : Member}
    (hb : (m.cluster (clusterOf core)).blocks.get? g.id.block = some b) (hheld : b.heldReleases = []) (hx : b.members.get? j = some x)
    (hj : j ≠ g.id.gindex) (hlive : x.ended = false) : BlocksOnly m (m.memberEnd core g) := by
  set cl := clusterOf core with hcl
  set m1 := m.modBlock cl g.id.block (·.memberDone g.id.gindex) with hm1
  have hb1 : (m1.cluster cl).blocks.get? g.id.block = some (b.memberDone g.id.gindex) := Mach.block_modBlock hb _
  set m2 := m1.releaseAnswers cl g.id.block with hm2
  have hreleased : BlocksOnly m1 m2 ∧ ∃ b2, (m2.cluster cl).blocks.get? g.id.block = some b2 ∧
      b2.members = (b.memberDone g.id.gindex).members := by
    have hnone : (b.memberDone g.id.gindex).heldReleases = [] := hheld
    rw [hm2]
    unfold Mach.releaseAnswers
    rw [hb1]
    dsimp only
    split
    · exact ⟨.refl m1, _, hb1, rfl⟩
    · rw [hnone]
      exact ⟨.modBlock .., _, Mach.block_modBlock hb1 _, rfl⟩
  obtain ⟨hstep, b2, hb2, hmembers⟩ := hreleased
  have hother : b2.members.get? j = some x := by
    rw [hmembers]
    simp [Block.memberDone, SMap.get?_mapVals, hx, hj]
  have hnot : b2.members.all (fun x => x.2.ended) = false :=
    List.all_eq_false.2 ⟨_, SMap.mem_of_get? hother, by simp [hlive]⟩
  have hend : m.memberEnd core g = m2 := by
    unfold Mach.memberEnd
    dsimp only
    rw [← hcl, ← hm1, ← hm2, hb2]
    simp only [hnot, Bool.false_eq_true, if_false]
  rw [hend]
  exact (BlocksOnly.modBlock ..).trans hstep

/-- What the machine is like once the group of a seat has left its core and its block, where nothing waited for that. -/
structure Leaves (m m1 : Mach) (core slot : Nat) : Prop where
  memory : SameMemory m m1
  gone : m1.group? core slot = none
  groups : ∀ c k, ¬(c = core ∧ k = slot) → m1.group? c k = m.group? c k
  estate : ∀ c, (m1.core c).estate = (m.core c).estate
  claims : ∀ c, (m1.core c).claims = (m.core c).claims
  acc : ∀ c, (m1.core c).acc = (m.core c).acc
  tickets : ∀ cl, (m1.cluster cl).tickets = (m.cluster cl).tickets
  tasks : ∀ cl, (m1.cluster cl).tasks = (m.cluster cl).tasks

theorem Mach.leaves {m : Mach} {core slot : Nat} {g g1 : Group} {b : Block} {j : Nat} {x : Member}
    (hg : m.group? core slot = some g1) (hu : g1.uid = g.uid) (hw : ∀ e ∈ (m.core core).groups, e.2.wait = none)
    (hops : ∀ i < 8, (m.core (8 * clusterOf core + i)).ops = [])
    (hb : (m.cluster (clusterOf core)).blocks.get? g.id.block = some b) (hheld : b.heldReleases = []) (hx : b.members.get? j = some x)
    (hj : j ≠ g.id.gindex) (hlive : x.ended = false) :
    Leaves m (((m.freeSeat core slot g).memberEnd core g).serveCore core) core slot := by
  set m1 := (m.modCore core (·.withoutSeat slot)).opportunity with hm1
  set m2 := m1.memberEnd core g
  have hcore1 : ∀ c, m1.core c = if c = core then (m.core core).withoutSeat slot else m.core c := fun c => by
    show (m.modCore core (·.withoutSeat slot)).core c = _
    by_cases hc : c = core
    · rw [if_pos hc, hc]
      exact Mach.core_modCore_self m core _
    · rw [if_neg hc]
      exact Mach.core_modCore_ne m _ hc
  have hblocks : BlocksOnly m1 m2 := Mach.memberEnd_changes hb hheld hx hj hlive
  have hcore : ∀ c, m2.core c = if c = core then (m.core core).withoutSeat slot else m.core c := fun c => by rw [hblocks.core, hcore1]
  have hfield : ∀ {α : Type} (F : Core → α), F ((m.core core).withoutSeat slot) = F (m.core core) → ∀ c, F (m2.core c) = F (m.core c) := by
    intro α F hF c
    rw [hcore]
    split
    · next hc => rw [hF, hc]
    · rfl
  have hidle : m2.serveCore core = m2 := Mach.serveCore_of_idle fun i hi => by
    rw [hfield (·.ops) (by rw [Core.withoutSeat_eq])]
    exact hops i hi
  rw [Mach.freeSeat_eq hg hu hw, hidle]
  have hmem : SameMemory m m1 := (SameMemory.modCore (by rw [Core.withoutSeat_eq])).trans (.opportunity _)
  have hgroup : ∀ c k, m2.group? c k = if c = core ∧ k = slot then none else m.group? c k := fun c k => by
    rw [Mach.group?, hcore, Core.withoutSeat_eq]
    by_cases hc : c = core
    · subst hc
      simp [SMap.get?_erase, Mach.group?]
    · simp [hc, Mach.group?]
  exact
    { memory := hmem.trans hblocks.memory
      gone := by rw [hgroup, if_pos ⟨rfl, rfl⟩]
      groups := fun c k h => by rw [hgroup, if_neg h]
      estate := hfield (·.estate) (by rw [Core.withoutSeat_eq])
      claims := hfield (·.claims) (by rw [Core.withoutSeat_eq])
      acc := hfield (·.acc) (by rw [Core.withoutSeat_eq])
      tickets := fun cl => by rw [hblocks.clusters]; rfl
      tasks := fun cl => by rw [hblocks.clusters]; rfl }

/-! ### The step -/

/-- A group of a block has ended in its seat, and nothing that its end would set going waits on its core and its cluster. -/
structure Ends (m : Mach) (core slot : Nat) (g : Group) (b : Block) : Prop where
  seat : m.group? core slot = some g
  unconveyed : g.ending.any (fun e => e.conveyed) = false
  sup : g.id.sup = false
  settled : m.settling core g.uid = false
  block : m.block? core g = some b
  held : b.heldReleases = []
  latches : (m.core core).latches = []
  ops : ∀ i < 8, (m.core (8 * clusterOf core + i)).ops = []
  waits : ∀ e ∈ (m.core core).groups, e.2.wait = none

theorem exec_conveyance {s : State} {core slot : Nat} {g : Group} {en : Ending} (hclock : s.clock core = true)
    (hviral : s.mach.viral = false) (hg : s.mach.group? core slot = some g) (hen : g.ending = some en)
    (hready : s.mach.conveyable core g = true) :
    exec (.conveyance core slot) s = .next { s with mach := s.mach.convey core slot g } := by
  have hfound : (s.mach.endingGroups core slot).find? (fun x => s.mach.conveyable core x.1) = some (g, en) := by
    simp [Mach.endingGroups, hg, hen, hready]
  show execConveyance core slot s = _
  simp [execConveyance, State.during, hclock, hviral, hfound]

theorem Mach.estateOrder_congr {m m1 : Mach} (h : ∀ c, (m1.core c).estate = (m.core c).estate) (core : Nat) (g : Group) :
    m1.estateOrder core g = m.estateOrder core g := by
  simp only [Mach.estateOrder, Mach.holdings, h]

/-- The machine in which the gangs of the group's block are broken and its holdings are conveyed. -/
def Mach.handOver (m : Mach) (core : Nat) (g : Group) : Mach :=
  (m.estateOrder core g).foldl (fun m h => m.conveyOne core g h) (m.breakGang core g.id.block g.id.gindex)

/-- Once its holdings are conveyed and no settlement of them waits, the group leaves. -/
theorem Ends.leaves {m : Mach} {core slot : Nat} {g : Group} {b : Block} (h : Ends m core slot g b)
    (hkeeps : Conveys (m.breakGang core g.id.block g.id.gindex) (m.handOver core g)) {j : Nat} {x : Member}
    (hx : b.members.get? j = some x) (hj : j ≠ g.id.gindex) (hlive : x.ended = false) :
    Leaves (m.handOver core g) (m.convey core slot g) core slot := by
  obtain ⟨hbroken, hbreak, -⟩ := Mach.breakGang_changes m core g.id.block g.id.gindex h.latches
  set m1 := m.breakGang core g.id.block g.id.gindex with hm1
  set m2 := m.handOver core g with hm2
  obtain ⟨g2, hg2, hu2⟩ := (hbreak.trans hkeeps).seated h.seat
  set m3 := m2.modEnding core slot g.uid (fun e => { e with conveyed := true }) with hm3
  have hmark : Conveys m2 m3 := .modEnding ..
  have honly : GroupsOnly m2 m3 := .modEnding ..
  have hall : Conveys m m3 := hbreak.trans (hkeeps.trans hmark)
  obtain ⟨g3, hg3, hu3⟩ := hall.seated h.seat
  have hconveyed : m.conveyHoldings core slot g = m3 := by
    have horder : m1.estateOrder core g = m.estateOrder core g := Mach.estateOrder_congr (fun c => by rw [hbroken.cores]) core g
    unfold Mach.conveyHoldings
    rw [h.unconveyed, if_neg Bool.false_ne_true, ← hm1, Mach.conveyAll, horder]
    rfl
  have hblock : (m3.cluster (clusterOf core)).blocks.get? g.id.block = some b := by
    rw [hall.blocks]
    simpa [Mach.block?, h.sup] using h.block
  have hleave := Mach.leaves hg3 hu3 (hall.waits core h.waits) (fun i hi => (hall.ops _).trans (h.ops i hi)) hblock h.held hx hj hlive
  have hgo : m.convey core slot g = ((m3.freeSeat core slot g).memberEnd core g).serveCore core := by
    unfold Mach.convey
    rw [hconveyed]
    exact if_neg (by rw [hall.settling, h.settled]; exact Bool.false_ne_true)
  rw [hgo]
  exact
    { memory := honly.memory.trans hleave.memory
      gone := hleave.gone
      groups := fun c k hck => (hleave.groups c k hck).trans (by rw [hm3, ← hu2, Mach.group?_modEnding hg2 _ hck])
      estate := fun c => by rw [hleave.estate, honly.cores]
      claims := fun c => by rw [hleave.claims, honly.cores]
      acc := fun c => by rw [hleave.acc, honly.cores]
      tickets := fun cl => by rw [hleave.tickets, honly.cluster]
      tasks := fun cl => by rw [hleave.tasks, honly.cluster] }

/-! ### One heir of every holding -/

theorem Mach.conveyOne_heir {m : Mach} {core : Nat} {g : Group} {b : Block} (hb : m.block? core g = some b) {h : Nat × Nat × Estate}
    {j : Nat} {x : Member} (hj : b.heirOf h.2.2.heir h.2.2.hidx g.id.gindex = some j) (hx : b.members.get? j = some x) :
    m.conveyOne core g h = m.passOn h.1 h.2.1 h.2.2 x := by
  simp only [Mach.conveyOne, hb, hj, hx]

theorem Mach.foldl_conveyOne_heir {core : Nat} {g h : Group} {b : Block} {j : Nat} {x : Member} (hx : b.members.get? j = some x) {hs}
    (hheirs : ∀ e ∈ hs, b.heirOf e.2.2.heir e.2.2.hidx g.id.gindex = some j) {m : Mach} (hb : m.block? core g = some b)
    (hh : m.group? x.core x.slot = some h) (hu : h.uid = x.uid) :
    hs.foldl (fun m e => m.conveyOne core g e) m = m.passAll hs x := by
  induction hs generalizing m h with
  | nil => rfl
  | cons e hs ih =>
    have hfirst := Mach.passesOn hh hu e.1 e.2.1 e.2.2
    rw [List.foldl_cons, Mach.conveyOne_heir hb (hheirs e (List.mem_cons_self ..)) hx]
    exact ih (fun e he => hheirs e (List.mem_cons_of_mem _ he)) ((hfirst.keeps.block? core g).trans hb) hfirst.heir
      (by rw [Group.inherit_eq]; exact hu)

/-- Every holding of an ended group goes to one heir of its block (R129, R131, R372). -/
theorem Ends.conveyed_to_heir {m : Mach} {core slot : Nat} {g h : Group} {b : Block} {j : Nat} {x : Member} (hends : Ends m core slot g b)
    (hheirs : ∀ e ∈ m.estateOrder core g, b.heirOf e.2.2.heir e.2.2.hidx g.id.gindex = some j) (hx : b.members.get? j = some x)
    (hlive : x.ended = false) (hj : j ≠ g.id.gindex) (hh : m.group? x.core x.slot = some h) (hu : h.uid = x.uid) :
    ∃ m1 gang, Conveys m m1 ∧ SameMemory m m1 ∧ (∀ c, (m1.core c).claims = (m.core c).claims) ∧
      m1.group? x.core x.slot = some { h with gang } ∧
      Leaves (m1.passAll (m.estateOrder core g) x) (m.convey core slot g) core slot := by
  obtain ⟨hbroken, hbreak, hgangs⟩ := Mach.breakGang_changes m core g.id.block g.id.gindex hends.latches
  obtain ⟨gang, hh1⟩ := hgangs x.core x.slot h hh
  have hpass : m.handOver core g = (m.breakGang core g.id.block g.id.gindex).passAll (m.estateOrder core g) x :=
    Mach.foldl_conveyOne_heir hx hheirs ((hbreak.block? core g).trans hends.block) hh1 hu
  have hleave := hends.leaves (hpass ▸ Conveys.passAll _ hh1 hu) hx hj hlive
  exact ⟨_, gang, hbreak, hbroken.memory, fun c => by rw [hbroken.cores], hh1, hpass ▸ hleave⟩

/-- The seat of the heir is not the seat of the group that has ended. -/
theorem seat_ne_of_uid_ne {m : Mach} {core slot : Nat} {g h : Group} {x : Member} (hg : m.group? core slot = some g)
    (hh : m.group? x.core x.slot = some h) (hu : h.uid = x.uid) (hother : x.uid ≠ g.uid) : ¬(x.core = core ∧ x.slot = slot) := by
  rintro ⟨hc, hk⟩
  rw [hc, hk, hg] at hh
  exact hother (by rw [← hu, Option.some.inj hh])

theorem conveyance_to_heir {s : State} {core slot : Nat} {g h : Group} {b : Block} {j : Nat} {x : Member}
    (hstep : exec (.conveyance core slot) s = .next { s with mach := s.mach.convey core slot g }) (hends : Ends s.mach core slot g b) :
    let hs := s.mach.estateOrder core g
    let tab := fun (m : Mach) (h : Nat × Nat × Estate) => (m.core h.1).estate.get? h.2.1
    (∀ e ∈ hs, b.heirOf e.2.2.heir e.2.2.hidx g.id.gindex = some j ∧ e.2.2.kind ≤ 6) → (hs.map (fun e => (e.1, e.2.1))).Nodup →
    (∀ e ∈ hs, clusterOf e.1 = clusterOf core) →
    b.members.get? j = some x → x.ended = false → j ≠ g.id.gindex → s.mach.group? x.core x.slot = some h → h.uid = x.uid → x.uid ≠ g.uid →
    ∃ t h', exec (.conveyance core slot) s = .next t ∧ t.dev = s.dev ∧ SameMemory s.mach t.mach ∧ t.mach.group? core slot = none ∧
      t.mach.group? x.core x.slot = some h' ∧ h' = { h with
        gang := h'.gang, bereave := h'.bereave, eseq := h.eseq + BitVec.ofNat 32 hs.length, crit := h.crit || hs.any (fun e => e.2.2.kind == 0)
        callow := if h.crit = false ∧ (∃ e ∈ hs, e.2.2.kind = 0) then (s.mach.ctx h.id.ctx).callow else h.callow } ∧
      (∀ k, k ≤ 6 → h'.bereave.getLsbD k = (h.bereave.getLsbD k || hs.any (fun e => e.2.2.kind == k))) ∧
      (h'.bereave.extractLsb' 16 16).toNat = min 65535 ((h.bereave.extractLsb' 16 16).toNat + hs.length) ∧
      ∀ n e, hs[n]? = some e →
        tab t.mach e = some { e.2.2 with hmem := memberOf x.core, hslot := x.slot, uid := x.uid, order := h.eseq + BitVec.ofNat 32 n, brv := true } ∧
        (e.2.2.kind = 4 → ∀ cl, (s.mach.core e.1).claims.get? e.2.2.key.toNat = some cl →
          (t.mach.core e.1).claims.get? e.2.2.key.toNat = some { cl with holder := x.slot, uid := x.uid }) ∧
        (e.2.2.kind = 5 → ∀ tk ∈ (t.mach.cluster (clusterOf core)).tickets, tk.num = e.2.2.aux → tk.owners.get? (e.2.2.key.toNat / 64) = some x.uid) := by
  intro hs tab hheirs hnodup hcluster hx hlive hj hh hu hother
  obtain ⟨m1, gang, hkeeps, hmem, hclaims, hh1, hleave⟩ :=
    hends.conveyed_to_heir (fun e he => (hheirs e he).1) hx hlive hj hh hu
  set m2 := m1.passAll hs x with hm2
  set kinds := hs.map (·.2.2.kind) with hkinds
  have hu1 : ({ h with gang } : Group).uid = x.uid := hu
  have h16 : ∀ k ∈ kinds, k < 16 := fun k hk => by
    obtain ⟨e, he, rfl⟩ := List.mem_map.1 hk
    exact Nat.lt_of_le_of_lt (hheirs e he).2 (by decide)
  have hheir := Mach.passAll_heir hs hh1 hu1
  rw [hkeeps.ctx, ← hkinds, ← hm2, Group.inheritAll_eq] at hheir
  refine ⟨_, _, hstep, rfl, hmem.trans ((SameMemory.passAll hs hh1 hu1).trans hleave.memory), hleave.gone,
    (hleave.groups _ _ (seat_ne_of_uid_ne hends.seat hh hu hother)).trans hheir, ?_, fun k hk => ?_, ?_, fun n e he => ⟨?_, fun h4 cl hcl => ?_,
    fun h5 tk htk hnum => ?_⟩⟩
  · have hany : kinds.any (· == 0) = hs.any (fun e => e.2.2.kind == 0) := List.any_map ..
    have hzero : 0 ∈ kinds ↔ ∃ e ∈ hs, e.2.2.kind = 0 := List.mem_map
    have hlen : kinds.length = hs.length := List.length_map ..
    simp only [hany, hzero, hlen]
  · have hbit := getLsbD_bereavedAll kinds h.bereave (k := k) (by omega)
    rw [hkinds, List.any_map] at hbit
    exact hbit
  · have hcount := count_bereavedAll h16 h.bereave
    rwa [hkinds, List.length_map] at hcount
  · show ((s.mach.convey core slot g).core e.1).estate.get? e.2.1 = _
    rw [hleave.estate]
    exact Mach.passAll_estate hnodup hh1 hu1 he
  · show ((s.mach.convey core slot g).core e.1).claims.get? e.2.2.key.toNat = _
    rw [hleave.claims]
    exact Mach.passAll_claims (List.mem_of_getElem? he) h4 hh1 hu1 (by rwa [hclaims])
  · replace htk : tk ∈ ((s.mach.convey core slot g).cluster (clusterOf core)).tickets := htk
    rw [hleave.tickets, ← hcluster e (List.mem_of_getElem? he)] at htk
    exact Mach.passAll_shares (List.mem_of_getElem? he) h5 hh1 hu1 tk htk hnum

/-! ### A holding without an heir -/

theorem Mach.conveyOne_heirless {m : Mach} {core : Nat} {g : Group} {b : Block} (hb : m.block? core g = some b) {h : Nat × Nat × Estate}
    (hnone : b.heirOf h.2.2.heir h.2.2.hidx g.id.gindex = none) : m.conveyOne core g h = m.settle core h.1 h.2.1 g h.2.2 := by
  simp only [Mach.conveyOne, hb, hnone]

/-- A settlement that is made at once: beside what every conveyance keeps, memory and the estate tables are as before. -/
structure Settles (m m1 : Mach) : Prop where
  keeps : Conveys m m1
  memory : SameMemory m m1
  estate : ∀ c, (m1.core c).estate = (m.core c).estate

namespace Settles

theorem refl (m : Mach) : Settles m m := ⟨.refl m, .refl m, fun _ => rfl⟩

theorem trans {a b c : Mach} (h : Settles a b) (h' : Settles b c) : Settles a c :=
  ⟨h.keeps.trans h'.keeps, h.memory.trans h'.memory, fun k => (h'.estate k).trans (h.estate k)⟩

theorem modCore (m : Mach) (core : Nat) {f : Core → Core} (hops : (f (m.core core)).ops = (m.core core).ops)
    (hgroups : (f (m.core core)).groups = (m.core core).groups) (hframes : (f (m.core core)).frames = (m.core core).frames)
    (hestate : (f (m.core core)).estate = (m.core core).estate) : Settles m (m.modCore core f) := by
  refine ⟨.modCore m core hops hgroups, .modCore hframes, fun c => ?_⟩
  by_cases hc : c = core
  · subst hc
    rw [Mach.core_modCore_self, hestate]
  · rw [Mach.core_modCore_ne _ _ hc]

theorem modCluster (m : Mach) (cl : Nat) {f : Cluster → Cluster} (hblocks : (f (m.cluster cl)).blocks = (m.cluster cl).blocks)
    (hbytes : ∀ a, (f (m.cluster cl)).spadByte a = (m.cluster cl).spadByte a) : Settles m (m.modCluster cl f) :=
  ⟨.modCluster m cl hblocks, .modCluster hbytes, fun _ => rfl⟩

theorem freeSlot (m : Mach) (core i : Nat) : Settles m (m.freeSlot core i) := modCore m core rfl rfl rfl rfl

theorem foldl {β : Type} {step : Mach → β → Mach} (hs : ∀ m b, Settles m (step m b)) (l : List β) (m : Mach) :
    Settles m (l.foldl step m) :=
  foldl_keeps (Settles m) step (fun a b h => h.trans (hs a b)) l m (refl m)

theorem dropShare (m : Mach) (cl num bit : Nat) : Settles m (m.dropShare cl num bit) := by
  unfold Mach.dropShare
  split
  · exact refl m
  · dsimp only
    split
    · exact modCluster m cl rfl fun _ => rfl
    · refine (modCluster m cl rfl fun _ => rfl).trans (foldl (fun m i => ?_) _ _)
      exact modCore m (8 * cl + i) rfl rfl rfl rfl

end Settles

theorem Mach.cluster_foldl {β : Type} {step : Mach → β → Mach} {cl : Nat} (hs : ∀ m b, (step m b).cluster cl = m.cluster cl) (l : List β)
    (m : Mach) : (l.foldl step m).cluster cl = m.cluster cl :=
  foldl_keeps (fun m1 => m1.cluster cl = m.cluster cl) step (fun a b h => (hs a b).trans h) l m rfl

/-- After a share's end its bit is clear in every ticket of its COPY.MC (R103). -/
theorem Mach.shares_dropShare (m : Mach) (cl num bit : Nat) : ∀ t ∈ ((m.dropShare cl num bit).cluster cl).tickets, t.num = num →
    t.shares.getLsbD bit = false := by
  unfold Mach.dropShare
  split
  · next hnone =>
    intro t ht hnum
    exact absurd hnum (by simpa using List.find?_eq_none.1 hnone t ht)
  · next t0 ht0 =>
    have hnum0 : t0.num = num := by simpa using List.find?_some ht0
    have hbit : (t0.shares &&& ~~~(1#16 <<< bit)).getLsbD bit = false := by
      by_cases hlt : bit < 16
      · simp [hlt]
      · exact BitVec.getLsbD_of_ge _ _ (by omega)
    dsimp only
    split
    · rw [Mach.modCluster, Mach.cluster_setCluster_self]
      intro t ht hnum
      obtain ⟨t1, -, rfl⟩ := List.mem_map.1 ht
      split at hnum
      · next h1 => rw [if_pos h1]; exact hbit
      · next h1 => exact absurd hnum (by simpa using h1)
    · intro t ht hnum
      rw [Mach.cluster_foldl, Mach.modCluster, Mach.cluster_setCluster_self] at ht
      · have hne := (List.mem_filter.1 ht).2
        simp [hnum] at hne
      · exact fun _ _ => rfl

/-- The task a handle names is found in the clusters, by the contexts' maps (R118). -/
theorem Mach.taskOf_congr {m m1 : Mach} (hc : m1.clusters = m.clusters) (hx : m1.ctxs = m.ctxs) (cl ctx : Nat) (h : Word) :
    m1.taskOf cl ctx h = m.taskOf cl ctx h := by
  unfold Mach.taskOf Mach.handleClusters Mach.physical Mach.mapOf Mach.clusterOwner Mach.cluster Mach.ctx
  rw [hc, hx]

/-- The settlement of a holding that is neither a lock nor a promise (R127, R372). -/
theorem Mach.settle_at_once (m : Mach) (core c i : Nat) (g : Group) {e : Estate} (hkind : 2 ≤ e.kind) :
    Settles (m.eraseEstate c i) (m.settle core c i g e) := by
  unfold Mach.settle
  dsimp only
  split
  · omega
  · omega
  · exact .freeSlot ..
  · split
    · exact .modCluster _ _ rfl fun _ => rfl
    · exact .refl _
  · exact .modCore _ _ rfl rfl rfl rfl
  · exact .dropShare ..
  · exact .refl _

/-- What the settlement of each kind has made free (R127, R372). -/
theorem Mach.settle_frees (m : Mach) (core c i : Nat) (g : Group) (e : Estate) :
    (e.kind = 2 → (((m.settle core c i g e).core c).slot (e.key.toNat % 16)).live = false) ∧
    (e.kind = 3 → ∀ cl n tk, (m.eraseEstate c i).taskOf (clusterOf core) g.id.ctx (e.key.setWidth 32) = some (cl, n, tk) →
      ((m.settle core c i g e).cluster cl).task n = { tk with state := .runnable, bereaved := true }) ∧
    (e.kind = 4 → ((m.settle core c i g e).core c).claims.get? e.key.toNat = none) ∧
    (e.kind = 5 → ∀ tk ∈ ((m.settle core c i g e).cluster (clusterOf c)).tickets, tk.num = e.aux →
      tk.shares.getLsbD (e.key.toNat / 64) = false) := by
  refine ⟨fun h => ?_, fun h cl n tk htk => ?_, fun h => ?_, fun h => ?_⟩ <;> simp only [Mach.settle, h]
  · simp [Mach.freeSlot, Core.slot, Core.setSlot]
  · simp [htk, Mach.modCluster, Cluster.task, Cluster.setTask]
  · simp [SMap.get?_erase]
  · exact Mach.shares_dropShare _ _ _ _

theorem Mach.estate_eraseEstate (m : Mach) (c i : Nat) : ((m.eraseEstate c i).core c).estate.get? i = none := by
  rw [Mach.eraseEstate, Mach.core_modCore_self, SMap.get?_erase, if_pos rfl]

/-- The one holding of an ended group is heirless, and is settled. -/
theorem Ends.handOver_heirless {m : Mach} {core slot k i : Nat} {g : Group} {b : Block} {e : Estate} (hends : Ends m core slot g b)
    (hone : m.estateOrder core g = [(k, i, e)]) (hnone : b.heirOf e.heir e.hidx g.id.gindex = none) :
    m.handOver core g = (m.breakGang core g.id.block g.id.gindex).settle core k i g e := by
  obtain ⟨-, hbreak, -⟩ := Mach.breakGang_changes m core g.id.block g.id.gindex hends.latches
  rw [Mach.handOver, hone]
  exact Mach.conveyOne_heirless (h := (k, i, e)) ((hbreak.block? core g).trans hends.block) hnone

theorem conveyance_heirless {s : State} {core slot k i j : Nat} {g : Group} {b : Block} {e : Estate} {x : Member}
    (hstep : exec (.conveyance core slot) s = .next { s with mach := s.mach.convey core slot g }) (hends : Ends s.mach core slot g b)
    (hone : s.mach.estateOrder core g = [(k, i, e)]) (hk : clusterOf k = clusterOf core)
    (hnone : b.heirOf e.heir e.hidx g.id.gindex = none) (hj : j ≠ g.id.gindex) (hx : b.members.get? j = some x) (hlive : x.ended = false)
    (hkind : 2 ≤ e.kind) :
    ∃ t, exec (.conveyance core slot) s = .next t ∧ t.dev = s.dev ∧ SameMemory s.mach t.mach ∧ t.mach.group? core slot = none ∧
      (t.mach.core k).estate.get? i = none ∧
      (e.kind = 2 → ((t.mach.core k).slot (e.key.toNat % 16)).live = false) ∧
      (e.kind = 3 → ∀ cl n tk, s.mach.taskOf (clusterOf core) g.id.ctx (e.key.setWidth 32) = some (cl, n, tk) →
        (t.mach.cluster cl).task n = { tk with state := .runnable, bereaved := true }) ∧
      (e.kind = 4 → (t.mach.core k).claims.get? e.key.toNat = none) ∧
      (e.kind = 5 → ∀ tk ∈ (t.mach.cluster (clusterOf core)).tickets, tk.num = e.aux → tk.shares.getLsbD (e.key.toNat / 64) = false) := by
  obtain ⟨hbroken, hbreak, -⟩ := Mach.breakGang_changes s.mach core g.id.block g.id.gindex hends.latches
  have hsettle := hends.handOver_heirless hone hnone
  set m1 := s.mach.breakGang core g.id.block g.id.gindex
  have herase : Conveys m1 (m1.eraseEstate k i) := .modCore _ _ rfl rfl
  have hat := Mach.settle_at_once m1 core k i g hkind
  have hleave := hends.leaves (hsettle ▸ herase.trans hat.keeps) hx hj hlive
  rw [hsettle] at hleave
  obtain ⟨hslot, htask, hclaim, hshare⟩ := Mach.settle_frees m1 core k i g e
  refine ⟨_, hstep, rfl, hbroken.memory.trans ((SameMemory.modCore rfl).trans (hat.memory.trans hleave.memory)), hleave.gone, ?_,
    fun h => ?_, fun h cl n tk htk => ?_, fun h => ?_, fun h tk htk hnum => ?_⟩
  · show ((s.mach.convey core slot g).core k).estate.get? i = none
    rw [hleave.estate, hat.estate, Mach.estate_eraseEstate]
  · show (((s.mach.convey core slot g).core k).slot _).live = false
    rw [Core.slot, hleave.acc]
    exact hslot h
  · show ((s.mach.convey core slot g).cluster cl).task n = _
    rw [Cluster.task, hleave.tasks]
    refine htask h cl n tk ((Mach.taskOf_congr ?_ ?_ ..).trans htk)
    · show m1.clusters = _
      rw [hbroken.mach]
    · exact hbreak.ctxs
  · show ((s.mach.convey core slot g).core k).claims.get? _ = none
    rw [hleave.claims]
    exact hclaim h
  · replace htk : tk ∈ ((s.mach.convey core slot g).cluster (clusterOf core)).tickets := htk
    rw [hleave.tickets, ← hk] at htk
    exact hshare h tk htk hnum

/-! ### The word of a heirless lock or promise -/

/-- The machine is as before but for device memory with its check codes and caches, the messages and the walker's cache. -/
def StoresOnly (m m1 : Mach) : Prop :=
  m1 = { m with dram := m1.dram, ecc := m1.ecc, slices := m1.slices, msgs := m1.msgs, nextUid := m1.nextUid, walker := m1.walker }

namespace StoresOnly

theorem refl (m : Mach) : StoresOnly m m := rfl

theorem trans {a b c : Mach} (h : StoresOnly a b) (h' : StoresOnly b c) : StoresOnly a c := by
  unfold StoresOnly at *
  rw [h', h]

theorem send (m : Mach) (core slot uid place due : Nat) (held : Bool) (b : MsgBody) (src : Option Nat) :
    StoresOnly m (m.send core slot uid place due held b src) := rfl

theorem core {m m1 : Mach} (h : StoresOnly m m1) (c : Nat) : m1.core c = m.core c := by
  rw [h]
  rfl

theorem conveys {m m1 : Mach} (h : StoresOnly m m1) : Conveys m m1 :=
  .of_groups (by rw [h]) (by rw [h]) (fun cl => by rw [h]; rfl) fun c => by rw [h.core]; exact ⟨rfl, rfl⟩

end StoresOnly

/-- No message in flight is of an object. -/
def NoObjects (m : Mach) : Prop := ∀ y ∈ m.msgs, ∀ op l va tag w, y.body ≠ .object op l va tag w

/-- Notices are messages, and none of them is of an object. -/
theorem Mach.notices_changes (m : Mach) (line : Loc) (except : Option Nat) (hobj : NoObjects m) :
    StoresOnly m (m.notices line except) ∧ (m.notices line except).dram = m.dram ∧ NoObjects (m.notices line except) := by
  refine foldl_keeps (fun m1 => StoresOnly m m1 ∧ m1.dram = m.dram ∧ NoObjects m1) _ (fun m1 c ⟨h1, h2, h3⟩ =>
    ⟨h1.trans (.send ..), h2, fun y hy => ?_⟩) _ m ⟨.refl m, rfl, hobj⟩
  obtain hy | hy := List.mem_append.1 hy
  · exact h3 y hy
  · rw [List.mem_singleton.1 hy]
    exact fun _ _ _ _ _ => MsgBody.noConfusion

/-- A line of device memory for whose words nobody waits wakes nobody (R134). -/
theorem Mach.wakeLine_of_nil {m : Mach} (h : m.waitTab = []) (a : Nat) : m.wakeLine (.dram a) = m := by
  simp [Mach.wakeLine, h]

theorem getLsbD_rangeMask (o n : Nat) {j : Nat} (hj : j < 128) : (rangeMask o n).getLsbD j = decide (o ≤ j ∧ j < o + n) := by
  rw [rangeMask, BitVec.getLsbD_ofNat, Nat.testBit_shiftLeft, Nat.testBit_two_pow_sub_one]
  by_cases h : o ≤ j
  · have hiff : j - o < n ↔ j < o + n := by omega
    simp [hj, h, hiff]
  · simp [h]

theorem get?_map_range' {α : Type} (f : Nat → α) (o : Nat) : ∀ n s j, j < n →
    SMap.get? ((List.range' s n).map (fun i => (o + i, f i))) (o + (s + j)) = some (f (s + j)) := by
  intro n
  induction n with
  | zero => exact fun s j hj => absurd hj (Nat.not_lt_zero j)
  | succ n ih =>
    intro s j hj
    rw [List.range'_succ, List.map_cons, SMap.get?_cons]
    cases j with
    | zero => exact if_pos rfl
    | succ j =>
      rw [if_neg (by omega), show s + (j + 1) = s + 1 + j by omega]
      exact ih (s + 1) j (by omega)

/-- The bytes of a write, by their offsets in its line. -/
theorem getD_writeData (bs : List Byte) (o : Nat) {i : Nat} (hi : i < bs.length) :
    SMap.getD ((List.range bs.length).map (fun i => (o + i, bs.getD i 0))) (o + i) 0 = bs.getD i 0 := by
  have h := get?_map_range' (fun i => bs.getD i 0) o bs.length 0 i hi
  rw [Nat.zero_add] at h
  rw [SMap.getD, List.range_eq_range', h]
  rfl

/-- The bytes of a masked write to a line, in the order of their offsets. -/
def Memory.writeMasked (mem : Memory) (line : Nat) (data : SMap Byte) (os : List Nat) : Memory :=
  os.foldl (fun mem o => mem.write (line + o) (data.getD o 0)) mem

theorem Memory.read_writeMasked (mem : Memory) (line : Nat) (data : SMap Byte) (os : List Nat) (b : Nat) :
    (mem.writeMasked line data os).read b = if line ≤ b ∧ b - line ∈ os then data.getD (b - line) 0 else mem.read b := by
  induction os generalizing mem with
  | nil => simp [Memory.writeMasked]
  | cons o os ih =>
    have hstep := ih (mem.write (line + o) (data.getD o 0))
    rw [Memory.read_write] at hstep
    refine hstep.trans ?_
    by_cases hin : line ≤ b ∧ b - line ∈ os
    · rw [if_pos hin, if_pos ⟨hin.1, List.mem_cons_of_mem _ hin.2⟩]
    · rw [if_neg hin]
      by_cases hb : b = line + o
      · subst hb
        simp
      · have hnot : ¬(line ≤ b ∧ b - line ∈ o :: os) := fun ⟨hle, hmem⟩ => by
          obtain h | h := List.mem_cons.1 hmem
          · omega
          · exact hin ⟨hle, h⟩
        rw [if_neg hb, if_neg hnot]

theorem Mach.foldl_writeDram (line : Nat) (data : SMap Byte) (os : List Nat) (m : Mach) :
    os.foldl (fun m o => { m with dram := m.dram.write (line + o) (data.getD o 0) }) m =
      { m with dram := Memory.writeMasked m.dram line data os } := by
  induction os generalizing m with
  | nil => rfl
  | cons o os ih => exact ih _

/-- The offsets of a sector that a mask writes. -/
def sectorOffsets (i : Nat) (mask : BitVec 128) : List Nat := ((List.range 32).map (· + 32 * i)).filter (fun o => mask.getLsbD o)

theorem mem_sectorOffsets {i o : Nat} {mask : BitVec 128} : o ∈ sectorOffsets i mask ↔ o / 32 = i ∧ mask.getLsbD o = true := by
  simp only [sectorOffsets, List.mem_filter, List.mem_map, List.mem_range]
  refine and_congr_left fun _ => ⟨?_, fun h => ⟨o % 32, Nat.mod_lt _ (by decide), by omega⟩⟩
  rintro ⟨r, hr, rfl⟩
  omega

theorem writeSector_unmasked {m : Mach} {line i : Nat} {mask : BitVec 128} {poison : Bool} {data : SMap Byte} {tag : Option FTag}
    {ctx core : Nat} {slot : Option Nat} {acc : Nat} {va : Option Va} (h : sectorOffsets i mask = []) :
    writeSector m line i mask poison data tag ctx core slot acc va = ⟨m, false⟩ := by
  unfold sectorOffsets at h
  simp [writeSector, h]

/-- A clean sector is written in place, under its line's own tag (R84, R436). -/
theorem writeSector_clean {m : Mach} {line i : Nat} {mask : BitVec 128} {data : SMap Byte} {ctx core : Nat} {slot : Option Nat}
    {acc : Nat} {va : Option Va} (hclean : m.secClass (line + 32 * i) none = .clean) :
    let w := writeSector m line i mask false data none ctx core slot acc va
    w.mismatch = false ∧ StoresOnly m w.mach ∧ w.mach.msgs = m.msgs ∧
      w.mach.dram = Memory.writeMasked m.dram line data (sectorOffsets i mask) := by
  dsimp only
  by_cases hempty : sectorOffsets i mask = []
  · rw [writeSector_unmasked hempty, hempty]
    exact ⟨rfl, .refl m, rfl, rfl⟩
  · have hoffs : ((List.range 32).map (· + 32 * i)).filter (fun o => mask.getLsbD o) = sectorOffsets i mask := rfl
    have hsome : (sectorOffsets i mask).isEmpty = false := by simpa using hempty
    have hcls : (if (sectorOffsets i mask).length == 32 then SecClass.clean else SecClass.clean) = .clean := ite_self _
    unfold writeSector
    dsimp only
    simp only [hoffs, hsome, hclean, hcls, Bool.false_eq_true, if_false, bne_self_eq_false, Bool.false_or, Mach.foldl_writeDram]
    exact ⟨rfl, rfl, rfl, rfl⟩

/-- Eight bytes of a doubleword lie in one sector. -/
theorem sectorOffsets_rangeMask {o : Nat} (ho : o % 8 = 0) (hlt : o < 128) {i j : Nat} :
    j ∈ sectorOffsets i (rangeMask o 8) ↔ i = o / 32 ∧ o ≤ j ∧ j < o + 8 := by
  rw [mem_sectorOffsets]
  by_cases hj : j < 128
  · rw [getLsbD_rangeMask o 8 hj, decide_eq_true_iff]
    omega
  · rw [BitVec.getLsbD_of_ge _ _ (by omega)]
    simp only [Bool.false_eq_true, and_false, false_iff]
    omega

/-- A doubleword of a clean sector is written at its place in device memory (R84, R436). -/
theorem writeAt_doubleword {m : Mach} {a : Nat} {bs : List Byte} {ctx core acc : Nat} {slot except : Option Nat} {va : Option Va}
    (ha : a % 8 = 0) (hlen : bs.length = 8) (hclean : m.secClass a none = .clean) (hwait : m.waitTab = []) (hobj : NoObjects m) :
    let m1 := (m.writeAt (.dram a) bs none ctx core slot except acc va).mach
    StoresOnly m m1 ∧ NoObjects m1 ∧ ∀ b, m1.dram.read b = if a ≤ b ∧ b < a + 8 then bs.getD (b - a) 0 else m.dram.read b := by
  set data : SMap Byte := (List.range bs.length).map (fun i => (a % 128 + i, bs.getD i 0)) with hdata
  set line := a / 128 * 128 with hline
  set va' := va.map (fun v => v - BitVec.ofNat 56 (a % 128))
  set step := fun (r : Written) (i : Nat) =>
    let w := writeSector r.mach line i (rangeMask (a % 128) bs.length) ((0 : BitVec 4).getLsbD i) data none ctx core slot acc va'
    (⟨w.mach, r.mismatch || w.mismatch⟩ : Written) with hstep
  have hmem : ∀ {i j}, j ∈ sectorOffsets i (rangeMask (a % 128) bs.length) ↔ i = a % 128 / 32 ∧ a % 128 ≤ j ∧ j < a % 128 + 8 :=
    fun {i j} => by rw [hlen]; exact sectorOffsets_rangeMask (by omega) (Nat.mod_lt _ (by decide))
  have hother : ∀ (r : Written) i, i ≠ a % 128 / 32 → step r i = r := fun r i hi => by
    have hnone : sectorOffsets i (rangeMask (a % 128) bs.length) = [] := List.eq_nil_iff_forall_not_mem.2 fun j hj => hi (hmem.1 hj).1
    rw [hstep]
    dsimp only
    rw [writeSector_unmasked hnone, Bool.or_false]
  have hone : [0, 1, 2, 3].foldl step ⟨m, false⟩ = step ⟨m, false⟩ (a % 128 / 32) :=
    foldl_eq_step (List.mem_range (n := 4).2 (by omega)) (by decide) (fun i _ hi => hother _ i hi) fun i _ hi => hother _ i hi
  have hsector : m.secClass (line + 32 * (a % 128 / 32)) none = .clean := by
    rw [← hclean]
    unfold Mach.secClass
    rw [show (line + 32 * (a % 128 / 32)) / 32 = a / 32 by omega]
  obtain ⟨-, hstores, hmsgs, hdram⟩ := writeSector_clean (mask := rangeMask (a % 128) bs.length) (data := data) (ctx := ctx) (core := core)
    (slot := slot) (acc := acc) (va := va') hsector
  set m0 := (writeSector m line (a % 128 / 32) (rangeMask (a % 128) bs.length) false data none ctx core slot acc va').mach
  have hmach : (m.writeAt (.dram a) bs none ctx core slot except acc va).mach = (m0.notices (.dram line) except).wakeLine (.dram line) := by
    have hwritten : ([0, 1, 2, 3].foldl step ⟨m, false⟩).mach = m0 := by
      rw [hone, hstep]
      dsimp only
      rw [show (0 : BitVec 4).getLsbD (a % 128 / 32) = false from BitVec.getLsbD_zero]
    rw [← hwritten]
    rfl
  have hobj0 : NoObjects m0 := by
    unfold NoObjects
    rw [hmsgs]
    exact hobj
  obtain ⟨hnotes, hsame, hobj1⟩ := m0.notices_changes (.dram line) except hobj0
  have hwait1 : (m0.notices (.dram line) except).waitTab = [] := by rw [hstores.trans hnotes]; exact hwait
  dsimp only
  rw [hmach, Mach.wakeLine_of_nil hwait1]
  refine ⟨hstores.trans hnotes, hobj1, fun b => ?_⟩
  rw [hsame, hdram, Memory.read_writeMasked]
  simp only [hmem, true_and]
  by_cases hb : a ≤ b ∧ b < a + 8
  · have hin : line ≤ b ∧ a % 128 ≤ b - line ∧ b - line < a % 128 + 8 := by omega
    have hoff : b - line = a % 128 + (b - a) := by omega
    rw [if_pos hin, if_pos hb, hoff, hdata, getD_writeData _ _ (by omega)]
  · have hout : ¬(line ≤ b ∧ a % 128 ≤ b - line ∧ b - line < a % 128 + 8) := by omega
    rw [if_neg hout, if_neg hb]

theorem getD_leBytes (x : Dword) {n : Nat} (hn : n < 8) : (leBytes 8 x.toNat).getD n 0 = x.extractLsb' (8 * n) 8 := by
  have hlen : n < (leBytes 8 x.toNat).length := by simpa [leBytes] using hn
  rw [List.getD_eq_getElem _ _ hlen]
  simp only [leBytes, List.getElem_map, List.getElem_range]
  rfl

/-- A heirless word that reads clean is changed at its home, and nothing else of the memory (R127, R436). -/
theorem Mach.settleWord_clean {m : Mach} {ctx a : Nat} {va : Va} {f : Dword → Dword} (ha : a % 8 = 0)
    (hclean : ∀ n, n < 8 → m.classAt (.dram (a + n)) none = .clean) (hwait : m.waitTab = []) (hobj : NoObjects m) :
    StoresOnly m (m.settleWord ctx va (.dram a) f) ∧ NoObjects (m.settleWord ctx va (.dram a) f) ∧
      ∀ b, (m.settleWord ctx va (.dram a) f).dram.read b =
        if a ≤ b ∧ b < a + 8 then (f (m.word64 (.dram a))).extractLsb' (8 * (b - a)) 8 else m.dram.read b := by
  have hgood : m.anyClass (.dram a) 8 none SecClass.bad = false := by
    refine List.any_eq_false.2 fun n hn => ?_
    rw [Loc.plus, hclean n (List.mem_range.1 hn)]
    decide
  rw [Mach.settleWord, hgood, if_neg Bool.false_ne_true]
  obtain ⟨hstores, hobj1, hread⟩ := writeAt_doubleword (bs := leBytes 8 (f (m.word64 (.dram a))).toNat) (ctx := ctx) (core := 0) (acc := 1)
    (slot := none) (except := none) (va := some va) ha (by simp [leBytes]) (hclean 0 (by decide)) hwait hobj
  refine ⟨hstores, hobj1, fun b => (hread b).trans ?_⟩
  split
  · next h => exact getD_leBytes _ (by omega)
  · rfl

/-- With no ACQ.LOCK in flight a home has none to decide again (R294). -/
theorem Mach.lockServe_of_noObjects {m : Mach} (h : NoObjects m) (l : Loc) (n : Nat) : m.lockServe l n = m := by
  cases n with
  | zero => rfl
  | succ n =>
    unfold Mach.lockServe
    dsimp only
    split
    · rfl
    · split
      · rfl
      · next x hx =>
        have hmem := List.mem_of_find?_eq_some hx
        split
        · next heq => exact absurd heq (h x hmem _ _ _ _ _)
        · rfl

/-- A walk reads device memory alone (R77). -/
theorem walkFrom_congr {m m1 : Mach} (h : m1.dram = m.dram) (va : Nat) : ∀ n level t, walkFrom m1 va n level t = walkFrom m va n level t := by
  intro n
  induction n with
  | zero => exact fun _ _ => rfl
  | succ n ih =>
    intro level t
    have hword : ∀ a, m1.dram64 a = m.dram64 a := fun a => by unfold Mach.dram64; rw [h]
    unfold walkFrom
    dsimp only
    rw [hword, ih]

/-- Two machines in which a walk finds the same. -/
structure SameWalks (m m1 : Mach) : Prop where
  walker : m1.walker = m.walker
  dram : m1.dram = m.dram
  ctxs : m1.ctxs = m.ctxs
  windows : m1.windows = m.windows

theorem SameWalks.walk {m m1 : Mach} (h : SameWalks m m1) (ctx : Nat) (va : Va) : ∃ cache x,
    m.walk ctx va = ({ m with walker := cache }, x) ∧ m1.walk ctx va = ({ m1 with walker := cache }, x) := by
  have hctx : m1.ctx ctx = m.ctx ctx := by unfold Mach.ctx; rw [h.ctxs]
  unfold Mach.walk
  dsimp only
  rw [h.walker, hctx, walkFrom_congr h.dram]
  split
  · next e _ => exact ⟨m.walker, .leaf e.leaf, rfl, by rw [← h.walker]⟩
  · cases walkFrom m va.toNat 4 1 (m.ctx ctx).ptroot with
    | leaf l => exact ⟨_, .leaf l, rfl, rfl⟩
    | fault level => exact ⟨m.walker, .fault level, rfl, by rw [← h.walker]⟩

/-- A page of a context translates alike, and the translation changes the walker's cache alone (R77, R108). -/
theorem SameWalks.ctxXlate {m m1 : Mach} (h : SameWalks m m1) (ctx : Nat) (va : Va) : ∃ cache x,
    m.ctxXlate ctx va = ({ m with walker := cache }, x) ∧ m1.ctxXlate ctx va = ({ m1 with walker := cache }, x) := by
  obtain ⟨cache, x, hm, hm1⟩ := h.walk ctx va
  unfold Mach.ctxXlate
  by_cases hin : inWindows va
  · exact ⟨m.walker, .access, by rw [if_pos hin], by rw [if_pos hin, ← h.walker]⟩
  · rw [if_neg hin, if_neg hin]
    unfold Mach.translate
    rw [if_neg hin, if_neg hin, show (ctxView ctx).id.sup = false from rfl, show (ctxView ctx).id.ctx = ctx from rfl, hm, hm1]
    cases x with
    | fault level => exact ⟨cache, .fault level, rfl, rfl⟩
    | leaf l =>
      have hwin : ({ m1 with walker := cache } : Mach).windowOn l.page.1 l.page.2 =
          ({ m with walker := cache } : Mach).windowOn l.page.1 l.page.2 := by
        unfold Mach.windowOn
        rw [h.windows]
      dsimp only
      rw [hwin, if_neg Bool.false_ne_true, if_neg Bool.false_ne_true]
      exact ⟨cache, if l.mig then .migrating
        else if l.target == 3 && !({ m with walker := cache } : Mach).windowOn l.page.1 l.page.2 then .access else .ok (l.loc va) l,
        by split <;> [rfl; split <;> rfl], by split <;> [rfl; split <;> rfl]⟩

/-- What becomes of the word of a heirless lock or promise (R127). -/
def settledWord (kind : Nat) (x : Dword) : Dword := if kind = 0 then withLst x 2 else x ||| 3

theorem Mach.ownSteps_done {m m1 : Mach} {ctx : Nat} {step : OwnStep} (h : m.ownStep ctx step = (m1, .done)) :
    m.ownSteps ctx [step] = m1 := by
  simp [Mach.ownSteps, Mach.beginJob, Mach.runSteps, h]

theorem Mach.settleStep_reached {m m1 : Mach} {ctx a : Nat} {va : Va} {leaf : Leaf} (h : m.ctxXlate ctx va = (m1, .ok (.dram a) leaf))
    (settle : Mach → Loc → Mach) : m.settleStep ctx va settle = (settle m1 (.dram a), .done) := by
  simp [Mach.settleStep, h, Mach.hostAway]

/-- The settlement of a lock or promise whose word translates to a place in device memory and reads clean (R127, R436). -/
theorem Mach.settle_word {m m1 : Mach} {core c i a : Nat} {g : Group} {e : Estate} {leaf : Leaf} (hkind : e.kind < 2)
    (hx : (m.eraseEstate c i).ctxXlate g.id.ctx (e.key.setWidth 56) = (m1, .ok (.dram a) leaf)) (ha : a % 8 = 0)
    (hclean : ∀ n, n < 8 → m1.classAt (.dram (a + n)) none = .clean) (hwait : m1.waitTab = []) (hobj : NoObjects m1) :
    StoresOnly m1 (m.settle core c i g e) ∧ ∀ b, (m.settle core c i g e).dram.read b =
      if a ≤ b ∧ b < a + 8 then (settledWord e.kind (m1.word64 (.dram a))).extractLsb' (8 * (b - a)) 8 else m1.dram.read b := by
  obtain hk | hk : e.kind = 0 ∨ e.kind = 1 := by omega
  · obtain ⟨hstores, hobj1, hread⟩ := Mach.settleWord_clean (ctx := g.id.ctx) (va := e.key.setWidth 56) (f := fun x => withLst x 2)
      ha hclean hwait hobj
    have heq : m.settle core c i g e = m1.settleWord g.id.ctx (e.key.setWidth 56) (.dram a) (fun x => withLst x 2) := by
      simp only [Mach.settle, hk]
      refine Mach.ownSteps_done ((Mach.settleStep_reached hx _).trans (congrArg (·, OwnEnd.done) ?_))
      exact Mach.lockServe_of_noObjects hobj1 ..
    rw [heq, hk]
    exact ⟨hstores, hread⟩
  · obtain ⟨hstores, -, hread⟩ := Mach.settleWord_clean (ctx := g.id.ctx) (va := e.key.setWidth 56) (f := fun x => x ||| 3)
      ha hclean hwait hobj
    have heq : m.settle core c i g e = m1.settleWord g.id.ctx (e.key.setWidth 56) (.dram a) (fun x => x ||| 3) := by
      simp only [Mach.settle, hk]
      exact Mach.ownSteps_done (Mach.settleStep_reached hx _)
    rw [heq, hk]
    exact ⟨hstores, hread⟩

theorem conveyance_settles_word {s : State} {core slot k i j a : Nat} {g : Group} {b : Block} {e : Estate} {x : Member} {m : Mach} {leaf : Leaf}
    (hstep : exec (.conveyance core slot) s = .next { s with mach := s.mach.convey core slot g }) (hends : Ends s.mach core slot g b)
    (hone : s.mach.estateOrder core g = [(k, i, e)]) (hnone : b.heirOf e.heir e.hidx g.id.gindex = none) (hj : j ≠ g.id.gindex)
    (hx : b.members.get? j = some x) (hlive : x.ended = false) (hkind : e.kind < 2)
    (hxlate : s.mach.ctxXlate g.id.ctx (e.key.setWidth 56) = (m, .ok (.dram a) leaf)) (ha : a % 8 = 0)
    (hclean : ∀ n, n < 8 → s.mach.classAt (.dram (a + n)) none = .clean) (hwait : s.mach.waitTab = []) (hobj : NoObjects s.mach) :
    let old : Dword := s.mach.word64 (.dram a)
    ∃ t, exec (.conveyance core slot) s = .next t ∧ t.dev = s.dev ∧ (t.mach.core k).estate.get? i = none ∧
      Stored s t a 8 (fun n => (if e.kind = 0 then (old &&& ~~~(3#64 <<< 30)) ||| (2#64 <<< 30) else old ||| 3).extractLsb' (8 * n) 8) := by
  obtain ⟨hbroken, hbreak, -⟩ := Mach.breakGang_changes s.mach core g.id.block g.id.gindex hends.latches
  have hsettle := hends.handOver_heirless hone hnone
  set m1 := s.mach.breakGang core g.id.block g.id.gindex
  have hmach : m1.eraseEstate k i = { s.mach with cores := (m1.eraseEstate k i).cores } := by
    show ({ m1 with cores := (m1.eraseEstate k i).cores } : Mach) = _
    rw [hbroken.mach]
  obtain ⟨cache, y, hbefore, hafter⟩ := SameWalks.ctxXlate (m := s.mach) (m1 := m1.eraseEstate k i)
    ⟨by rw [hmach], by rw [hmach], by rw [hmach], by rw [hmach]⟩ g.id.ctx (e.key.setWidth 56)
  rw [hxlate] at hbefore
  obtain rfl : Xlate.ok (.dram a) leaf = y := congrArg Prod.snd hbefore
  set m2 : Mach := { m1.eraseEstate k i with walker := cache } with hm2
  have hmach2 : m2 = { s.mach with cores := m2.cores, walker := cache } := by rw [hm2, hmach]
  obtain ⟨hstores, hread⟩ := Mach.settle_word (m := m1) (m1 := m2) (core := core) (c := k) (i := i) (g := g) hkind hafter ha
    (fun n hn => by rw [hmach2]; exact hclean n hn) (by rw [hmach2]; exact hwait) (by rw [hmach2]; exact hobj)
  have hkeeps : Conveys m1 (m1.settle core k i g e) :=
    (Conveys.modCore (f := fun c => { c with estate := c.estate.erase i }) m1 k rfl rfl).trans
      ((StoresOnly.conveys (m := m1.eraseEstate k i) (m1 := m2) rfl).trans hstores.conveys)
  have hleave := hends.leaves (hsettle ▸ hkeeps) hx hj hlive
  rw [hsettle] at hleave
  refine ⟨_, hstep, rfl, ?_, fun n => ?_⟩
  · show ((s.mach.convey core slot g).core k).estate.get? i = none
    rw [hleave.estate, hstores.core]
    exact Mach.estate_eraseEstate ..
  · show (s.mach.convey core slot g).dram.read n = _
    rw [hleave.memory.dram, hread, hmach2]
    rfl

end Sys2Proof.Machine
end

section
/-! PROOF. The accumulator elements after a K-block (R174, R176). -/

namespace Sys2Proof.Machine

/-! ### The elements of an accumulator after a K-block (R174, R176) -/

theorem Mach.acceptAll_of_idle {m : Mach} {core : Nat} (h : (m.core core).latches = []) (n : Nat) : m.acceptAll core n = m := by
  cases n with
  | zero => rfl
  | succ n => simp [Mach.acceptAll, h]

/-- The rows that are read are as many as are asked for. -/
theorem Mach.length_engineRows {d : Device} {core : Nat} {g : Group} {base : Va} {stride : Word} {o n : Nat} {tag : FTag} :
    ∀ (is : List Nat) {m m1 : Mach} {rows : List (List (Byte × Bool))},
      m.engineRows d core g base stride o n tag is = (m1, .ok rows) → rows.length = is.length := by
  intro is
  induction is with
  | nil =>
    intro m m1 rows h
    obtain ⟨-, rfl⟩ : m = m1 ∧ [] = rows := by simpa [Mach.engineRows] using h
    rfl
  | cons i is ih =>
    intro m m1 rows h
    unfold Mach.engineRows at h
    split at h
    · simp at h
    · next m2 r _ =>
      split at h
      · simp at h
      · next m3 rs hrs =>
        obtain ⟨-, rfl⟩ : m3 = m1 ∧ r :: rs = rows := by simpa using h
        rw [List.length_cons, List.length_cons, ih hrs]

theorem zipWith_codes {α β γ : Type} (F : α → β → γ) (x : Nat → α) (y : Nat → β) (l : List Nat) :
    List.zipWith F (l.map x) (l.map y) = l.map (fun i => F (x i) (y i)) := by
  rw [List.zipWith_map, List.zipWith_self]

theorem satAdd_eq_sat32 (c : Word) (x : Int) : (satAdd c x).1 = sat32 (c.toInt + x) := rfl

/-- An element of the integer formats: the exact sum of the products is added, and saturates (R176). -/
theorem mmaElem_integer {fa fb : Nat} (h : 4 ≤ fa) (x y : Nat → Nat) (badx bady : Bool) (sa sb : Option Int) (c : Word) :
    (mmaElem fa fb ⟨(List.range 32).map x, badx⟩ ⟨(List.range 32).map y, bady⟩ sa sb c).1 =
      sat32 (c.toInt + ((List.range 32).map (fun i => sextNat (x i) (fmtBits fa) * sextNat (y i) (fmtBits fb))).sum) := by
  unfold mmaElem
  rw [if_neg (Nat.not_lt.2 h), satAdd_eq_sat32, zipWith_codes, List.sum_eq_foldl]

/-- An element of the floating formats without scales: the sum of the block goes through its window (R174, R175). -/
theorem mmaElem_float {fa fb : Nat} (h : fa < 4) (x y : Nat → Nat) (badx bady : Bool) (c : Word) :
    (mmaElem fa fb ⟨(List.range 32).map x, badx⟩ ⟨(List.range 32).map y, bady⟩ (some 0) (some 0) c).1 =
      BitVec.ofNat 32 (blockUpdate (pairWindow fa) c.toNat
        ((List.range 32).map (fun i => (codeVal fa (x i)).mul (codeVal fb (y i)))) 0 false) := by
  unfold mmaElem
  rw [if_pos h, zipWith_codes]
  rfl

/-- The elements of a slot after one K-block of these rows without scales. -/
theorem AccSlot.elems_update (s : AccSlot) (fa fb : Nat) {as bs : List (List (Byte × Bool))} (ha : as.length = 128) (hb : bs.length = 128)
    {e : Nat} (he : e < 16384) :
    ((s.update fa fb (as.map (kRow (fmtBits fa))) (bs.map (kRow (fmtBits fb))) (List.replicate 128 (some 0, false))
      (List.replicate 128 (some 0, false))).1.elems.getD e 0) =
      (mmaElem fa fb (kRow (fmtBits fa) (as.getD (e / 128) [])) (kRow (fmtBits fb) (bs.getD (e % 128) [])) (some 0) (some 0)
        (s.elems.getD e 0)).1 := by
  have hrow : ∀ {bits i : Nat} {rows : List (List (Byte × Bool))} (d : KRow), i < rows.length →
      (rows.map (kRow bits)).getD i d = kRow bits (rows.getD i []) := fun d hi => by
    rw [List.getD_eq_getElem _ _ (by simpa using hi), List.getD_eq_getElem _ _ hi, List.getElem_map]
  have hscale : ∀ i, i < 128 → (List.replicate 128 ((some 0, false) : Option Int × Bool)).getD i (some 0, false) = (some 0, false) :=
    fun i hi => by rw [List.getD_eq_getElem _ _ (by simpa using hi), List.getElem_replicate]
  have hi : e / 128 < 128 := by omega
  have hj : e % 128 < 128 := by omega
  have hget : ∀ f : Nat → Word, SMap.getD ((List.range 16384).map (fun e => (e, f e))) e 0 = f e := fun f => by
    have h := get?_map_range' f 0 16384 0 e he
    simp only [Nat.zero_add] at h
    rw [SMap.getD, List.range_eq_range', h]
    rfl
  unfold AccSlot.update
  dsimp only
  rw [List.map_map]
  refine (hget _).trans ?_
  dsimp only
  rw [hrow _ (ha ▸ hi), hrow _ (hb ▸ hj), hscale _ hi, hscale _ hj]

theorem Mach.slot_freeElems_nil (m : Mach) (core i : Nat) : ((m.freeElems core i []).core core).slot i = (m.core core).slot i := by
  simp [Mach.freeElems, Mach.drawMany, Core.slot, Core.setSlot, Mach.modCore, Mach.core, Mach.setCore]

theorem Mach.slot_modOp (m : Mach) (core i : Nat) (f : EngineOp → EngineOp) : ((m.modOp core f).core core).slot i = (m.core core).slot i := by
  rw [Mach.modOp, Mach.core_modCore_self]
  split <;> rfl

section
variable {d : Device} {m m1 m2 : Mach} {core kb : Nat} {o : EngineOp} {as bs : List (List (Byte × Bool))}

/-- The rows of the A side and of the B side that a K-block of an MMA reads. -/
def Mach.aRows (d : Device) (m : Mach) (core : Nat) (o : EngineOp) (kb : Nat) : Mach × Except CopyGot (List (List (Byte × Bool))) :=
  let fa := bitsOf (o.block.getD 4 0).toNat 8 4
  m.engineRows d core o.view (o.ptrs.getD 0 0) (o.block.getD 2 0) (kb * 4 * fmtBits fa) (4 * fmtBits fa) (o.tags.getD 0 0) (List.range 128)

def Mach.bRows (d : Device) (m : Mach) (core : Nat) (o : EngineOp) (kb : Nat) : Mach × Except CopyGot (List (List (Byte × Bool))) :=
  let fb := bitsOf (o.block.getD 4 0).toNat 12 4
  m.engineRows d core o.view (o.ptrs.getD 1 0) (o.block.getD 3 0) (kb * 4 * fmtBits fb) (4 * fmtBits fb) (o.tags.getD 1 0) (List.range 128)

/-- The slot of an MMA after a K-block of these rows. -/
def EngineOp.updated (o : EngineOp) (as bs : List (List (Byte × Bool))) (s : AccSlot) : AccSlot × Bool :=
  let fa := bitsOf (o.block.getD 4 0).toNat 8 4
  let fb := bitsOf (o.block.getD 4 0).toNat 12 4
  s.update fa fb (as.map (kRow (fmtBits fa))) (bs.map (kRow (fmtBits fb))) (List.replicate 128 (some 0, false))
    (List.replicate 128 (some 0, false))

/-- The elements after a K-block, integer and floating (R174, R176). -/
theorem EngineOp.elems_updated {o : EngineOp} {as bs : List (List (Byte × Bool))} {old new : AccSlot}
    (hnew : new = (o.updated as bs old).1) (ha : as.length = 128) (hb : bs.length = 128) {e : Nat} (he : e < 16384) :
    let fa := bitsOf (o.block.getD 4 0).toNat 8 4
    let fb := bitsOf (o.block.getD 4 0).toNat 12 4
    let x := fun i => bitsOf (leNat ((as.getD (e / 128) []).map (·.1))) (fmtBits fa * i) (fmtBits fa)
    let y := fun i => bitsOf (leNat ((bs.getD (e % 128) []).map (·.1))) (fmtBits fb * i) (fmtBits fb)
    (4 ≤ fa → new.elems.getD e 0 =
      sat32 ((old.elems.getD e 0).toInt + ((List.range 32).map (fun i => sextNat (x i) (fmtBits fa) * sextNat (y i) (fmtBits fb))).sum)) ∧
    (fa < 4 → new.elems.getD e 0 = BitVec.ofNat 32 (blockUpdate (pairWindow fa) (old.elems.getD e 0).toNat
      ((List.range 32).map (fun i => (codeVal fa (x i)).mul (codeVal fb (y i)))) 0 false)) := by
  intro fa fb x y
  have helem := AccSlot.elems_update old fa fb ha hb he
  rw [hnew]
  exact ⟨fun h => helem.trans (mmaElem_integer h ..), fun h => helem.trans (mmaElem_float h ..)⟩

/-- A K-block of an MMA whose rows can be read changes its slot (R174 to R176). -/
theorem Mach.mmaBlock_applied (hkind : o.kind = .mma) (hwild : o.wild = []) (has : m.aRows d core o kb = (m1, .ok as))
    (hbs : m1.bRows d core o kb = (m2, .ok bs)) (hlive : ((m2.core core).slot o.slot).live = true)
    (hgen : ((m2.core core).slot o.slot).gen = o.gen) :
    ∃ m3 clamped, m.mmaBlock d core o kb = (m3, .ok clamped) ∧
      (m3.core core).slot o.slot = (o.updated as bs ((m2.core core).slot o.slot)).1 := by
  unfold Mach.aRows at has
  unfold Mach.bRows at hbs
  dsimp only at has hbs
  unfold Mach.mmaBlock
  simp only [has, hbs, hkind, if_true, hlive, hgen, Bool.not_true, bne_self_eq_false, Bool.or_self, Bool.false_eq_true, if_false, hwild]
  refine ⟨_, _, rfl, ?_⟩
  rw [Mach.slot_freeElems_nil, Mach.core_modCore_self]
  simp [Core.slot, Core.setSlot, EngineOp.updated]

/-- The operation at the head of the queue applies its next K-block (R284, R285). -/
theorem Mach.kBlock_applied {os : List EngineOp} (hengine : (m.core core).engine = o :: os) (hlatches : (m.core core).latches = [])
    (hkind : o.kind = .mma) (hstate : o.state = .queued ∨ o.state = .running) (hprog : o.prog / 32 < o.kBlocks)
    (hgated : m.engineGated core o = false) (hwaits : m.engineWaits core o = false) (hwild : o.wild = [])
    (has : m.aRows d core o (o.prog / 32) = (m1, .ok as)) (hbs : m1.bRows d core o (o.prog / 32) = (m2, .ok bs))
    (hlive : ((m2.core core).slot o.slot).live = true) (hgen : ((m2.core core).slot o.slot).gen = o.gen) :
    ((m.kBlock d core).core core).slot o.slot = (o.updated as bs ((m2.core core).slot o.slot)).1 := by
  obtain ⟨m3, clamped, hblock, hslot⟩ := Mach.mmaBlock_applied hkind hwild has hbs hlive hgen
  have hgo : (o.state == .parked || o.state == .held || o.kBlocks ≤ o.prog / 32 || (o.prog / 32 == 0 && m.engineGated core o) ||
      m.engineWaits core o) = false := by
    have hle : ¬ o.kBlocks ≤ o.prog / 32 := Nat.not_le.2 hprog
    obtain h | h := hstate <;> simp [h, hle, hgated, hwaits]
  unfold Mach.kBlock
  simp only [Mach.acceptAll_of_idle hlatches, hengine, hgo, Bool.false_eq_true, if_false, hkind, hblock]
  rw [Mach.slot_modOp, hslot]

end

theorem exec_kBlock {s : State} {core : Nat} (h : s.works core = true) :
    exec (.kBlock core) s = .next { s with mach := s.mach.kBlock s.dev core } := by
  show execKBlock core s = _
  simp [execKBlock, State.during, h]

end Sys2Proof.Machine
end

section
/-! PROOF. Placement (R56, R66, R112 to R114): the invariant Placing of the steps that place a unit, and the conveyances' obligation. -/

namespace Sys2Proof.Machine

/-! ### What the steps of a placement leave alone -/

theorem Mach.core_modCore (m : Mach) (core : Nat) (f : Core → Core) (c : Nat) :
    (m.modCore core f).core c = if c = core then f (m.core core) else m.core c := by
  split
  · next h => rw [h, Mach.core_modCore_self]
  · next h => exact Mach.core_modCore_ne m f h

/-- No frame of the core is pinned. -/
def Core.Unpinned (c : Core) : Prop := ∀ f ∈ c.frames, f.2.state ≠ .pinned

/-- The group is as before but for a stop, or a stop that is asked for. -/
def StopsOnly (g g1 : Group) : Prop := g1 = { g with
  state := g1.state, cause := g1.cause, fcode := g1.fcode, runCount := g1.runCount, wait := g1.wait, stopMark := g1.stopMark
  freeze := g1.freeze, skipImplicit := g1.skipImplicit }

theorem StopsOnly.refl (g : Group) : StopsOnly g g := rfl

theorem StopsOnly.trans {a b c : Group} (h : StopsOnly a b) (h' : StopsOnly b c) : StopsOnly a c := by
  unfold StopsOnly at *
  rw [h', h]

/-- No group and no block is new, times and allowances are as before, no frame is newly pinned, and groups have at most stopped,
those of the cores P alone. -/
structure Quiet (P : Nat → Prop) (m m1 : Mach) : Prop where
  cycle : ∀ c, (m1.core c).cycle = (m.core c).cycle
  callow : ∀ n, (m1.ctx n).callow = (m.ctx n).callow
  blocks : ∀ cl, (m1.cluster cl).blocks = (m.cluster cl).blocks
  pinned : ∀ c, ¬P c → (m.core c).Unpinned → (m1.core c).Unpinned
  groups : ∀ c k g1, m1.group? c k = some g1 → ∃ g, m.group? c k = some g ∧ StopsOnly g g1 ∧ (¬P c → g1.state = g.state)

namespace Quiet
variable {P : Nat → Prop} {m m1 : Mach}

theorem refl (m : Mach) : Quiet P m m := ⟨fun _ => rfl, fun _ => rfl, fun _ => rfl, fun _ _ h => h, fun _ _ g h => ⟨g, h, .refl g, fun _ => rfl⟩⟩

theorem trans {a b c : Mach} (h : Quiet P a b) (h' : Quiet P b c) : Quiet P a c where
  cycle k := (h'.cycle k).trans (h.cycle k)
  callow n := (h'.callow n).trans (h.callow n)
  blocks cl := (h'.blocks cl).trans (h.blocks cl)
  pinned k hP hk := h'.pinned k hP (h.pinned k hP hk)
  groups k n g2 hg2 := by
    obtain ⟨g1, hg1, hs1, hst1⟩ := h'.groups k n g2 hg2
    obtain ⟨g, hg, hs, hst⟩ := h.groups k n g1 hg1
    exact ⟨g, hg, hs.trans hs1, fun hP => (hst1 hP).trans (hst hP)⟩

theorem foldl {β : Type} {step : Mach → β → Mach} (hs : ∀ m b, Quiet P m (step m b)) (l : List β) (m : Mach) :
    Quiet P m (l.foldl step m) :=
  foldl_keeps (Quiet P m) step (fun a b h => h.trans (hs a b)) l m (refl m)

/-- A change of what stands outside the cores. -/
theorem of_cores (hcores : m1.cores = m.cores) (hcallow : ∀ n, (m1.ctx n).callow = (m.ctx n).callow)
    (hblocks : ∀ cl, (m1.cluster cl).blocks = (m.cluster cl).blocks) : Quiet P m m1 := by
  have hcore : ∀ c, m1.core c = m.core c := fun c => by unfold Mach.core; rw [hcores]
  exact ⟨fun c => by rw [hcore], hcallow, hblocks, fun c _ h => by rwa [hcore],
    fun c k g h => ⟨g, by rwa [Mach.group?, hcore] at h, .refl g, fun _ => rfl⟩⟩

theorem modCore (m : Mach) (core : Nat) {f : Core → Core} (hcycle : (f (m.core core)).cycle = (m.core core).cycle)
    (hpinned : ¬P core → (m.core core).Unpinned → (f (m.core core)).Unpinned) (hgroups : (f (m.core core)).groups = (m.core core).groups) :
    Quiet P m (m.modCore core f) := by
  refine ⟨fun c => ?_, fun _ => rfl, fun _ => rfl, fun c hP h => ?_, fun c k g h => ⟨g, ?_, .refl g, fun _ => rfl⟩⟩
  · rw [Mach.core_modCore]
    split
    · next hc => rw [hc, hcycle]
    · rfl
  · rw [Mach.core_modCore]
    split
    · next hc => exact hpinned (hc ▸ hP) (hc ▸ h)
    · exact h
  · rw [Mach.group?, Mach.core_modCore] at h
    split at h
    · next hc => rwa [hgroups, ← hc] at h
    · exact h

theorem setGroup {core slot : Nat} {g g1 : Group} (hg : m.group? core slot = some g) (hstops : StopsOnly g g1)
    (hstate : ¬P core → g1.state = g.state) : Quiet P m (m.setGroup core slot g1) := by
  refine ⟨fun c => ?_, fun _ => rfl, fun _ => rfl, fun c _ h => ?_, fun c k g2 h => ?_⟩
  · rw [Mach.setGroup, Mach.core_modCore]
    split
    · next hc => rw [hc]
    · rfl
  · rw [Mach.setGroup, Mach.core_modCore]
    split
    · next hc => exact hc ▸ h
    · exact h
  · rw [Mach.group?, Mach.setGroup, Mach.core_modCore] at h
    split at h
    · next hc =>
      dsimp only at h
      rw [SMap.get?_set] at h
      subst hc
      split at h
      · next hk =>
        subst hk
        cases h
        exact ⟨g, hg, hstops, hstate⟩
      · exact ⟨g2, h, .refl g2, fun _ => rfl⟩
    · exact ⟨g2, h, .refl g2, fun _ => rfl⟩

theorem postFq (m : Mach) (ctx kind acc va aux core : Nat) (slot : Option Nat) (tokens : List Nat) :
    Quiet P m (m.postFq ctx kind acc va aux core slot tokens) := by
  refine of_cores (by simp) (fun n => ?_) (fun cl => by rw [Mach.cluster, Mach.postFq_clusters]; rfl)
  unfold Mach.postFq
  split
  · rfl
  · by_cases hn : n = ctx
    · subst hn
      rw [Mach.ctx_modCtx_self]
      unfold Ctx.post
      split
      · rfl
      · split
        · rfl
        · split <;> rfl
    · rw [Mach.ctx_modCtx_ne _ _ hn]

theorem postEvent (m : Mach) (kind source cycle data : Nat) : Quiet P m (m.postEvent kind source cycle data) :=
  of_cores (by simp) (fun n => by unfold Mach.ctx; simp) (fun cl => by unfold Mach.cluster; simp)

end Quiet

/-- What a stop's record leaves of its core. -/
theorem Core.postStop_eq (c : Core) (r : MboxRec) : c.postStop r = { c with
    mbox := (c.postStop r).mbox, mseq := (c.postStop r).mseq, stopList := (c.postStop r).stopList } := by
  unfold Core.postStop Core.fillMailbox
  split
  · rfl
  · split <;> rfl

namespace Quiet
variable {P : Nat → Prop} {m : Mach} {core : Nat}

theorem postStop (m : Mach) (core : Nat) (r : MboxRec) : Quiet P m (m.modCore core (·.postStop r)) :=
  modCore m core (by rw [Core.postStop_eq]) (by rw [Core.postStop_eq]; exact fun _ => id) (by rw [Core.postStop_eq])

theorem takeFault (hP : P core) (m : Mach) (slot : Nat) (c : Code) (a : Va) : Quiet P m (m.takeFault core slot c a) := by
  unfold Mach.takeFault
  split
  · exact refl m
  · next g hg =>
    have hrelease : Quiet P m (m.setCore core ((m.core core).releaseLane slot)) := modCore m core (f := (·.releaseLane slot)) rfl (fun _ => id) rfl
    have hg1 : (m.setCore core ((m.core core).releaseLane slot)).group? core slot = some g := by
      rw [Mach.group?, Mach.core_setCore_self]
      exact hg
    have hstop := hrelease.trans (setGroup (g1 := g.stop .fault (some c)) hg1 (by exact rfl) fun h => absurd hP h)
    dsimp only
    split
    · exact hstop.trans (.postEvent ..)
    · exact hstop.trans (.postStop ..)

theorem stopGroup (hP : P core) {slot : Nat} {g : Group} (hg : m.group? core slot = some g) : Quiet P m (m.stopGroup core slot g) := by
  unfold Mach.stopGroup
  refine (setGroup hg (by exact rfl) fun h => absurd hP h).trans (modCore _ _ ?_ ?_ ?_) <;> rw [Core.postStop_eq]
  · rfl
  · exact fun _ => id
  · rfl

/-- The stops of a core at a run boundary (R230, R310). -/
theorem atBoundary (hP : P core) (m : Mach) (slot : Nat) : Quiet P m (m.atBoundary core slot) := by
  have hset : ∀ {g g1 : Group}, m.group? core slot = some g → StopsOnly g g1 → Quiet P m (m.setGroup core slot g1) :=
    fun hg hs => setGroup hg hs fun h => absurd hP h
  unfold Mach.atBoundary
  split
  · exact refl m
  · next g hg =>
    split
    · exact refl m
    · split
      · exact hset hg (by exact rfl)
      · exact (hset hg (by exact rfl)).trans (takeFault hP ..)
      · split
        · exact (hset hg (by exact rfl)).trans (takeFault hP ..)
        · split
          · exact refl m
          · split
            · dsimp only
              split
              · exact (hset hg (by exact rfl)).trans (.postEvent ..)
              · exact (hset hg (by exact rfl)).trans (.postStop ..)
            · split
              · exact stopGroup hP hg
              · exact refl m

theorem violation (hP : P core) (m : Mach) (ctx slot uid : Nat) (code : Code) (va : Va) (acc : Nat) :
    Quiet P m (m.violation ctx core slot uid code va acc) := by
  unfold Mach.violation
  dsimp only
  have hpost : Quiet P m (m.postFq ctx 7 acc va.toNat 0 core (some slot) []) := postFq ..
  set m1 := m.postFq ctx 7 acc va.toNat 0 core (some slot) []
  refine hpost.trans ?_
  split
  · exact refl _
  · split
    · exact refl _
    · refine Quiet.trans ?_ (atBoundary hP ..)
      unfold Mach.modUid
      split
      · unfold Mach.modGroup
        split
        · next g hg => exact setGroup hg (by exact rfl) fun _ => rfl
        · exact refl _
      · split
        · exact modCore _ _ rfl (fun _ => id) rfl
        · exact refl _

theorem noteLine (m : Mach) (l : Loc) (n : Nat) (tag : Option FTag) (ctx core : Nat) (slot : Option Nat) (acc va : Nat) :
    Quiet P m (m.noteLine l n tag ctx core slot acc va) := by
  have hcount : ∀ c : Core, OnlyPerf c (c.countFor slot 18 1) := fun c => by
    unfold Core.countFor
    split <;> exact Core.count_eq ..
  have hlog : ∀ (m : Mach) a va, Quiet P m (m.logCorrected a ctx core slot acc va) := fun m a va => by
    unfold Mach.logCorrected
    split
    · exact refl m
    · exact (postFq m ..).trans (modCore _ _ (by rw [hcount]) (by rw [hcount]; exact fun _ => id) (by rw [hcount]))
  have hsector : ∀ (m : Mach) a va, Quiet P m (m.noteSector a tag ctx core slot acc va) := fun m a va => by
    unfold Mach.noteSector
    split
    · exact hlog ..
    · exact refl m
  unfold Mach.noteLine
  split
  · dsimp only
    split
    · exact (foldl (fun m i => hsector ..) _ m).trans (of_cores rfl (fun _ => rfl) (fun _ => rfl))
    · exact foldl (fun m i => hsector ..) _ m
  · exact refl m

end Quiet

theorem Core.mem_frames_of_pinned {c : Core} {f : Nat} (h : (c.frame f).state = .pinned) : (f, c.frame f) ∈ c.frames := by
  unfold Core.frame SMap.getD at *
  cases hf : c.frames.get? f with
  | none =>
    rw [hf] at h
    cases h
  | some x => exact SMap.mem_of_get? hf

theorem Core.Unpinned.frame {c : Core} (h : c.Unpinned) (f : Nat) : (c.frame f).state ≠ .pinned :=
  fun hpin => h _ (Core.mem_frames_of_pinned hpin) hpin

theorem Core.Unpinned.setFrame {c : Core} (h : c.Unpinned) (f : Nat) {x : Frame} (hx : x.state ≠ .pinned) : (c.setFrame f x).Unpinned := by
  intro e he
  unfold Core.setFrame at he
  dsimp only at he
  split at he
  · exact h e (List.mem_filter.1 he).1
  · obtain rfl | hold := SMap.key_mem_set _ _ _ he
    · exact hx
    · exact h e hold

/-- A stale notice leaves the frames' states, the groups and the time of its core (R87). -/
theorem Core.staleLine_keeps (c : Core) (line : Loc) : (c.staleLine line).cycle = c.cycle ∧ (c.staleLine line).groups = c.groups ∧
    (c.Unpinned → (c.staleLine line).Unpinned) := by
  unfold Core.staleLine
  split
  · next f _ => exact ⟨rfl, rfl, fun h => h.setFrame f (h.frame f)⟩
  · exact ⟨rfl, rfl, id⟩

namespace Quiet
variable {P : Nat → Prop} {m : Mach}

theorem takeNotices (m : Mach) (core : Nat) : Quiet P m (m.takeNotices core) := by
  have hlines : ∀ (ls : List Loc) (c : Core), (ls.foldl Core.staleLine c).cycle = c.cycle ∧ (ls.foldl Core.staleLine c).groups = c.groups ∧
      (c.Unpinned → (ls.foldl Core.staleLine c).Unpinned) := fun ls c =>
    foldl_keeps (fun x => x.cycle = c.cycle ∧ x.groups = c.groups ∧ (c.Unpinned → x.Unpinned)) _ (fun x l ⟨h1, h2, h3⟩ =>
      have ⟨k1, k2, k3⟩ := x.staleLine_keeps l
      ⟨k1.trans h1, k2.trans h2, fun h => k3 (h3 h)⟩) ls c ⟨rfl, rfl, id⟩
  unfold Mach.takeNotices
  dsimp only
  generalize m.msgs.filterMap _ = ls
  have hnote : Quiet P m (m.modCore core (fun c => ls.foldl Core.staleLine c)) :=
    modCore m core (hlines ls _).1 (fun _ => (hlines ls _).2.2) (hlines ls _).2.1
  exact hnote.trans (of_cores rfl (fun _ => rfl) (fun _ => rfl))

/-- The refresh of a core's frames stops groups only where a frame is pinned (R294, R327). -/
theorem refreshFrames {core : Nat} (hpin : ¬P core → (m.core core).Unpinned) (slot : Nat) (g : Group) (scope : Nat) (fs : List Nat) :
    Quiet P m (m.refreshFrames core slot g scope fs) := by
  refine foldl_keeps (Quiet P m) _ (fun m1 f h => h.trans ?_) fs m (refl m)
  dsimp only
  split
  · exact refl m1
  · split
    · next hf =>
      have hP : P core := by_contra fun hn => (h.pinned core hn (hpin hn)).frame f hf
      have hfetch : ∀ fr, Quiet P m1 ((m1.noteLine ((m1.core core).frame f).line 128 (some ((m1.core core).frame f).tag) g.id.ctx core
          (some slot) 0 ((m1.core core).frame f).va.toNat).modCore core (fun c => c.setFrame f fr)) := fun fr =>
        (noteLine m1 ..).trans (modCore _ _ rfl (fun hn => absurd hP hn) rfl)
      split
      · exact (hfetch _).trans (violation hP ..)
      · exact hfetch _
    · exact modCore m1 core rfl (fun _ h e he => h e (List.mem_filter.1 he).1) rfl

theorem takePages (m : Mach) (cl bid ctx : Nat) (harvest : Bool) (ps : List Nat) : Quiet P m (m.takePages cl bid ctx harvest ps) := by
  unfold Mach.takePages
  refine foldl (fun m p => ?_) ps m
  refine of_cores rfl (fun _ => rfl) fun c => ?_
  unfold Mach.freshPage Mach.draw Mach.modCluster
  by_cases hc : c = cl
  · subst hc
    rw [Mach.cluster_setCluster_self]
    rfl
  · rw [Mach.cluster_setCluster_ne _ _ hc]
    rfl

end Quiet

/-! ### Where the groups of a block go -/

theorem mem_of_leastBy {f : Nat → Nat} {xs : List Nat} {x : Nat} (h : leastBy f xs = some x) : x ∈ xs := by
  cases xs with
  | nil => cases h
  | cons y ys =>
    have hfold : ∀ (l : List Nat) (b : Nat), b ∈ y :: ys → (∀ z ∈ l, z ∈ y :: ys) → l.foldl (fun b z => if f z < f b then z else b) b ∈ y :: ys := by
      intro l
      induction l with
      | nil => exact fun b hb _ => hb
      | cons z zs ih =>
        intro b hb hl
        refine ih _ ?_ fun w hw => hl w (List.mem_cons_of_mem _ hw)
        dsimp only
        split
        · exact hl z (List.mem_cons_self ..)
        · exact hb
    cases h
    exact hfold ys y (List.mem_cons_self ..) fun z hz => List.mem_cons_of_mem _ hz

theorem mem_of_shareOut : ∀ {rooms : List (Nat × Nat)} {n : Nat} {e : Nat × Nat}, e ∈ shareOut rooms n → e.1 ∈ rooms.map (·.1) := by
  intro rooms
  induction rooms with
  | nil =>
    intro n e he
    cases n <;> cases he
  | cons r rooms ih =>
    intro n e he
    cases n with
    | zero => cases he
    | succ n =>
      obtain ⟨c, room⟩ := r
      obtain rfl | he := List.mem_cons.1 he
      · exact List.mem_cons_self ..
      · exact List.mem_cons_of_mem _ (ih he)

/-- The groups of a block go to cores of its cluster (R343). -/
theorem Mach.clusterOf_coresFor {m : Mach} {cl : Nat} {w : Want} {r : Record} {skip cs : List Nat} (h : m.coresFor cl w r skip = some cs)
    {c : Nat} (hc : c ∈ cs) : clusterOf c = cl := by
  have hmember : ∀ {x}, x ∈ (List.range 8).map (8 * cl + ·) → clusterOf x = cl := fun hx => by
    obtain ⟨i, hi, rfl⟩ := List.mem_map.1 hx
    have := List.mem_range.1 hi
    unfold clusterOf
    omega
  unfold Mach.coresFor at h
  dsimp only at h
  split at h
  · cases h
  · next lead hlead =>
    have hleadcl : clusterOf lead = cl := hmember (List.mem_filter.1 (mem_of_leastBy hlead)).1
    split at h
    · cases h
    · cases h
      have hshare : ∀ {x : Nat} {l : List (Nat × Nat)}, (∀ e ∈ l, clusterOf e.1 = cl) → ∀ {k}, x ∈ (l.flatMap (fun e => List.replicate e.2 e.1)).drop k ∨
          x ∈ (l.flatMap (fun e => List.replicate e.2 e.1)).take k → clusterOf x = cl := by
        intro x l hl k hx
        have hx : x ∈ l.flatMap (fun e => List.replicate e.2 e.1) := hx.elim List.mem_of_mem_drop List.mem_of_mem_take
        obtain ⟨e, he, hrep⟩ := List.mem_flatMap.1 hx
        rw [List.eq_of_mem_replicate hrep]
        exact hl e he
      have hrooms : ∀ {n e}, e ∈ shareOut ((lead, (m.core lead).coreTakes w - (r.nmat + r.nvec)) :: (((List.range 8).map (8 * cl + ·)).filter
          (fun c => c != lead && !skip.contains c && (m.core c).admits w)).map (fun c => (c, (m.core c).coreTakes w))) n → clusterOf e.1 = cl := by
        intro n e he
        have hmem := mem_of_shareOut he
        rw [List.map_cons, List.map_map] at hmem
        obtain heq | hmem := List.mem_cons.1 hmem
        · rw [heq]
          exact hleadcl
        · obtain ⟨x, hx, heq⟩ := List.mem_map.1 hmem
          rw [← heq]
          exact hmember (List.mem_filter.1 hx).1
      obtain hc | hc := List.mem_append.1 hc
      · obtain hc | hc := List.mem_append.1 hc
        · exact hshare (fun e he => hrooms he) (.inr hc)
        · rw [List.eq_of_mem_replicate hc]
          exact hleadcl
      · exact hshare (fun e he => hrooms he) (.inl hc)

/-! ### What a placement brings -/

/-- A dictionary that is loaded leaves the rest of its core. -/
theorem Core.loadDict_eq (c : Core) (w : Want) : c.loadDict w = { c with dicts := (c.loadDict w).dicts } := by
  unfold Core.loadDict
  split
  · rfl
  · split <;> rfl

/-- The group is as launch l, of number lid, is placed on core c of cluster cl, but for a stop, and outside P it has not stopped. -/
def Placed (P : Nat → Prop) (m0 : Mach) (l : Launch) (lid cl c : Nat) (g : Group) : Prop :=
  clusterOf c = cl ∧ (¬P c → g.state = .ready) ∧ ∃ uid id, id.ctx = l.ctx ∧ id.launch = lid ∧ id.entry = BitVec.ofNat 56 l.record.entry ∧
    StopsOnly (newGroup uid id l.record (m0.core c).cycle (m0.ctx l.ctx).callow) g

/-- The block is launch l's, of number lid, with its rings and barriers. -/
def PlacedBlock (l : Launch) (lid : Nat) (b : Block) : Prop :=
  b.ctx = l.ctx ∧ b.launch = lid ∧ b.rings = newRings l.record ∧ b.bars = newBars l.record

/-- Since m0, groups and blocks have come of launch l alone, on cluster cl; times and allowances are as before, and no frame is newly
pinned. -/
structure Placing (P : Nat → Prop) (m0 : Mach) (l : Launch) (lid cl : Nat) (m : Mach) : Prop where
  cycle : ∀ c, (m.core c).cycle = (m0.core c).cycle
  callow : ∀ n, (m.ctx n).callow = (m0.ctx n).callow
  pinned : ∀ c, ¬P c → (m0.core c).Unpinned → (m.core c).Unpinned
  groups : ∀ c k g, m.group? c k = some g → (∃ g0, m0.group? c k = some g0) ∨ Placed P m0 l lid cl c g
  blocks : ∀ bid b, (m.cluster cl).blocks.get? bid = some b → (∃ b0, (m0.cluster cl).blocks.get? bid = some b0) ∨ PlacedBlock l lid b

namespace Placing
variable {P : Nat → Prop} {m0 m m1 : Mach} {l : Launch} {lid cl : Nat}

theorem refl (m : Mach) : Placing P m l lid cl m :=
  ⟨fun _ => rfl, fun _ => rfl, fun _ _ h => h, fun _ _ g h => .inl ⟨g, h⟩, fun _ b h => .inl ⟨b, h⟩⟩

theorem quiet (h : Placing P m0 l lid cl m) (hq : Quiet P m m1) : Placing P m0 l lid cl m1 where
  cycle c := (hq.cycle c).trans (h.cycle c)
  callow n := (hq.callow n).trans (h.callow n)
  pinned c hP hc := hq.pinned c hP (h.pinned c hP hc)
  groups c k g1 hg1 := by
    obtain ⟨g, hg, hstops, hstate⟩ := hq.groups c k g1 hg1
    obtain hold | ⟨hcl, hready, uid, id, hctx, hlid, hentry, hnew⟩ := h.groups c k g hg
    · exact .inl hold
    · exact .inr ⟨hcl, fun hP => (hstate hP).trans (hready hP), uid, id, hctx, hlid, hentry, hnew.trans hstops⟩
  blocks bid b hb := h.blocks bid b (by rwa [← hq.blocks])

/-- A cluster's blocks change. -/
theorem modCluster (h : Placing P m0 l lid cl m) (k : Nat) {f : Cluster → Cluster}
    (hf : k = cl → ∀ bid b, (f (m.cluster k)).blocks.get? bid = some b → (m.cluster k).blocks.get? bid = some b ∨ PlacedBlock l lid b ∨
      ∃ b0, (m0.cluster cl).blocks.get? bid = some b0) : Placing P m0 l lid cl (m.modCluster k f) where
  cycle := h.cycle
  callow := h.callow
  pinned := h.pinned
  groups := h.groups
  blocks bid b hb := by
    unfold Mach.modCluster at hb
    by_cases hk : cl = k
    · subst hk
      rw [Mach.cluster_setCluster_self] at hb
      obtain hb | hb | hb := hf rfl bid b hb
      · exact h.blocks bid b hb
      · exact .inr hb
      · exact .inl hb
    · rw [Mach.cluster_setCluster_ne _ _ hk] at hb
      exact h.blocks bid b hb

theorem modBlock (h : Placing P m0 l lid cl m) (k bid : Nat) {f : Block → Block} (hf : ∀ b, PlacedBlock l lid b → PlacedBlock l lid (f b)) :
    Placing P m0 l lid cl (m.modBlock k bid f) := by
  refine h.modCluster k fun hk j b1 hb1 => ?_
  split at hb1
  · next b hb =>
    dsimp only at hb1
    rw [SMap.get?_set] at hb1
    split at hb1
    · next hj =>
      cases hb1
      subst hj hk
      obtain hold | hnew := h.blocks _ b hb
      · exact .inr (.inr hold)
      · exact .inr (.inl (hf b hnew))
    · exact .inl hb1
  · exact .inl hb1

/-- A group takes its slot. -/
theorem seat (h : Placing P m0 l lid cl m) {core : Nat} (slot : Nat) (w : Want) {g : Group} (hg : Placed P m0 l lid cl core g) :
    Placing P m0 l lid cl (m.modCore core (fun c => { c.loadDict w with groups := c.groups.set slot g })) := by
  refine ⟨fun c => ?_, h.callow, fun c hP hc => ?_, fun c k g1 hg1 => ?_, h.blocks⟩
  · rw [Mach.core_modCore, ← h.cycle]
    split
    · next hc => rw [hc, Core.loadDict_eq]
    · rfl
  · rw [Mach.core_modCore]
    split
    · next heq =>
      rw [Core.loadDict_eq]
      exact heq ▸ h.pinned c hP hc
    · exact h.pinned c hP hc
  · rw [Mach.group?, Mach.core_modCore] at hg1
    split at hg1
    · next hc =>
      dsimp only at hg1
      rw [SMap.get?_set] at hg1
      subst hc
      split at hg1
      · cases hg1
        exact .inr hg
      · exact h.groups _ k g1 hg1
    · exact h.groups c k g1 hg1

theorem seatGroup (hP : ∀ c, ¬P c → (m0.core c).Unpinned) (h : Placing P m0 l lid cl m) {core : Nat} (hcore : clusterOf core = cl) (bid : Nat)
    (w : Want) {id : Ident} (hctx : id.ctx = l.ctx) (hlid : id.launch = lid) (hentry : id.entry = BitVec.ofNat 56 l.record.entry) :
    Placing P m0 l lid cl (m.seatGroup core bid w id l.record) := by
  unfold Mach.seatGroup
  dsimp only
  split
  · exact h
  · split
    · exact h
    · next slot _ _ =>
      have hfresh : Placing P m0 l lid cl m.fresh.2 := h.quiet (.of_cores rfl (fun _ => rfl) (fun _ => rfl))
      have hg : Placed P m0 l lid cl core (newGroup m.fresh.1 id l.record (m.core core).cycle (m.fresh.2.ctx id.ctx).callow) := by
        refine ⟨hcore, fun _ => rfl, m.fresh.1, id, hctx, hlid, hentry, ?_⟩
        rw [h.cycle, hfresh.callow, hctx]
        exact .refl _
      have hseat := ((hfresh.quiet (.takeNotices _ core)).seat slot w hg).modBlock (clusterOf core) bid
        (f := fun b => { b with members := b.members.set id.gindex { core, slot, uid := m.fresh.1, role := id.role } }) fun _ hb => hb
      exact hseat.quiet (.refreshFrames (fun hn => hseat.pinned core hn (hP core hn)) ..)

theorem placeBlock (hP : ∀ c, ¬P c → (m0.core c).Unpinned) (h : Placing P m0 l lid cl m) {logical j : Nat} {copy : Bool} {skip cs : List Nat}
    {bid : Nat} (hplace : m.placeBlock l lid cl logical j copy skip = some (m1, bid, cs)) : Placing P m0 l lid cl m1 := by
  unfold Mach.placeBlock at hplace
  dsimp only at hplace
  split at hplace
  · next cs' bid' hcores _ =>
    split at hplace
    · cases hplace
    · cases hplace
      refine List.foldlRecOn _ _ ((h.quiet (.takePages ..)).modCluster cl fun _ i b hb => ?_) fun mi hi e he => ?_
      · dsimp only at hb
        rw [SMap.get?_set] at hb
        split at hb
        · cases hb
          exact .inr (.inl ⟨rfl, rfl, rfl, rfl⟩)
        · exact .inl hb
      · exact hi.seatGroup hP (Mach.clusterOf_coresFor hcores (List.fst_mem_of_mem_zipIdx he)) _ _ rfl rfl rfl
  · cases hplace

theorem placeOne (hP : ∀ c, ¬P c → (m0.core c).Unpinned) (h : Placing P m0 l lid cl m) {logical j : Nat}
    (hplace : m.placeOne l lid cl logical j = some m1) : Placing P m0 l lid cl m1 := by
  unfold Mach.placeOne at hplace
  split at hplace
  · cases hplace
  · next ma bid cs hfirst =>
    have ha := h.placeBlock hP hfirst
    split at hplace
    · cases hplace
      exact ha
    · split at hplace
      · cases hplace
      · next mb bid' _ hsecond =>
        cases hplace
        refine ((ha.placeBlock hP hsecond).modBlock _ _ ?_).modBlock _ _ ?_
        · exact fun _ hb => hb
        · exact fun _ hb => hb

theorem placeAll (hP : ∀ c, ¬P c → (m0.core c).Unpinned) {logical : Nat} : ∀ {js : List Nat} {m : Mach}, Placing P m0 l lid cl m →
    Mach.placeAll l lid cl logical js m = some m1 → Placing P m0 l lid cl m1 := by
  intro js
  induction js with
  | nil =>
    intro m h hplace
    cases hplace
    exact h
  | cons j js ih =>
    intro m h hplace
    unfold Mach.placeAll at hplace
    split at hplace
    · next ma hone => exact ih (h.placeOne hP hone) hplace
    · cases hplace

theorem placeUnit (hP : ∀ c, ¬P c → (m0.core c).Unpinned) {gated : List Nat} {u : Nat} (hplace : m0.placeUnit gated lid l u = some (cl, m)) :
    Placing P m0 l lid cl m := by
  unfold Mach.placeUnit at hplace
  dsimp only at hplace
  split at hplace
  · next i _ =>
    obtain ⟨x, _, hx⟩ := List.mem_filterMap.1 (List.mem_of_getElem? hplace)
    split at hx
    · cases hx
    · obtain ⟨y, hy, heq⟩ := Option.map_eq_some_iff.1 hx
      cases heq
      exact (refl m0).placeAll hP hy
  · cases hplace

end Placing

/-! ### The opportunity that places a unit -/

/-- What is noted of a placed unit leaves groups and clusters. -/
theorem Mach.notePlaced_leaves (m : Mach) (lid u : Nat) (l : Launch) : (m.notePlaced lid u l).cores = m.cores ∧
    (m.notePlaced lid u l).clusters = m.clusters := by
  unfold Mach.notePlaced
  dsimp only
  have hlaunch : ∀ (m : Mach) f, (m.modLaunch lid f).cores = m.cores ∧ (m.modLaunch lid f).clusters = m.clusters := fun m f => by
    unfold Mach.modLaunch
    split <;> exact ⟨rfl, rfl⟩
  unfold Mach.opportunity
  split
  · exact hlaunch _ _
  · exact hlaunch _ _

/-- The first queue of the rotation places its unit (R340). -/
theorem exec_placement {s : State} {lid u cl : Nat} {l : Launch} {m : Mach} (hrun : s.dev.running = true) (hviral : s.mach.viral = false)
    (hchance : s.mach.chance = true) (hhead : { s.mach with chance := false }.queueHead (s.mach.rotation % 256) = some (lid, l))
    (hpressed : { s.mach with chance := false }.pressed (s.mach.rotation % 256) l.ctx = false)
    (hnext : { s.mach with chance := false }.nextUnit l = some u)
    (hplace : { s.mach with chance := false }.placeUnit s.dev.asleep lid l u = some (cl, m))
    (howed : { s.mach with chance := false }.owed m cl = []) :
    exec .placement s = .next { s with mach := m.notePlaced lid u l } := by
  have hqueues : (List.range 256).map (fun i => (s.mach.rotation + i) % 256) =
      s.mach.rotation % 256 :: (List.range 255).map (fun i => (s.mach.rotation + (i + 1)) % 256) := by
    rw [List.range_succ_eq_map, List.map_cons, List.map_map]
    rfl
  have hserve : s.mach.placement s.dev.asleep = m.notePlaced lid u l := by
    unfold Mach.placement
    rw [hchance, hqueues]
    simp only [Bool.not_true, Bool.false_eq_true, if_false]
    unfold Mach.serveQueues
    simp only [hhead, hpressed, hnext, hplace, howed, Bool.false_eq_true, if_false]
  have hexec : exec .placement s = execPlacement s := rfl
  rw [hexec, execPlacement, hrun, hviral, hserve]
  rfl

/-! ### The registers, rings and barriers of a placement -/

/-- A map made of the chosen entries of a list, each at its place. -/
theorem SMap.get?_chosen {α β : Type} (p : α → Bool) (F : α → β) (xs : List α) (n j : Nat) :
    SMap.get? (((xs.zipIdx n).filter (fun e => p e.1)).map (fun e => (e.2, F e.1))) (n + j) =
      (xs[j]?).bind (fun x => if p x then some (F x) else none) := by
  have hbelow : ∀ (xs : List α) (n i : Nat), i < n → SMap.get? (((xs.zipIdx n).filter (fun e => p e.1)).map (fun e => (e.2, F e.1))) i = none := by
    intro xs
    induction xs with
    | nil => exact fun _ _ _ => rfl
    | cons x xs ih =>
      intro n i hi
      rw [List.zipIdx_cons, List.filter_cons]
      split
      · rw [List.map_cons, SMap.get?_cons, if_neg (by dsimp only; omega)]
        exact ih (n + 1) i (by omega)
      · exact ih (n + 1) i (by omega)
  induction xs generalizing n j with
  | nil => rfl
  | cons x xs ih =>
    rw [List.zipIdx_cons, List.filter_cons]
    cases j with
    | zero =>
      rw [List.getElem?_cons_zero, Option.bind_some]
      dsimp only
      split
      · rw [List.map_cons, SMap.get?_cons, if_pos (by rfl)]
      · exact hbelow xs (n + 1) n (by omega)
    | succ j =>
      rw [List.getElem?_cons_succ, ← ih (n + 1) j]
      have hn : n + (j + 1) = n + 1 + j := by omega
      split
      · rw [List.map_cons, SMap.get?_cons, if_neg (by dsimp only; omega), hn]
      · rw [hn]

theorem SMap.get?_chosen_zero {α β : Type} (p : α → Bool) (F : α → β) (xs : List α) (j : Nat) :
    SMap.get? ((xs.zipIdx.filter (fun e => p e.1)).map (fun e => (e.2, F e.1))) j = (xs[j]?).bind (fun x => if p x then some (F x) else none) := by
  have h := SMap.get?_chosen p F xs 0 j
  rwa [Nat.zero_add] at h

theorem newGroup_readK (uid : Nat) (id : Ident) (r : Record) (cycle : Nat) (callow : BitVec 16) (i : Nat) :
    (newGroup uid id r cycle callow).readK i = r.kargs.getD i 0 := by
  have h := SMap.get?_chosen_zero (fun x : Word => x != 0) (fun x => x) r.kargs i
  unfold Group.readK newGroup SMap.getD
  dsimp only
  rw [h, List.getD_eq_getElem?_getD]
  cases r.kargs[i]? with
  | none => rfl
  | some x =>
    rw [Option.bind_some]
    split
    · rfl
    · next hx =>
      rw [bne_iff_ne, not_not] at hx
      rw [hx]
      rfl

theorem newGroup_span (uid : Nat) (id : Ident) (r : Record) (cycle : Nat) (callow : BitVec 16) {i : Nat} {x : BitVec 192} (hx : r.spans[i]? = some x) :
    (newGroup uid id r cycle callow).span i = Span.ofImage x := by
  have h := SMap.get?_chosen_zero (fun _ => true) Span.ofImage r.spans i
  rw [List.filter_true, hx, Option.bind_some, if_pos rfl] at h
  unfold Group.span newGroup SMap.getD
  dsimp only
  rw [h]
  rfl

theorem newRings_get? (r : Record) {j : Nat} {x : Word} (hx : r.rings[j]? = some x) : (newRings r).get? j =
    if x.toNat % 128 = 0 then none else some { offset := x.toNat / 256, depth := x.toNat % 128, allow := x.toNat % 128 } := by
  have h := SMap.get?_chosen_zero (fun x : Word => x.toNat % 128 != 0)
    (fun x => ({ offset := x.toNat / 256, depth := x.toNat % 128, allow := x.toNat % 128 } : Ring)) r.rings j
  unfold newRings
  rw [h, hx, Option.bind_some]
  by_cases hz : x.toNat % 128 = 0 <;> simp [hz]

theorem newBars_get? (r : Record) {j : Nat} {x : BitVec 16} (hx : r.bars[j]? = some x) : (newBars r).get? j =
    if x = 0 then none else some { expect := x.toNat, curexp := x.toNat } := by
  have h := SMap.get?_chosen_zero (fun x : BitVec 16 => x != 0) (fun x => ({ expect := x.toNat, curexp := x.toNat } : Barrier)) r.bars j
  unfold newBars
  rw [h, hx, Option.bind_some]
  by_cases hz : x = 0 <;> simp [hz]

/-! ### What a placed group holds -/

namespace StopsOnly
variable {g g1 : Group}

theorem registers (h : StopsOnly g g1) : g1.v = g.v ∧ g1.vtag = g.vtag ∧ g1.k = g.k ∧ g1.preds = g.preds ∧ g1.spans = g.spans ∧
    g1.lines = g.lines := by
  unfold StopsOnly at h
  refine ⟨?_, ?_, ?_, ?_, ?_, ?_⟩ <;> rw [h]

theorem place (h : StopsOnly g g1) : g1.id = g.id ∧ g1.valloc = g.valloc ∧ g1.pc = g.pc ∧ g1.gang = g.gang ∧ g1.sb = g.sb ∧
    g1.callow = g.callow ∧ g1.arb = g.arb := by
  unfold StopsOnly at h
  refine ⟨?_, ?_, ?_, ?_, ?_, ?_, ?_⟩ <;> rw [h]

end StopsOnly

/-- Its launch's arguments and spans, and nothing else (R50, R56, R59, R66, R112). -/
theorem Placed.registers {P : Nat → Prop} {m0 : Mach} {l : Launch} {lid cl c : Nat} {g : Group} (h : Placed P m0 l lid cl c g) :
    (∀ i, g.readK i = l.record.kargs.getD i 0) ∧ (∀ i, g.readV i = fun _ => 0) ∧ (∀ i, g.tagV i = 0) ∧
    (∀ i, 0 < i → ∀ n, g.pred i n = false) ∧ g.lines = [] ∧ ∀ i x, l.record.spans[i]? = some x → g.span i = Span.ofImage x := by
  obtain ⟨-, -, uid, id, -, -, -, hstops⟩ := h
  obtain ⟨hv, hvtag, hk, hpreds, hspans, hlines⟩ := hstops.registers
  refine ⟨fun i => ?_, fun i => ?_, fun i => ?_, fun i hi n => ?_, hlines, fun i x hx => ?_⟩
  · rw [Group.readK, hk]
    exact newGroup_readK ..
  · funext t
    rw [Group.readV, hv]
    rfl
  · rw [Group.tagV, hvtag]
    rfl
  · have hempty : (newGroup uid id l.record (m0.core c).cycle (m0.ctx l.ctx).callow).preds.getD i 0 = 0 := rfl
    rw [Group.pred, hpreds, hempty]
    exact Bool.or_eq_false_iff.2 ⟨beq_false_of_ne (by omega), BitVec.getLsbD_zero⟩
  · rw [Group.span, hspans]
    exact newGroup_span _ _ _ _ _ hx

/-- It is the launch's, at its entry, with no gang, nothing pending and the time of its core (R67, R112, R348). -/
theorem Placed.place {P : Nat → Prop} {m0 : Mach} {l : Launch} {lid cl c : Nat} {g : Group} (h : Placed P m0 l lid cl c g) :
    g.id.launch = lid ∧ g.id.ctx = l.ctx ∧ g.valloc = l.record.valloc ∧ g.pc = BitVec.ofNat 56 l.record.entry ∧ g.gang = 0 ∧ g.sb = 0 ∧
    g.callow = (m0.ctx l.ctx).callow ∧ g.arb.lastRun = BitVec.ofNat 32 (m0.core c).cycle := by
  obtain ⟨-, -, uid, id, hctx, hlid, hentry, hstops⟩ := h
  obtain ⟨hid, hvalloc, hpc, hgang, hsb, hcallow, harb⟩ := hstops.place
  exact ⟨by rw [hid]; exact hlid, by rw [hid]; exact hctx, hvalloc, hpc.trans hentry, hgang, hsb, hcallow, by rw [harb]; rfl⟩

theorem PlacedBlock.rings {l : Launch} {lid : Nat} {b : Block} (h : PlacedBlock l lid b) {j : Nat} {x : Word} (hx : l.record.rings[j]? = some x) :
    b.rings.get? j = if x.toNat % 128 = 0 then none else some { offset := x.toNat / 256, depth := x.toNat % 128, allow := x.toNat % 128 } := by
  obtain ⟨-, -, hrings, -⟩ := h
  rw [hrings]
  exact newRings_get? _ hx

theorem PlacedBlock.bars {l : Launch} {lid : Nat} {b : Block} (h : PlacedBlock l lid b) {j : Nat} {x : BitVec 16} (hx : l.record.bars[j]? = some x) :
    b.bars.get? j = if x = 0 then none else some { expect := x.toNat, curexp := x.toNat } := by
  obtain ⟨-, -, -, hbars⟩ := h
  rw [hbars]
  exact newBars_get? _ hx

/-- After a placement, a slot that was free holds a group of the launch, and a block number that was free a block of it. -/
theorem Mach.placeUnit_brings {m0 m : Mach} {gated : List Nat} {lid u cl : Nat} {l : Launch} (hplace : m0.placeUnit gated lid l u = some (cl, m)) :
    (∀ c k g, m0.group? c k = none → (m.notePlaced lid u l).group? c k = some g → Placed (fun c => ¬(m0.core c).Unpinned) m0 l lid cl c g) ∧
    ∀ bid b, (m0.cluster cl).blocks.get? bid = none → ((m.notePlaced lid u l).cluster cl).blocks.get? bid = some b → PlacedBlock l lid b := by
  have hplacing := Placing.placeUnit (P := fun c => ¬(m0.core c).Unpinned) (fun _ => not_not.1) hplace
  obtain ⟨hcores, hclusters⟩ := m.notePlaced_leaves lid u l
  refine ⟨fun c k g hnone hg => ?_, fun bid b hnone hb => ?_⟩
  · rw [Mach.group?, Mach.core, hcores] at hg
    obtain ⟨g0, hold⟩ | hnew := hplacing.groups c k g hg
    · rw [hnone] at hold
      cases hold
    · exact hnew
  · rw [Mach.cluster, hclusters] at hb
    obtain ⟨b0, hold⟩ | hnew := hplacing.blocks bid b hb
    · rw [hnone] at hold
      cases hold
    · exact hnew

/-- Settles O54: the first part by the steps of a conveyance, one holding after another; the second by the K-block's update of its slot;
the third by what every step of a placement keeps. -/
theorem conveyances : Obligations.Conveyances := by
  unfold Obligations.Conveyances
  intro s
  refine ⟨?conveyed, ?computed, ?placed⟩
  case conveyed =>
    intro core slot g b en c hclock hviral hg hen hfresh hsup huid hready hsettled hblock hheld hlatches hops hwaits
    have hends : Ends s.mach core slot g b :=
      ⟨hg, by rw [hen, Option.any_some, hfresh], hsup, hsettled, hblock, hheld, hlatches, hops, hwaits⟩
    have hstep := exec_conveyance hclock hviral hg hen hready
    refine ⟨Mach.pairwise_estateOrder .., Mach.mem_estateOrder huid, ?heir, ?heirless⟩
    case heir =>
      intro j x h hheirs hnodup hx hlive hj hh hu hother
      have hcluster : ∀ e ∈ s.mach.estateOrder core g, clusterOf e.1 = clusterOf core :=
        fun e he => ((Mach.mem_estateOrder huid e.1 e.2.1 e.2.2).1 he).1
      exact conveyance_to_heir hstep hends hheirs hnodup hcluster hx hlive hj hh hu hother
    case heirless =>
      intro k i e hone hnone ⟨j, x, hj, hx, hlive⟩
      have hk : clusterOf k = clusterOf core := ((Mach.mem_estateOrder huid k i e).1 (hone ▸ List.mem_singleton_self _)).1
      exact ⟨conveyance_heirless hstep hends hone hk hnone hj hx hlive, fun m a leaf hkind hxlate ha hclean _ hwait hobj =>
        conveyance_settles_word hstep hends hone hnone hj hx hlive hkind hxlate ha hclean hwait hobj⟩
  case computed =>
    intro core o os m1 m2 as bs c k4 fa fb hworks hengine hlatches hkind hstate hprog hgated hwaits hwild has hbs hlive hgen
    have hslot := Mach.kBlock_applied hengine hlatches hkind hstate hprog hgated hwaits hwild has hbs hlive hgen
    exact ⟨_, exec_kBlock hworks, fun e he =>
      EngineOp.elems_updated hslot (Mach.length_engineRows _ has) (Mach.length_engineRows _ hbs) he⟩
  case placed =>
    intro lid l u cl m m0 hrun hviral hchance hhead hpressed hnext hplace howed r
    obtain ⟨hgroups, hblocks⟩ := Mach.placeUnit_brings hplace
    refine ⟨_, exec_placement hrun hviral hchance hhead hpressed hnext hplace howed, rfl, fun c k g hnone hg => ?_, fun bid b hnone hb => ?_⟩
    · have hplaced := hgroups c k g hnone hg
      have ⟨hcl, hready, _⟩ := hplaced
      obtain ⟨hk, hv, htag, hpred, hlines, hspans⟩ := hplaced.registers
      obtain ⟨hlid, hctx, hvalloc, hpc, hgang, hsb, hcallow, hlast⟩ := hplaced.place
      exact ⟨hcl, hlid, fun hpin => hready (not_not.2 hpin), hctx, hvalloc, hpc, hk, hv, htag, hpred, hlines, hgang, hsb, hcallow, hlast, hspans⟩
    · have hplaced := hblocks bid b hnone hb
      have ⟨hctx, hlid, _⟩ := hplaced
      exact ⟨hctx, hlid, fun _ _ hx => hplaced.rings hx, fun _ _ hx => hplaced.bars hx⟩

end Sys2Proof.Machine
end
